-- ==== Sys2Proof/Word.lean ====
section
/-! DEFINITION. The word types of the slice and the plain data that a 32-bit word with a poison mark is. -/
namespace Sys2Proof

/-- A register, or the data bits of a code word (R10, R34). -/
abbrev Word := BitVec 32

/-- A stored code word: data bits in [31:0], check bits in [38:32] (R273, R276). -/
abbrev Code := BitVec 39

/-- A package physical address (R361). -/
abbrev PA := BitVec 52

/-- A requester ID (R361, R362). -/
abbrev Rid := BitVec 16

/-- A label (R253). -/
abbrev Label := BitVec 12

/-- A flit (R355). -/
abbrev FlitBits := BitVec 512

/-- Sparse storage: pairs of an index and a value, indexes strictly rising, no value equal to what an unlisted index
reads as (`Cells.wf` states that form). -/
abbrev Cells (α : Type) := List (Nat × α)

/-- A 32-bit word of data with its poison mark (R73, R91). -/
structure PWord where
  /-- data bits -/
  val : Word
  /-- the word is poisoned -/
  poi : Bool
deriving DecidableEq, Repr

/-- The word that an unwritten place holds: zero, not poisoned. -/
def PWord.zero : PWord := ⟨0, false⟩

/-- A poisoned word for which the slice holds no data (R275). -/
def PWord.poisoned : PWord := ⟨0, true⟩

end Sys2Proof
end

