-- ==== Sys2Proof/Syntax.lean ====
section
/-! DEFINITION. The commands of the slice: one constructor for each row of the table of operations and events, with its
operands. A message command names the port and the virtual channel in which its message lies; a command of a register
page carries the operand fields of that page's PG_CMD, or the data written. -/
namespace Sys2Proof

/-- The two ports at which ULP messages arrive (R18). -/
inductive Port where
  | mp
  | vp
deriving DecidableEq, Repr

/-- The access paths of the registers that are read as two words; TP counts as SP (R488). -/
inductive Path where
  | sp
  | mp
  | vp
deriving DecidableEq, Repr

/-- What the wrapper does while tp_selectwir selects the instruction register, and to the bypass register under WS_BYPASS
(R428, R429). -/
inductive WirOp where
  /-- capture into the shift stage of the instruction register -/
  | capture
  /-- shift the instruction register by one bit with this serial input -/
  | shift (wsi : Bool)
  /-- update: the shifted code becomes the instruction -/
  | update
  /-- capture into the bypass register -/
  | bypassCapture
  /-- shift through the bypass register with this serial input -/
  | bypassShift (wsi : Bool)
deriving DecidableEq, Repr

/-- What the wrapper does to the data register of SLC_REGACC or SLC_MBIST (R428, R429). -/
inductive TpOp where
  /-- capture -/
  | capture
  /-- shift by one bit with this serial input -/
  | shift (wsi : Bool)
  /-- update -/
  | update
deriving DecidableEq, Repr

/-- What the wrapper does to the boundary register under WS_EXTEST (R406, R428). -/
inductive BoundaryOp where
  /-- capture: the VPRX cells take the levels of the receive wires, bit n = wire n -/
  | capture (rx : BitVec 579)
  /-- shift by one cell with this serial input -/
  | shift (wsi : Bool)
  /-- update: the VPTX cells drive the transmit wires -/
  | update
deriving DecidableEq, Repr

/-- The commands, in the order of the table. -/
inductive Instr where
  /-- POR_ASSERT (R412). -/
  | porAssert
  /-- POR_RELEASE (R411). -/
  | porRelease (id : BitVec 8) (coord : BitVec 16) (march hold : Bool)
  /-- WARM_RESET_ASSERT (R412). -/
  | warmResetAssert
  /-- WARM_RESET_RELEASE (R411). -/
  | warmResetRelease (id : BitVec 8) (coord : BitVec 16) (march hold : Bool)
  /-- WARM_RESET (R424). -/
  | warmReset (fill : Bool)
  /-- WARM_RESET_TAKE_EFFECT (R424). -/
  | warmResetTakeEffect
  /-- STARTUP_POWER_DONE (R417). -/
  | startupPowerDone
  /-- STARTUP_BANK_TMO (R417). -/
  | startupBankTmo (bank : Nat)
  /-- ZERO_FILL_DONE (R418). -/
  | zeroFillDone
  /-- STARTUP_MARCH_DONE (R419). -/
  | startupMarchDone
  /-- RELEASE (R421). -/
  | release (fill : Bool)
  /-- PWR_ACK_RISE (R380). -/
  | pwrAckRise (bank : Nat)
  /-- PWR_ACK_FALL (R380). -/
  | pwrAckFall (bank : Nat)
  /-- PWR_HANDSHAKE_TMO (R59). -/
  | pwrHandshakeTmo (bank : Nat)
  /-- BANK_ON_DELAY (R57). -/
  | bankOnDelay (bank : Nat)
  /-- RETENTION_IDLE_EXPIRE (R56). -/
  | retentionIdleExpire (bank : Nat)
  /-- MP_FLIT_IN (R357). -/
  | mpFlitIn (vc : BitVec 4) (isHdr : Bool) (flit : BitVec 512) (emptyRead : Bool)
  /-- MP_INIT_CREDITS (R358). -/
  | mpInitCredits
  /-- MP_OUT_CREDIT (R357). -/
  | mpOutCredit (vc : Nat)
  /-- MP_FLIT_OUT (R359). -/
  | mpFlitOut (mtag : BitVec 12) (xing : Option Bool)
  /-- MP_VCRST_IN (R360). -/
  | mpVcrstIn (vc : Nat)
  /-- MP_VCRST_WAIT_DONE (R360). -/
  | mpVcrstWaitDone (vc : Nat)
  /-- MALFORMED_MSG (R368). -/
  | malformedMsg (p : Port) (vc : Nat)
  /-- STALE_MSG (R493). -/
  | staleMsg (p : Port) (vc : Nat)
  /-- READ_SHARED (R84). -/
  | readShared (p : Port) (vc : Nat)
  /-- READ_OWN (R84). -/
  | readOwn (p : Port) (vc : Nat)
  /-- READ_NO_SNOOP (R84). -/
  | readNoSnoop (p : Port) (vc : Nat)
  /-- WRITE_INVALIDATE (R84). -/
  | writeInvalidate (p : Port) (vc : Nat)
  /-- WRITE_PARTIAL_INVALIDATE (R84). -/
  | writePartialInvalidate (p : Port) (vc : Nat)
  /-- ATOMIC (R134). -/
  | atomic (p : Port) (vc : Nat)
  /-- ACCUMULATE (R171). -/
  | accumulate (p : Port) (vc : Nat)
  /-- TANGO_READ (R184). -/
  | tangoRead (p : Port) (vc : Nat)
  /-- FENCE (R113). -/
  | fence (p : Port) (vc : Nat)
  /-- FENCE_COMPLETE (R113). -/
  | fenceComplete (n : Nat)
  /-- ENQUEUE (R158). -/
  | enqueue (p : Port) (vc : Nat)
  /-- DEQUEUE (R158). -/
  | dequeue (p : Port) (vc : Nat)
  /-- ENQUEUE_BATCH (R158). -/
  | enqueueBatch (p : Port) (vc : Nat)
  /-- DEQUEUE_BATCH (R158). -/
  | dequeueBatch (p : Port) (vc : Nat)
  /-- SEL_OFFER (R204). -/
  | selOffer (p : Port) (vc : Nat)
  /-- SEL_OFFER_PAIRS (R204). -/
  | selOfferPairs (p : Port) (vc : Nat)
  /-- SEL_READ_RESET (R206). -/
  | selReadReset (p : Port) (vc : Nat)
  /-- SEL_RESET (R206). -/
  | selReset (p : Port) (vc : Nat)
  /-- SEL_MERGE_START (R205). -/
  | selMergeStart
  /-- SEL_MERGE_DONE (R205). -/
  | selMergeDone (unit : Nat)
  /-- STREAMCTL_RENEW (R240). -/
  | streamctlRenew (p : Port) (vc : Nat)
  /-- STREAMCTL_STOP (R241). -/
  | streamctlStop (p : Port) (vc : Nat)
  /-- CFG_READ (R364). -/
  | cfgRead (p : Port) (vc : Nat)
  /-- CFG_WRITE (R364). -/
  | cfgWrite (p : Port) (vc : Nat)
  /-- EVICT (R88). -/
  | evict (p : Port) (vc : Nat) (tt : Nat)
  /-- WRITE_BACK (R88). -/
  | writeBack (p : Port) (vc : Nat) (tt : Nat)
  /-- NO_COPY (R86). -/
  | noCopy (p : Port) (vc : Nat)
  /-- KEPT_SHARED (R86). -/
  | keptShared (p : Port) (vc : Nat)
  /-- PASSED_SHARED (R86). -/
  | passedShared (p : Port) (vc : Nat)
  /-- PASSED_GONE (R86). -/
  | passedGone (p : Port) (vc : Nat)
  /-- PASSED_KEPT (R86). -/
  | passedKept (p : Port) (vc : Nat)
  /-- WB_IN_FLIGHT (R93). -/
  | wbInFlight (p : Port) (vc : Nat)
  /-- PASSED_DIRTY (R86). -/
  | passedDirty (p : Port) (vc : Nat)
  /-- LINE_BACK (R86). -/
  | lineBack (p : Port) (vc : Nat)
  /-- FWD_DATA_TO_HOME (R118). -/
  | fwdDataToHome (p : Port) (vc : Nat)
  /-- COMP_ACK (R89). -/
  | compAck (p : Port) (vc : Nat)
  /-- AGENT_FENCE (R95). -/
  | agentFence (p : Port) (vc : Nat)
  /-- FENCE_SNOOP_COMPLETE (R96). -/
  | fenceSnoopComplete (tt : Nat) (cai : BitVec 12)
  /-- MCAST_RESIDUAL (R369). -/
  | mcastResidual (p : Port) (vc : Nat)
  /-- MCAST_LIST_ACK (R370). -/
  | mcastListAck (p : Port) (vc : Nat)
  /-- ENGINE_COMP (R226). -/
  | engineComp (p : Port) (vc : Nat)
  /-- ADMIT (R25). -/
  | admitReq (tt : Nat)
  /-- LINE_ACTIVATE (R28). -/
  | lineActivate (tt : Nat)
  /-- SF_ALLOC_RETRY (R81). -/
  | sfAllocRetry (tt : Nat)
  /-- SNOOP_TMO (R100). -/
  | snoopTmo (tt : Nat) (cai : BitVec 12)
  /-- XP_SLOT_GRANT (R30). -/
  | xpSlotGrant (tag : Nat)
  /-- XP_READ_TRANSFER (R373). -/
  | xpReadTransfer (tag : Nat)
  /-- XP_READ_BEAT (R373). -/
  | xpReadBeat (tag : Nat) (sector : Bool) (data : BitVec 512) (poison : BitVec 16)
  /-- XP_WRITE_BEAT (R374). -/
  | xpWriteBeat
  /-- XP_READ_TMO (R375). -/
  | xpReadTmo (tag : Nat)
  /-- BANK_GRANT (R32). -/
  | bankGrant (bank : Nat)
  /-- BANK_OP_COMPLETE (R36). -/
  | bankOpComplete (bank : Nat) (upsets : List (Nat × BitVec 39))
  /-- JIG_ENTRIES_GRANT (R66). -/
  | jigEntriesGrant
  /-- JIG_HOLD_EXPIRE (R63). -/
  | jigHoldExpire (n : Nat)
  /-- ALB_ENTRY_TAKE (R142). -/
  | albEntryTake (tt : Nat)
  /-- ATOMIC_EXECUTE (R145). -/
  | atomicExecute (cell : Nat)
  /-- ATOMIC_RESULT (R146). -/
  | atomicResult (cell : Nat)
  /-- ACC_GROUP_ISSUE (R175). -/
  | accGroupIssue (cell : Nat)
  /-- ACC_GROUP_WRITE (R175). -/
  | accGroupWrite (cell : Nat)
  /-- COH_FENCE (R95). -/
  | cohFence (cai : BitVec 12)
  /-- COH_UNFENCE (R99). -/
  | cohUnfence (cai : BitVec 12)
  /-- COH_SWEEP (R99). -/
  | cohSweep (cai : BitVec 12)
  /-- COH_FENCE_NOP (R102). -/
  | cohFenceNop (cai : BitVec 12)
  /-- SWEEP_SET (R99). -/
  | sweepSet
  /-- SET_MODE (R44). -/
  | setMode (way : BitVec 4) (mode : BitVec 2)
  /-- LOCK (R43). -/
  | lock (way : BitVec 4) (mode : BitVec 2)
  /-- UNLOCK (R43). -/
  | unlock (way : BitVec 4) (mode : BitVec 2)
  /-- SET_MODE_DRAINED (R44). -/
  | setModeDrained
  /-- SET_MODE_STEP_DONE (R44). -/
  | setModeStepDone
  /-- CLEAN_PA (R118). -/
  | cleanPa (way : BitVec 4)
  /-- INV_PA (R118). -/
  | invPa (way : BitVec 4)
  /-- CLINV_PA (R118). -/
  | clinvPa (way : BitVec 4)
  /-- CLEAN_SW (R119). -/
  | cleanSw (way : BitVec 4)
  /-- INV_SW (R119). -/
  | invSw (way : BitVec 4)
  /-- CLINV_SW (R119). -/
  | clinvSw (way : BitVec 4)
  /-- PRELOAD_LOCK (R125). -/
  | preloadLock (way : BitVec 4)
  /-- ALB_FLUSH (R127). -/
  | albFlush (way : BitVec 4)
  /-- ALB_FLUSH_PA (R127). -/
  | albFlushPa (way : BitVec 4)
  /-- MNT_WALK_ISSUE (R117). -/
  | mntWalkIssue (tt : Nat)
  /-- MNT_COMPLETE (R122). -/
  | mntComplete
  /-- QUE_DEFINE (R153). -/
  | queDefine (q : BitVec 14)
  /-- QUE_ENABLE (R153). -/
  | queEnable (q : BitVec 14)
  /-- QUE_DISABLE (R153). -/
  | queDisable (q : BitVec 14)
  /-- QUE_READ (R153). -/
  | queRead (q : BitVec 14)
  /-- QUE_CMD_DONE (R153). -/
  | queCmdDone
  /-- QUE_EVT_READ (R162). -/
  | queEvtRead
  /-- SEL_DEFINE (R209). -/
  | selDefine (r : BitVec 10)
  /-- SEL_UNDEFINE (R209). -/
  | selUndefine (r : BitVec 10)
  /-- SEL_CMD_RESET (R209). -/
  | selCmdReset (r : BitVec 10)
  /-- SEL_CMD_DONE (R209). -/
  | selCmdDone
  /-- GLP_START (R228). -/
  | glpStart (chan : BitVec 5)
  /-- GLP_STOP (R227). -/
  | glpStop (chan : BitVec 5)
  /-- GLP_CLEAR (R227). -/
  | glpClear (chan : BitVec 5)
  /-- INIT_FILL (R229). -/
  | initFill (chan : BitVec 5)
  /-- INIT_FILL_DONE (R229). -/
  | initFillDone
  /-- GLP_DESC_LOADED (R224). -/
  | glpDescLoaded (chan : Nat)
  /-- GLP_LINE_ISSUE (R220). -/
  | glpLineIssue
  /-- GLP_DESC_END (R225). -/
  | glpDescEnd (chan : Nat)
  /-- GLP_STATUS_COMMIT (R225). -/
  | glpStatusCommit (chan : Nat)
  /-- REEL_DEFINE (R244). -/
  | reelDefine (ctx : BitVec 6)
  /-- REEL_START (R244). -/
  | reelStart (ctx : BitVec 6)
  /-- REEL_STOP (R241). -/
  | reelStop (ctx : BitVec 6)
  /-- REEL_RENEW (R240). -/
  | reelRenew (ctx : BitVec 6)
  /-- REEL_READ (R244). -/
  | reelRead (ctx : BitVec 6)
  /-- REEL_RELEASE (R244). -/
  | reelRelease (ctx : BitVec 6)
  /-- REEL_GROUP_WRITE (R232). -/
  | reelGroupWrite (data : BitVec 32)
  /-- CHUNK_START (R234). -/
  | chunkStart
  /-- CHUNK_READY (R235). -/
  | chunkReady (ctx : Nat)
  /-- STREAM_CHUNK_SEND (R236). -/
  | streamChunkSend (ctx : Nat) (upsets : List (Nat × BitVec 39))
  /-- CLR_COUNTERS (R270). -/
  | clrCounters
  /-- WINDOW_BOUNDARY (R259). -/
  | windowBoundary
  /-- TC0_CFG_WRITE (R268). -/
  | tc0CfgWrite (data : BitVec 32)
  /-- SCRUB_START (R296). -/
  | scrubStart (way : BitVec 4)
  /-- SCRUB_STOP (R299). -/
  | scrubStop (way : BitVec 4)
  /-- SCRUB_READ_ISSUE (R297). -/
  | scrubReadIssue (bank : Nat)
  /-- SCRUB_PASS_END (R297). -/
  | scrubPassEnd
  /-- CHK_WRITE (R300). -/
  | chkWrite (way : BitVec 4)
  /-- CHK_READ (R300). -/
  | chkRead (way : BitVec 4)
  /-- CHK_DONE (R300). -/
  | chkDone
  /-- CLR_WAY (R307). -/
  | clrWay (way : BitVec 4)
  /-- ECC_ERR_INJ (R280). -/
  | eccErrInj (data : BitVec 32)
  /-- REPAIR_START (R282). -/
  | repairStart (tt : Nat)
  /-- REPAIR_STEP (R283). -/
  | repairStep (tt : Nat)
  /-- WAY_DISABLE_START (R293). -/
  | wayDisableStart (way : Nat)
  /-- WAY_DISABLE_WALK (R293). -/
  | wayDisableWalk (tt : Nat)
  /-- WAY_DISABLE_DONE (R293). -/
  | wayDisableDone
  /-- MARCH_RUN (R301). -/
  | marchRun
  /-- MARCH_STOP (R305). -/
  | marchStop
  /-- MARCH_ROW_OP (R303). -/
  | marchRowOp (upsets : List (Nat × Nat))
  /-- MARCH_PASS_END (R302). -/
  | marchPassEnd
  /-- LRT_MAP (R291). -/
  | lrtMap (way : BitVec 4) (set : BitVec 14)
  /-- LRT_UNMAP (R291). -/
  | lrtUnmap (way : BitVec 4) (set : BitVec 14)
  /-- LRT_CMD_DONE (R291). -/
  | lrtCmdDone
  /-- LOG_APPLY (R321). -/
  | logApply
  /-- LOG_FREE (R323). -/
  | logFree (index : BitVec 6) (count : BitVec 16)
  /-- LOG_FREE_ALL (R323). -/
  | logFreeAll (index : BitVec 6) (count : BitVec 16)
  /-- FLT_HEAD_WRITE (R329). -/
  | fltHeadWrite (data : BitVec 32)
  /-- RECOVER (R351). -/
  | recover
  /-- GAV_ERR_INJ (R352). -/
  | gavErrInj (data : BitVec 32)
  /-- GAV_HOLD_END (R336). -/
  | gavHoldEnd
  /-- GAV_WAIT_EXPIRE (R336). -/
  | gavWaitExpire
  /-- GAV_SORT_DONE (R340). -/
  | gavSortDone
  /-- GAV_REPAIR_DONE (R337). -/
  | gavRepairDone
  /-- BANK_REPAIR_TMO (R339). -/
  | bankRepairTmo (bank : Nat)
  /-- GAV_REPLAY_DONE (R341). -/
  | gavReplayDone
  /-- GAV_RELEASE (R342). -/
  | gavRelease
  /-- VP_RETRAIN (R405). -/
  | vpRetrain
  /-- VP_DISABLE (R405). -/
  | vpDisable
  /-- VP_FRAME_IN (R395). -/
  | vpFrameIn (ctl : List (BitVec 18)) (data : List (BitVec 544))
  /-- VP_FRAME_OUT (R390). -/
  | vpFrameOut
  /-- VP_REPLAY_LIMIT (R403). -/
  | vpReplayLimit
  /-- VP_CLOCK_LOSS (R403). -/
  | vpClockLoss
  /-- VP_ACK_TMO (R403). -/
  | vpAckTmo
  /-- VP_MARKER_LOSS (R403). -/
  | vpMarkerLoss
  /-- TRAIN_PHASE_END (R397). -/
  | trainPhaseEnd (bad : List Nat)
  /-- TRAIN_WORD_RX (R400). -/
  | trainWordRx (beats : List (BitVec 579))
  /-- TRAIN_ATTEMPT_TMO (R398). -/
  | trainAttemptTmo
  /-- SP_REQUEST (R377). -/
  | spRequest (write : Bool) (addr data : BitVec 32)
  /-- SP_RESPONSE (R377). -/
  | spResponse
  /-- MSI_SEND (R379). -/
  | msiSend (n : Nat)
  /-- MSI_ARM_WRITE (R379). -/
  | msiArmWrite (data : BitVec 32)
  /-- HMT_CSUM_WRITE (R444). -/
  | hmtCsumWrite (data : BitVec 32)
  /-- HMT_CHECK_DONE (R444). -/
  | hmtCheckDone
  /-- COVERED_WORD_WRITE (R444). -/
  | coveredWordWrite (off : Nat) (data : BitVec 32)
  /-- PMU_SNAP (R461). -/
  | pmuSnap
  /-- PMU_MODE_WRITE (R463). -/
  | pmuModeWrite (data : BitVec 32)
  /-- COMPAT_COUNTER_WRITE (R465). -/
  | compatCounterWrite (off : Nat) (data : BitVec 32)
  /-- EVSEL_WRITE (R465). -/
  | evselWrite (off : Nat) (data : BitVec 32)
  /-- SMP_HEAD_WRITE (R472). -/
  | smpHeadWrite (data : BitVec 32)
  /-- SMP_SEED_WRITE (R467). -/
  | smpSeedWrite (data : BitVec 32)
  /-- LOW_WORD_READ (R488). -/
  | lowWordRead (path : Path) (off : Nat)
  /-- W1C_WRITE (R13). -/
  | w1cWrite (off : Nat) (data : BitVec 32)
  /-- SLC_CTRL_WRITE (R14). -/
  | slcCtrlWrite (data : BitVec 32)
  /-- REGISTER_WRITE (R487). -/
  | registerWrite (off : Nat) (data : BitVec 32)
  /-- TP_INSTRUCTION (R429). -/
  | tpInstruction (op : WirOp)
  /-- TP_REGACC (R430). -/
  | tpRegacc (op : TpOp)
  /-- TP_MBIST (R431). -/
  | tpMbist (op : TpOp)
  /-- CYCLES_COUNTER_WRAP (R459). -/
  | cyclesCounterWrap (event : Nat)
  /-- WRAPPER_RESET (R429). -/
  | wrapperReset
  /-- EXTEST_BOUNDARY_UPDATE (R406). -/
  | extestBoundaryUpdate (op : BoundaryOp)
deriving DecidableEq, Repr

end Sys2Proof
end

