-- ==== Sys2Proof/Decode.lean ====
section
/-! DEFINITION. Words that spell a command: the table of operations gives its rows no bits. -/
namespace Sys2Proof

/-- The command that a word spells by the bits of the table; no row has any. (DESIGN CHOICE, log entry 9) -/
def decodeTableWord (_nbits _w : Nat) : Option Instr := none

end Sys2Proof
end

