-- ==== Sys2Proof/Machine/Store.lean ====
section
/-! DEFINITION. Sparse storage in canonical form, and small list and bit helpers that every other file uses. -/
namespace Sys2Proof.Machine

/-- The pair stored for index `k`, if any. -/
def cFind {α : Type} : Cells α → Nat → Option α
  | [], _ => none
  | (i, v) :: r, k => if i = k then some v else cFind r k

/-- Remove index `k`. -/
def cDel {α : Type} : Cells α → Nat → Cells α
  | [], _ => []
  | (i, v) :: r, k => if i = k then cDel r k else (i, v) :: cDel r k

/-- Store `v` for index `k`, keeping the indexes rising. -/
def cIns {α : Type} : Cells α → Nat → α → Cells α
  | [], k, v => [(k, v)]
  | (i, w) :: r, k, v =>
    if k < i then (k, v) :: (i, w) :: r
    else if k = i then (k, v) :: r
    else (i, w) :: cIns r k v

/-- Read with `d` as what an unlisted index reads as. -/
def cGet {α : Type} (d : α) (c : Cells α) (k : Nat) : α := (cFind c k).getD d

/-- Write with `d` as what an unlisted index reads as: writing `d` removes the entry. -/
def cPut {α : Type} [DecidableEq α] (d : α) (c : Cells α) (k : Nat) (v : α) : Cells α :=
  if v = d then cDel c k else cIns c k v

/-- Indexes strictly rise, from `lo` on. -/
def cRising {α : Type} : Nat → Cells α → Bool
  | _, [] => true
  | lo, (i, _) :: r => decide (lo ≤ i) && cRising (i + 1) r

/-- The canonical form: indexes strictly rising, no value equal to what an unlisted index reads as. -/
def cWf {α : Type} [DecidableEq α] (d : α) (c : Cells α) : Bool :=
  cRising 0 c && c.all (fun p => decide (p.2 ≠ d))

/-- Change the entry at `k`, if there is one. -/
def cUpd {α : Type} (c : Cells α) (k : Nat) (f : α → α) : Cells α :=
  c.map (fun p => if p.1 = k then (p.1, f p.2) else p)

/-- Remove every index in the range [lo, lo + n). -/
def cClear {α : Type} (c : Cells α) (lo n : Nat) : Cells α :=
  c.filter (fun p => !(decide (lo ≤ p.1) && decide (p.1 < lo + n)))

/-- Number of entries whose value meets `p`. -/
def cCount {α : Type} (c : Cells α) (p : Nat → α → Bool) : Nat :=
  c.foldl (fun n x => if p x.1 x.2 then n + 1 else n) 0

/-- The first entry, in rising index order, whose value meets `p`. -/
def cSeek {α : Type} (p : Nat → α → Bool) : Cells α → Option (Nat × α)
  | [] => none
  | x :: r => if p x.1 x.2 then some x else cSeek p r

/-- The lowest index below `n`, counted from `start` and going round, at which `c` lists nothing. -/
def cFreeFrom {α : Type} (c : Cells α) (n start : Nat) : Option Nat :=
  (List.range (c.length + 1)).findSome? (fun j =>
    let k := (start + j) % n
    if decide (0 < n) && (cFind c k).isNone then some k else none)

/-- The lowest index below `n` at which `c` lists nothing. -/
def cFree {α : Type} (c : Cells α) (n : Nat) : Option Nat := cFreeFrom c n 0

/-- The element of `l` with the least key. -/
def leastBy {α : Type} (f : α → Nat) : List α → Option α
  | [] => none
  | x :: r =>
    match leastBy f r with
    | none => some x
    | some y => if f x ≤ f y then some x else some y

/-- Remove the first element that meets `p`. -/
def dropFirst {α : Type} (p : α → Bool) : List α → List α
  | [] => []
  | x :: r => if p x then r else x :: dropFirst p r

/-- Bits [hi:lo] of a number. -/
def bitsN (n hi lo : Nat) : Nat := (n >>> lo) % 2 ^ (hi + 1 - lo)

/-- Bit `i` of a number. -/
def bitN (n i : Nat) : Bool := (n >>> i) % 2 = 1

/-- Bits [hi:lo] of a word, as a number. -/
def fld {w : Nat} (x : BitVec w) (hi lo : Nat) : Nat := bitsN x.toNat hi lo

/-- Bit `i` of a word. -/
def bit {w : Nat} (x : BitVec w) (i : Nat) : Bool := bitN x.toNat i

/-- A word with bit `i` set to `b`. -/
def setBit {w : Nat} (x : BitVec w) (i : Nat) (b : Bool) : BitVec w :=
  if b then x ||| BitVec.ofNat w (2 ^ i) else x &&& ~~~ BitVec.ofNat w (2 ^ i)

/-- A field of `v` placed at bit `lo`. -/
def at_ (v lo : Nat) : Word := BitVec.ofNat 32 (v <<< lo)

/-- A truth value as a number. -/
def b2n (b : Bool) : Nat := if b then 1 else 0

/-- Number of set bits among the low `n`. -/
def ones (x n : Nat) : Nat := ((List.range n).filter (fun i => bitN x i)).length

/-- The bit numbers set in the low `n` bits. -/
def bitsOf (x n : Nat) : List Nat := (List.range n).filter (fun i => bitN x i)

/-- The number whose set bits are those of the list. -/
def maskOf (l : List Nat) : Nat := l.foldl (fun m i => m ||| 2 ^ i) 0

/-- Addition that saturates at 0xFFFF_FFFF. -/
def satAdd (x : Word) (n : Nat) : Word := BitVec.ofNat 32 (min (x.toNat + n) 0xFFFFFFFF)

end Sys2Proof.Machine
end

