-- ==== Sys2Proof/Machine/Fp.lean ====
section
/-! DEFINITION. Arithmetic of the far atomics and the accumulation cells: exact sums rounded once (R136, R178), widening of
inputs (R177), the compensated add (R138, R183) and MX blocks (R188 to R190). -/
namespace Sys2Proof.Machine

/-- A number format with `eb` exponent bits and `mb` fraction bits, infinities and NaNs as in IEEE 754. -/
structure FpFmt where
  eb : Nat
  mb : Nat

/-- FP32. -/
def fp32 : FpFmt := ⟨8, 23⟩
/-- BF16. -/
def bf16 : FpFmt := ⟨8, 7⟩
/-- FP16. -/
def fp16 : FpFmt := ⟨5, 10⟩
/-- OCP FP8 E5M2. -/
def e5m2 : FpFmt := ⟨5, 2⟩
/-- Exponent bias. -/
def FpFmt.bias (f : FpFmt) : Nat := 2 ^ (f.eb - 1) - 1

/-- Width in bits. -/
def FpFmt.width (f : FpFmt) : Nat := 1 + f.eb + f.mb

/-- A value: `m` times 2 to the `e` with a sign for zero, an infinity, or a NaN with its bits in the format at hand. -/
inductive Num where
  | fin (neg : Bool) (m : Nat) (e : Int)
  | inf (neg : Bool)
  | nan (bits : Nat)
deriving DecidableEq, Repr

/-- Decode bits of an IEEE format. -/
def fpDec (f : FpFmt) (x : Nat) : Num :=
  let neg := bitN x (f.eb + f.mb)
  let ex := (x >>> f.mb) % 2 ^ f.eb
  let fr := x % 2 ^ f.mb
  if ex = 2 ^ f.eb - 1 then (if fr = 0 then .inf neg else .nan x)
  else if ex = 0 then .fin neg fr (1 - (f.bias : Int) - f.mb)
  else .fin neg (2 ^ f.mb + fr) ((ex : Int) - f.bias - f.mb)

/-- Decode E4M3: no infinities, S.1111.111 is NaN. -/
def e4m3Dec (x : Nat) : Num :=
  if x % 128 = 0x7F then .nan x
  else
    let ex := (x >>> 3) % 16
    if ex = 0 then .fin (bitN x 7) (x % 8) (-9) else .fin (bitN x 7) (8 + x % 8) ((ex : Int) - 10)

/-- `m` times 2 to the `-k`, rounded to nearest, ties to even. -/
def rneShift (m k : Nat) : Nat :=
  let q := m >>> k
  let r := m % 2 ^ k
  if 2 ^ k < 2 * r ∨ (2 * r = 2 ^ k ∧ k ≠ 0 ∧ q % 2 = 1) then q + 1 else q

/-- Round m·2^e to a grid with `mb` fraction bits whose least exponent is `emin`: the significand and its exponent. -/
def rneGrid (mb : Nat) (emin : Int) (m : Nat) (e : Int) : Nat × Int :=
  let q := max emin ((Nat.log2 m : Int) + e - mb)
  let s := q - e
  let r := if s ≤ 0 then m * 2 ^ (-s).toNat else rneShift m s.toNat
  if r = 2 ^ (mb + 1) then (2 ^ mb, q + 1) else (r, q)

/-- Round a finite value into a format: the bits, and whether it rounded to infinity. -/
def fpRound (f : FpFmt) (neg : Bool) (m : Nat) (e : Int) : Nat × Bool :=
  let sg := b2n neg * 2 ^ (f.eb + f.mb)
  if m = 0 then (sg, false) else
  let emin := 1 - (f.bias : Int) - f.mb
  let (r, q) := rneGrid f.mb emin m e
  let ex := if r < 2 ^ f.mb then 0 else (q - emin + 1).toNat
  if 2 ^ f.eb - 1 ≤ ex then (sg + (2 ^ f.eb - 1) * 2 ^ f.mb, true)
  else (sg + ex * 2 ^ f.mb + r % 2 ^ f.mb, false)

/-- The exact sum of two finite values: sign, significand, exponent; zeros of opposite sign sum to +0. -/
def finAdd (n1 : Bool) (m1 : Nat) (e1 : Int) (n2 : Bool) (m2 : Nat) (e2 : Int) : Bool × Nat × Int :=
  let e := min e1 e2
  let a : Int := (if n1 then -1 else 1) * (m1 * 2 ^ (e1 - e).toNat : Nat)
  let b : Int := (if n2 then -1 else 1) * (m2 * 2 ^ (e2 - e).toNat : Nat)
  let s := a + b
  (if s = 0 then n1 && n2 else decide (s < 0), s.natAbs, e)

/-- The quiet bit set. -/
def quiet (f : FpFmt) (x : Nat) : Nat := if bitN x (f.mb - 1) then x else x + 2 ^ (f.mb - 1)

/-- A NaN whose quiet bit is clear. -/
def signalling (f : FpFmt) (v : Num) : Bool := match v with | .nan x => !bitN x (f.mb - 1) | _ => false

/-- The default NaN (R136). -/
def defaultNan (f : FpFmt) : Nat := (2 ^ f.eb - 1) * 2 ^ f.mb + 2 ^ (f.mb - 1)

/-- A result with its flags: invalid, overflow. -/
structure FpRes where
  bits : Nat
  inv : Bool
  ovf : Bool
deriving DecidableEq, Repr

/-- IEEE addition of t and x in one lane, NaNs in the order of R136. -/
def fpAdd (f : FpFmt) (t x : Nat) : FpRes :=
  let a := fpDec f t
  let b := fpDec f x
  let sn := signalling f a || signalling f b
  match a, b with
  | .nan y, _ => ⟨quiet f y, sn, false⟩
  | _, .nan y => ⟨quiet f y, sn, false⟩
  | .inf n1, .inf n2 => if n1 = n2 then ⟨t, sn, false⟩ else ⟨defaultNan f, true, false⟩
  | .inf _, _ => ⟨t, sn, false⟩
  | _, .inf _ => ⟨x, sn, false⟩
  | .fin n1 m1 e1, .fin n2 m2 e2 =>
    let (n, m, e) := finAdd n1 m1 e1 n2 m2 e2
    let (r, o) := fpRound f n m e
    ⟨r, sn, o⟩

/-- The lanes of a wide operand added one by one; lane 0 lowest. -/
def fpLanes (f : FpFmt) (n t x : Nat) : FpRes :=
  (List.range n).foldl (fun a i =>
    let w := f.width
    let r := fpAdd f ((t >>> (w * i)) % 2 ^ w) ((x >>> (w * i)) % 2 ^ w)
    ⟨a.bits + r.bits * 2 ^ (w * i), a.inv || r.inv, a.ovf || r.ovf⟩) ⟨0, false, false⟩

/-- The bits of an FP32 value are finite. -/
def isFinite32 (x : Nat) : Bool := match fpDec fp32 x with | .fin .. => true | _ => false

/-- The exact error of the rounded sum s + x, as FP32 bits; zero where the sum is not finite (R138). -/
def twoSumErr (s x sn : Nat) : Nat :=
  match fpDec fp32 s, fpDec fp32 x, fpDec fp32 sn with
  | .fin n1 m1 e1, .fin n2 m2 e2, .fin n3 m3 e3 =>
    let (n, m, e) := finAdd n1 m1 e1 n2 m2 e2
    let (n, m, e) := finAdd n m e (!n3) m3 e3
    (fpRound fp32 (n && decide (m ≠ 0)) m e).1
  | _, _, _ => 0

/-- The compensated add (R138, R183): new sum and compensation term, with flags. -/
def cadd (s c x : Nat) : Nat × Nat × Bool × Bool :=
  let r := fpAdd fp32 s x
  let e := if isFinite32 r.bits then twoSumErr s x r.bits else 0
  let q := fpAdd fp32 c e
  (r.bits, q.bits, r.inv || q.inv, r.ovf || q.ovf)

/-- A widened input: its FP32 bits and flags, for the floating-point formats (R177). -/
def widenNum (f : FpFmt) (x : Nat) : FpRes :=
  match fpDec f x with
  | .nan y => ⟨b2n (bitN y (f.eb + f.mb)) * 2 ^ 31 + 0x7F800000 + (quiet f y % 2 ^ f.mb) * 2 ^ (23 - f.mb),
      signalling f (.nan y), false⟩
  | .inf n => ⟨b2n n * 2 ^ 31 + 0x7F800000, false, false⟩
  | .fin n m e => ⟨(fpRound fp32 n m e).1, false, false⟩

/-- Widen an FP8 element: its NaNs become the default NaN with the sign of the input (R177). -/
def widen8 (v : Num) (sgn : Bool) : FpRes :=
  match v with
  | .nan _ => ⟨b2n sgn * 2 ^ 31 + 0x7FC00000, false, false⟩
  | .inf n => ⟨b2n n * 2 ^ 31 + 0x7F800000, false, false⟩
  | .fin n m e => ⟨(fpRound fp32 n m e).1, false, false⟩

/-- An int8 as sign and magnitude. -/
def int8 (x : Nat) : Bool × Nat := if 128 ≤ x % 256 then (true, 256 - x % 256) else (false, x % 256)

/-- Widen input element bits `x` of format code `ifmt` under scale `sc` to FP32 (R168, R177). -/
def widen (ifmt x sc : Nat) : FpRes :=
  match ifmt with
  | 0 => widenNum fp32 x
  | 1 => widenNum bf16 x
  | 2 => widenNum fp16 x
  | 3 => widen8 (e4m3Dec x) (bitN x 7)
  | 4 => widen8 (fpDec e5m2 x) (bitN x 7)
  | 7 | 8 =>
    if sc = 0xFF then ⟨0x7FC00000, false, false⟩ else
    match (if ifmt = 7 then e4m3Dec x else fpDec e5m2 x) with
    | .fin n m e => let (r, o) := fpRound fp32 n m (e + sc - 127); ⟨r, false, o⟩
    | v => widen8 v (bitN x 7)
  | 9 =>
    if sc = 0xFF then ⟨0x7FC00000, false, false⟩ else
    let (n, m) := int8 x
    ⟨(fpRound fp32 n m ((sc : Int) - 133)).1, false, false⟩
  | _ => ⟨0, false, false⟩

/-- Element size in bytes of an input format (R168). -/
def ifmtSize (ifmt : Nat) : Nat := match ifmt with | 0 | 6 => 4 | 1 | 2 => 2 | _ => 1

/-! ### MX blocks -/

/-- An element of an MX record at scale x: E4M3 for opcode 0x12, INT8 for 0x13 (R186). -/
def mxDec (fp8 : Bool) (b x : Nat) : Num :=
  if fp8 then
    match e4m3Dec b with
    | .fin n m e => .fin n m (e + x - 127)
    | v => v
  else let (n, m) := int8 b; .fin n m ((x : Int) - 133)

/-- Sum of an element and a widened input, exact; a NaN of the element goes first (R136). The sign of a NaN counts. -/
def mxSum (old inp : Num) : Num :=
  match old, inp with
  | .nan y, _ => .nan (b2n (bitN y 7))
  | _, .nan y => .nan (b2n (bitN y 31))
  | .fin n1 m1 e1, .fin n2 m2 e2 => let (n, m, e) := finAdd n1 m1 e1 n2 m2 e2; .fin n m e
  | _, .inf n => .inf n
  | .inf n, _ => .inf n

/-- Encode a finite value at scale x, rounding once: the byte, and whether it is out of range (R188). -/
def mxEnc (fp8 : Bool) (x : Nat) (neg : Bool) (m : Nat) (e : Int) : Nat × Bool :=
  if fp8 then
    if m = 0 then (b2n neg * 128, false) else
    let (r, q) := rneGrid 3 (-9) m (e + 127 - x)
    let ex := if r < 8 then 0 else (q + 10).toNat
    if 15 < ex ∨ (ex = 15 ∧ 6 < r % 8) then (0, true) else (b2n neg * 128 + ex * 8 + r % 8, false)
  else
    let s := e + 133 - x
    let v := if 0 ≤ s then m * 2 ^ s.toNat else rneShift m (-s).toNat
    if 127 < v then (0, true) else (if neg then (256 - v) % 256 else v, false)

/-- A saturated element (R188). -/
def mxSat (fp8 neg : Bool) : Nat :=
  if fp8 then b2n neg * 128 + 0x7E else if neg then 256 - 127 else 127

/-- What one attempt on a block gives: bytes, saturated, NaN met, out of range. -/
structure MxTry where
  bytes : List Nat
  sat : Bool
  nan : Bool
  ovf : Bool
deriving DecidableEq, Repr

/-- One attempt on a block at scale x from old elements decoded at x0; out-of-range elements come out saturated (R188,
R190). -/
def mxTry (fp8 : Bool) (x0 x : Nat) (old : List Nat) (inp : List Num) : MxTry :=
  let l := (List.range 32).map (fun i =>
    match mxSum (mxDec fp8 (old.getD i 0) x0) (inp.getD i (.fin false 0 0)) with
    | .nan s => ((if fp8 then 0x7F + 128 * s else 0), false, true, false)
    | .inf n => (mxSat fp8 n, true, false, false)
    | .fin n m e =>
      let (b, o) := mxEnc fp8 x n m e
      ((if o then mxSat fp8 n else b), false, false, o))
  { bytes := l.map (·.1), sat := l.any (·.2.1), nan := l.any (·.2.2.1), ovf := l.any (·.2.2.2) }

end Sys2Proof.Machine
end

