-- ==== Sys2Proof/Config.lean ====
section
/-! DEFINITION. What the rules leave open: constants without a body, so that every statement holds for every value of them.
A free value that differs from use to use is a constant applied to the counter `Hw.free`. -/
namespace Sys2Proof

/-- Where the search for a free TT index starts for an entry that the slice itself creates in a command that names no
index (R26 fixes the pool, no rule the index). -/
opaque Config.ttPick : Nat → Nat

/-- Label, and with it group and class, of internal work that carries no label (R282 says "no label"; no rule gives the
class of its bank operations). DESIGN CHOICE: free. -/
opaque Config.workLabel : Nat → BitVec 12

/-- The byte of an MXINT8 element whose new value is a NaN: R190 gives its block the scale 0xFF and no byte. -/
opaque Config.mxNanByte : Nat → BitVec 8

/-- What Galop takes for a descriptor or index word that it read marked poisoned: R275 says that the data bits of a marked word
are not used, R226 that the descriptor continues. -/
opaque Config.poisonWord : Nat → BitVec 32

/-- Cells of the core segment of the boundary register: given in Gorril's pin list, not in the rules (R429). -/
opaque Config.coreLen : Nat

/-- What a register shows while its selector names nothing that the slice has: MP.CRED for a VC above 9, VP.REPAIR for a group
above 16. By register offset and selector. -/
opaque Config.selOpen : Nat → Nat → BitVec 32

/-- The level, by beat and wire number, of a transmit wire of the Vertical Port that no rule gives: a data wire in phase A, a spare
out of use, a wire of a group that carries nothing, and every wire in DOWN (R388, R396, R397). -/
opaque Config.openWire : Nat → Nat → Bool

/-- What a capture of the Test Port brings where no rule names a value: the instruction register, the bypass register, and bits
[63:32] of SLC_REGACC (R428 to R430). -/
opaque Config.tpOpen : Nat → BitVec 64

end Sys2Proof
end

