-- ==== Sys2Proof/Machine/Ecc.lean ====
section
/-! DEFINITION. The code word of the data array, the spare lines and the stream buffer (R273 to R277), and the checks that
other units use: the CRC-32 of the Home Map Table (R443), the CRC-16 of the link (R391) and the training pattern. -/
namespace Sys2Proof.Machine

/-- The columns h(0) to h(31) of the check matrix (R273). -/
def eccCols : List (BitVec 7) := [
  0x07, 0x0B, 0x0D, 0x0E, 0x13, 0x15, 0x16, 0x19, 0x1A, 0x1C, 0x23, 0x25, 0x26, 0x29, 0x2A, 0x2C,
  0x31, 0x32, 0x34, 0x38, 0x43, 0x45, 0x46, 0x49, 0x4A, 0x4C, 0x51, 0x52, 0x54, 0x58, 0x61, 0x62]

/-- The check bits of the columns from data bit `i` on. -/
def eccFold (d : Word) : Nat → List (BitVec 7) → BitVec 7
  | _, [] => 0
  | i, h :: r => (if bit d i then h else 0) ^^^ eccFold d (i + 1) r

/-- The check bits of a data word (R273). -/
def eccCheck (d : Word) : BitVec 7 := eccFold d 0 eccCols

/-- Data bits of a code word. -/
def codeData (x : Code) : Word := x.setWidth 32

/-- Check bits of a code word. -/
def codeCheck (x : Code) : BitVec 7 := (x >>> 32).setWidth 7

/-- The code word with these data and check bits. -/
def codeOf (d : Word) (p : BitVec 7) : Code := (p ++ d).setWidth 39

/-- The valid code word of a data word. -/
def eccEnc (d : Word) : Code := codeOf d (eccCheck d)

/-- The code word that carries the poison mark over these data bits (R275). -/
def eccMark (d : Word) : Code := codeOf d (eccCheck d ^^^ 0x7F)

/-- The code word of a word with its poison mark. -/
def pwEnc (w : PWord) : Code := if w.poi then eccMark w.val else eccEnc w.val

/-- The syndrome (R274). -/
def syndrome (x : Code) : BitVec 7 := codeCheck x ^^^ eccCheck (codeData x)

/-- Syndrome classes (R274). -/
inductive EccCls where
  | clean
  | corr
  | mark
  | unc
deriving DecidableEq, Repr

/-- The data bit whose column is the syndrome. -/
def eccFind (s : BitVec 7) : Nat → List (BitVec 7) → Option Nat
  | _, [] => none
  | i, h :: r => if h = s then some i else eccFind s (i + 1) r

/-- Class of a stored word and what a read returns (R274). -/
def eccDec (x : Code) : EccCls × PWord :=
  let s := syndrome x
  let d := codeData x
  if s = 0 then (.clean, ⟨d, false⟩)
  else if ones s.toNat 7 = 1 then (.corr, ⟨d, false⟩)
  else if s = 0x7F then (.mark, ⟨d, true⟩)
  else match eccFind s 0 eccCols with
    | some i => (.corr, ⟨d ^^^ BitVec.ofNat 32 (2 ^ i), false⟩)
    | none => (.unc, ⟨d, true⟩)

/-- The physical column of bit `b` of word `w` of a row (R276). -/
def column (w b : Nat) : Nat := 156 * (w / 4) + 4 * b + w % 4

/-- One byte into the CRC-32 of IEEE 802.3, reflected. -/
def crc32Step (crc : BitVec 32) (byte : Nat) : BitVec 32 :=
  (List.range 8).foldl (fun c _ => if c.getLsbD 0 then (c >>> 1) ^^^ 0xEDB88320 else c >>> 1) (crc ^^^ BitVec.ofNat 32 byte)

/-- The CRC-32 of IEEE 802.3 over words taken little-endian (R443). -/
def crc32 (ws : List Word) : Word :=
  ~~~ (ws.foldl (fun c w =>
    crc32Step (crc32Step (crc32Step (crc32Step c (fld w 7 0)) (fld w 15 8)) (fld w 23 16)) (fld w 31 24)) 0xFFFFFFFF)

end Sys2Proof.Machine
end

