-- ==== Sys2Proof/Machine/State.lean ====
section
/-! DEFINITION. The state of the slice: plain data, one structure for each unit. Registers that software writes stand in
`State.cfg` and registers that only the slice writes in `Hw.ro`, both as sparse files of 32-bit words indexed by the byte
offset in configuration space (R477); what the rules name beside the registers stands in `Hw`. -/
namespace Sys2Proof.Machine

/-- Why a command stops the model. -/
inductive Fault where
  /-- Raised by a command that brings something which an assumption on the surroundings excludes and for which no rule
  states a detection (R5, R71, R371, R389): the behaviour is not defined. Safe: the model stops where the slice's
  behaviour is not stated. -/
  | assumptionBroken
deriving DecidableEq, Repr

/-- Why a command has no meaning. -/
inductive Refusal where
  /-- Raised by an arm of `exec` whose command has no meaning yet. Safe: nothing is claimed of it. -/
  | notModelled (mnemonic : String)
deriving DecidableEq, Repr

/-! ### Messages -/

/-- A ULP header (R361), field by field. -/
structure Hdr where
  type : BitVec 6
  dfl : BitVec 3 := 0
  resp : BitVec 3 := 0
  strm : Bool := false
  dkind : BitVec 2 := 0
  dst : BitVec 16 := 0
  src : BitVec 16 := 0
  route : BitVec 16 := 0
  tti : BitVec 14 := 0
  rtag : BitVec 16 := 0
  label : BitVec 12 := 0
  addr : BitVec 52 := 0
  pmask : BitVec 64 := 0
  bmask : BitVec 128 := 0
  mtag : BitVec 12 := 0
  arg0 : BitVec 64 := 0
  arg1 : BitVec 64 := 0
  arg2 : BitVec 32 := 0
  skind : Bool := false
deriving DecidableEq, Repr

/-- A flit in a buffer: header mark, bits, and the count at which it was accepted (R355, R469). -/
structure Flit where
  hdr : Bool
  bits : FlitBits
  at_ : Nat
deriving DecidableEq, Repr

/-- What the departure of a message means for the slice (R366, R393). -/
inductive Note where
  /-- nothing further -/
  | none
  /-- a completion of the TT entry -/
  | tt (i : Nat)
  /-- the completion of request number `n`, which holds no TT entry -/
  | req (n : Nat)
  /-- the Comp of the FENCE with this intake number -/
  | fence (n : Nat)
  /-- the completion of the access that carried WARM_RESET (R424) -/
  | warm (n : Nat)
  /-- one StreamChunk: context, chunk, message (R236) -/
  | chunk (ctx k m : Nat)
  /-- a coarse-group snoop of a TT entry (R80) -/
  | snpGroup (i g : Nat)
deriving DecidableEq, Repr

/-- A message to send, with the payload as words, the flits already departed, and what its departure means. -/
structure OutMsg where
  hdr : Hdr
  pay : List PWord := []
  sent : Nat := 0
  note : Note := .none
  /-- the send takes part in an order only through this intake number (R342) -/
  iseq : Nat := 0
deriving DecidableEq, Repr

/-- A flit that MP has picked for egress, in the outbound crossing FIFO of its VC until it departs (R33, R359). -/
structure Leaving where
  vc : Nat
  flit : Flit
  /-- its message, with the flits that had been picked before it -/
  msg : OutMsg
  /-- count of the pick -/
  cyc : Nat
deriving DecidableEq, Repr

/-- The boundary between MP and the router, and both ports' buffers. Keys: VC for MP, 16 + VC for VP (R356). -/
structure Ports where
  /-- MP crossing FIFOs, inbound, 4 flits each (R33) -/
  xin : Cells (List Flit)
  /-- ingress buffers (R358, R394) -/
  ing : Cells (List Flit)
  /-- outbound credits held (R357) -/
  crd : Cells Nat
  /-- credits owed to the other side and not yet returned -/
  owed : Cells Nat
  /-- messages waiting for egress -/
  eg : Cells (List OutMsg)
  /-- class served last, by port and priority (R359): key 2 * port + priority -/
  rot : Cells Nat
  /-- mp_in_crd in this cycle (R355) -/
  crdPins : BitVec 10
  /-- mp_out_valid, mp_out_hdr, mp_out_vc, mp_out_flit of the last departure -/
  outFlit : Option (Nat × Flit)
  /-- the count of the last MP pick (R359: one flit per cycle) -/
  outCyc : Nat
  /-- MP crossing FIFOs, outbound, oldest pick first (R33, R359) -/
  xout : List Leaving
  /-- credit pulses of the router still in the crossing: VC and count (R359) -/
  crdIn : List (Nat × Nat)
  /-- the wait of R358 has passed and the initial credits are being returned -/
  initDone : Bool
  /-- initial credits not yet returned (R358) -/
  initOwed : Cells Nat
  /-- multicast tags in use with what each multicast was (R369) -/
  mtags : Cells Note
  /-- VC resets in progress: VC, and the count at which the router answered (R360) -/
  vcrst : Cells (Option Nat)
  /-- mp_vcrst_out (R355) -/
  vcrstPins : BitVec 10
  /-- VC numbers whose message is cut short by a discarded flit (R33, R336) -/
  cut : List Nat
deriving DecidableEq, Repr

/-- A frame kept for replay: SEQ, CRD by VC, the flits of its slots with their VC, and the messages whose last flit it carries,
with their VC (R391, R395). -/
structure Frame where
  seq : Nat
  crd : List Nat
  slots : List (Nat × Flit)
  notes : List (Nat × OutMsg)
  /-- count at which it was first sent, and the replays of it since (R403) -/
  cyc : Nat
  replays : Nat
deriving DecidableEq, Repr

/-- A loss of link: its count, class and SRC, and the code of the command of a class 4 (R403, R405). -/
structure LossRec where
  cyc : Nat
  cls : Nat
  src : Nat
  code : Nat
deriving DecidableEq, Repr

/-- States of the Vertical Port (R396). -/
inductive VpState where
  | disabled
  | training
  | up
  | down
deriving DecidableEq, Repr

/-- Training phases (R397). -/
inductive Phase where
  | a
  | b
  | c
  | d
  | e
deriving DecidableEq, Repr

/-- The Vertical Port: training and link layer (R387 to R405). -/
structure Vp where
  /-- state of the port (R396) -/
  state : VpState
  /-- VP.STAT.GEN (R397) -/
  gen : BitVec 8
  /-- the partner's generation (R400) -/
  pgen : BitVec 8
  /-- attempt of the run (R397) -/
  attempt : Nat
  /-- trained width, coded as in R400 -/
  width : Nat
  /-- training phase (R397) -/
  phase : Phase
  /-- count at which the phase began (R397) -/
  phaseCyc : Nat
  /-- count at which the attempt began (R398) -/
  attCyc : Nat
  /-- widest width this run may still propose (R401) -/
  runMax : Nat
  /-- repair entries: key 32 * direction + group, the word of R400 in [20:0] with FAILED in [21] -/
  repair : Cells (BitVec 22)
  /-- receive groups failed in the last run (R399) -/
  failed : BitVec 17
  /-- groups whose REPAIR word the partner has sent in this attempt -/
  gotRepair : List Nat
  /-- the partner's PROP word of this attempt (R400) -/
  gotProp : Option (BitVec 64)
  /-- the partner's CONFIRM word of this attempt (R400) -/
  gotConfirm : Option (BitVec 64)
  /-- count of the arrival that ends the phase (R397) -/
  gotCyc : Nat
  /-- VP.GMASK.TX (R408) -/
  gmaskTx : BitVec 16
  /-- VP.GMASK.RX (R408) -/
  gmaskRx : BitVec 16
  /-- next SEQ to send (R391) -/
  txSeq : Nat
  /-- SEQ of the last frame delivered, if any (R391, R400) -/
  rxSeq : Option Nat
  /-- a failed check is to be reported, later frames are discarded (R395) -/
  nakDue : Bool
  /-- the replay buffer, oldest first (R395) -/
  replay : List Frame
  /-- frames to send again before new ones (R395) -/
  resend : List Nat
  /-- the last loss of link (R403, R405) -/
  lossAt : Option LossRec
  /-- messages that count as not sent, with their VC (R336, R402) -/
  unsent : List (Nat × OutMsg)
  /-- control bits of the frame last driven on the transmit wires (R391) -/
  txCtl : BitVec 128
  /-- data slots of that frame (R390) -/
  txSlots : List (Nat × FlitBits)
  /-- count of the last frame sent (R390) -/
  txCyc : Nat
deriving DecidableEq, Repr

/-! ### Requests and the transaction table -/

/-- Where a line is: a cached line by PA[51:7], or a line of a PINNED or QUEUE way by way and set (R28, R53). -/
inductive LineKey where
  | pa (n : Nat)
  | loc (way set : Nat)
deriving DecidableEq, Repr

/-- The kinds of transaction. -/
inductive Kind where
  | readShared | readOwn | readNoSnoop | writeInv | writePart | atomic
  /-- an alias write; `clr` selects the clear alias (R147) -/
  | aliasW (clr : Bool)
  | acc | tangoRead
  | evict | writeBack
  | enq | deq | enqB | deqB
  | selOffer | selPairs | selReadReset | selReset
  | cfgRead | cfgWrite | fence | streamCtl
  | backInv | victimWb
  /-- a maintenance transaction of the command with this code (R116) -/
  | maint (code : Nat)
  | preload | flush | repair
  | chkWrite | chkRead | lrtMap | lrtUnmap
  | queCmd (code : Nat)
  /-- removal of a POSTED bit (R162) -/
  | evtClear (bit : Nat)
  | selCmd (code : Nat)
  | wayDis
deriving DecidableEq, Repr

/-- Which engine issued a request, and its reference there (R214). -/
inductive Eng where
  /-- Galop: channel and number of the line operation; `desc` marks the descriptor's own accesses -/
  | glp (chan op : Nat) (desc : Bool)
  /-- Reel: context and line number of the stream: 32 for each chunk -/
  | reel (ctx m : Nat)
deriving DecidableEq, Repr

/-- Pools of the transaction table (R26). -/
inductive Pool where
  | tc0
  | dep
  | gen
deriving DecidableEq, Repr

/-- Where a request waits before it has a TT entry (R24). -/
inductive Sect where
  | hi
  | lo
  /-- internal work that needs a general entry -/
  | int
deriving DecidableEq, Repr

/-- A decoded request: what decode fixed for the rest of its life (R255). -/
structure Req where
  iseq : Nat
  kind : Kind
  port : Option Port := none
  hdr : Hdr
  pay : List PWord := []
  lines : List LineKey
  /-- label after window translation, its group and class (R255, R451) -/
  label : Label
  group : Nat
  tc : Nat
  /-- eligible for TC0, or demoted to level 0 (R264) -/
  elig : Bool := false
  demoted : Bool := false
  /-- TC0 units (R265) -/
  units : Nat := 0
  /-- counts against its label's cap (R257) -/
  counted : Bool := true
  eng : Option Eng := none
  /-- parameter of internal work: way, set and the like -/
  par : Nat := 0
  sect : Sect := .lo
deriving DecidableEq, Repr

/-- The snoops (R73). -/
inductive SnpKind where
  | shared
  | own
  | copy
  | inv
  | recall
deriving DecidableEq, Repr

/-- How far a snoop is. -/
inductive SnpSt where
  /-- sent, no response yet -/
  | out
  /-- to be sent again after Gavotte (R337) -/
  | again
  /-- answered WbInFlight, the WriteBack awaited (R93) -/
  | wb
  /-- answered; `fwd` = the data went to the requester -/
  | done (fwd : Bool)
deriving DecidableEq, Repr

/-- A snoop of a transaction. -/
structure Snp where
  cai : BitVec 12
  kind : SnpKind
  st : SnpSt
  /-- count at which it was sent, and whether its timeout is recorded (R100) -/
  cyc : Nat
  tmo : Bool := false
  /-- the agent holds no copy any more -/
  gone : Bool := false
  /-- the entry recorded the agent as owner (R96, R337) -/
  own : Bool := false
  /-- line of the span that it concerns -/
  li : Nat := 0
  /-- its response was lost, and it was sent again (R337) -/
  lost : Bool := false
deriving DecidableEq, Repr

/-- Directory states (R72). -/
inductive Dir where
  | di
  | ds
  | dsf
  | doo
deriving DecidableEq, Repr

/-- A snoop-filter entry (R78): free when `dir` is `di` and it is not reserved. -/
structure SfEnt where
  tag : Nat
  dir : Dir
  coarse : Bool
  /-- forwarder or owner -/
  ptr : BitVec 12
  /-- precise sharers, at most three -/
  shr : List (BitVec 12)
  /-- coarse groups -/
  grp : BitVec 64
  /-- reserved for a requester's line (R81) -/
  rsv : Bool
  /-- flips in the payload code word and in the tag code word (R82) -/
  errP : Nat
  errT : Nat
deriving DecidableEq, Repr

/-- What a transaction does next. Acts that wait for an event are marked. -/
inductive Act where
  /-- search tags, snoop filter, ALB and Jig (R29) -/
  | lookup
  /-- waits for a snoop-filter entry (R81) -/
  | sf
  /-- waits for the snoop responses -/
  | snp
  /-- go on as the responses say (R86) -/
  | resolve
  /-- obtain home data for line `li` of the span; `secs` names the sectors (R83) -/
  | home (li secs : Nat)
  /-- write line `li` from the buffer into the array as dirty, or to XP (R86) -/
  | putLine (li : Nat)
  /-- poison every word of line `li` in the buffer and put it (R96, R98) -/
  | poison (li : Nat)
  /-- waits: read the sectors of a line of the array into buffer line `li` -/
  | rd (way set secs li : Nat)
  /-- waits: write the words of `mask` of buffer line `li`; `lin` marks a write that is a linearization or commit point -/
  | wr (way set mask li : Nat) (lin : Bool)
  /-- waits: read from XP into buffer line `li` -/
  | xrd (addr secs li : Nat)
  /-- waits: write the sectors of buffer line `li` to XP -/
  | xwr (addr secs li : Nat)
  /-- waits until that victim write-back has read its line -/
  | vic (i : Nat)
  /-- waits until neither Jig nor a write-back of the ALB holds the lines -/
  | clear
  /-- apply the written bytes of a partial write (R84) -/
  | part
  /-- waits for Jig entries (R66) -/
  | jig
  /-- waits for an ALB entry (R142) -/
  | alb
  /-- waits for the cells -/
  | cell
  /-- waits for a merge unit, and then for its result (R205) -/
  | merge
  /-- waits: a repair step decides (R283) -/
  | step
  /-- phase `n` of what the entry's kind does -/
  | go (n : Nat)
  /-- the WriteBacks held for this transaction have been written (R93) -/
  | wbDone
  | commit
  | respond
  /-- waits until the completion has departed -/
  | sent
  /-- waits for CompAck -/
  | ack
  /-- update the directory under R88 -/
  | evt
  | free
deriving DecidableEq, Repr

/-- An entry of the transaction table. -/
structure Ent where
  req : Req
  pool : Pool
  /-- arrival number: the place in every per-line order (R19, R171) -/
  arr : Nat
  /-- active on its lines (R28) -/
  active : Bool := false
  /-- joined the active transaction on its line, or held for it (R92) -/
  joined : Option Nat := none
  todo : List Act := [.lookup]
  /-- the head of `todo` has been started -/
  busy : Bool := false
  snp : List Snp := []
  /-- data held, as code words (R334): key 32 * line of the span + word -/
  buf : Cells Code := []
  /-- lines of the span whose home data the buffer holds, lines among them that an agent returned dirty (R86), and lines to
  be poisoned before home data is used (R96, R98, R337): bit masks -/
  held : Nat := 0
  dirty : Nat := 0
  toPoison : Nat := 0
  /-- a snoop-filter entry moved into this entry (R81), or one whose payload was lost (R82) -/
  sfe : Option SfEnt := none
  /-- a word that the request returns or consumes was corrected, or is poisoned (R16) -/
  corr : Bool := false
  bad : Bool := false
  /-- pairs that the kind keeps: words in error on the last read of a row and their class (R283); ALB entries whose write-back is
  awaited and the lines they are for, 64 and more where the span needs others beside (R142, R173); lines and poisoned words met (R191) -/
  errs : List (Nat × Nat) := []
  committed : Bool := false
  /-- the first bank write of its commit point has issued (R335) -/
  wrote : Bool := false
  compSent : Bool := false
  code : BitVec 3 := 0
  /-- DONE and LEVEL of a queue operation, attempts and the like -/
  aux : Nat := 0
  aux2 : Nat := 0
  /-- errors in the two identity copies (R334, R352): 0 none, 1 correctable, 2 uncorrectable; 3 in both: the entry is lost and waits
  for the repair step -/
  err1 : Nat := 0
  err2 : Nat := 0
  /-- errors in the two progress copies (R334) -/
  perr1 : Nat := 0
  perr2 : Nat := 0
  /-- array reads done since the last lookup, which a replay repeats, and lines whose XP read has ended while the entry had another
  step to do: a bit mask (R341) -/
  did : List Act := []
  xgot : Nat := 0
  /-- the entry has passed its first lookup (R45) -/
  passed : Bool := false
  /-- it has met an error that a status bit shows (R111) -/
  cause : Bool := false
deriving DecidableEq, Repr

/-- A pending FENCE (R114). -/
structure FenceEnt where
  iseq : Nat
  hdr : Hdr
  port : Port
  /-- its class (R255) -/
  tc : Nat
  /-- Comp queued -/
  done : Bool := false
deriving DecidableEq, Repr

/-- Intake, admission and the transaction table. -/
structure Core where
  /-- next intake sequence number (R19) -/
  nextSeq : Nat
  /-- next arrival number: the place in per-line orders (R28) -/
  nextArr : Nat
  /-- the admission buffer: high section 256, low section 512, and internal work (R24) -/
  adm : List Req
  /-- messages past intake whose flits stay in their ingress buffer, by port and VC: a request that waits at decode for a full
  section (R27), an EVT-class message that waits for a TT entry (R24) -/
  dec : Cells Req
  /-- the transaction table, 16,384 entries by index (R26) -/
  tt : Cells Ent
  /-- requests whose completion has not been sent: intake number and requester (R113) -/
  owing : List (Nat × Rid)
  /-- the fence table, 64 entries (R114) -/
  fences : List FenceEnt
  /-- count of the last intake from MP (R18) -/
  inMp : Option Nat
  /-- count of the last intake from VP (R18) -/
  inVp : Option Nat
  /-- count of the last admission (R25) -/
  admCyc : Nat
  /-- admissions made at that count (R25) -/
  admNum : Nat
deriving DecidableEq, Repr

/-! ### Register path -/

/-- Who waits for a register access (R23). -/
inductive Carrier where
  | sp
  | tp
  | mesh (p : Port) (hdr : Hdr) (iseq tc : Nat)
deriving DecidableEq, Repr

/-- An access in the register queue. -/
structure Access where
  carrier : Carrier
  write : Bool
  off : Nat
  data : Word
  /-- answered without effect: malformed SP address (R377) -/
  bad : Bool := false
  /-- the CLK_C cycle in which it entered the queue (R23) -/
  at_ : Nat := 0
deriving DecidableEq, Repr

/-- The register path, SP and TP (R23, R377, R428, R488). -/
structure RegPath where
  /-- the register queue, 16 entries (R23) -/
  queue : List Access
  /-- mesh accesses of this CLK_C cycle, which enter the queue at its end, after those of SP (R23) -/
  mesh : List Access
  /-- responses ready or still owed to SP, in request order (R377) -/
  spOut : List (Option (Word × BitVec 3))
  /-- sp_rsp_rdata and sp_rsp_code of the last response (R377) -/
  spPins : Option (Word × BitVec 3)
  /-- after WARM_RESET: SP responses that may still transfer (R424) -/
  spMay : Option Nat
  /-- the last of them is that of WARM_RESET's own write (R424) -/
  spCarries : Bool
  /-- accesses from TP that wait for a place in the queue (R430) -/
  tpWait : List Access
  /-- capture register of SP: offset and high word (R488) -/
  capSp : Option (Nat × Word)
  /-- capture register of MP (R488) -/
  capMp : Option (Nat × Word)
  /-- capture register of VP (R488) -/
  capVp : Option (Nat × Word)
  /-- wrapper instruction register, 8 bits (R429) -/
  wir : BitVec 8
  /-- shift stage of the wrapper instruction register (R428) -/
  wirShift : BitVec 8
  /-- the 1-bit bypass register (R429) -/
  bypass : Bool
  /-- data register of SLC_REGACC, 68 bits (R429, R430) -/
  regAcc : BitVec 68
  /-- data register of SLC_MBIST, 64 bits (R429, R431) -/
  mbist : BitVec 64
  /-- DONE of SLC_REGACC (R430) -/
  tpDone : Bool
  /-- response code of SLC_REGACC (R430) -/
  tpCode : BitVec 3
  /-- read data of SLC_REGACC (R430) -/
  tpData : Word
  /-- VPTX boundary cells (R406) -/
  vptx : BitVec 579
  /-- VPRX boundary cells (R406) -/
  vprx : BitVec 579
  /-- history of the core segment (R429) -/
  coreSeg : List Bool
  /-- serial output (R428) -/
  wso : Bool
  /-- transmit wires driven under WS_EXTEST (R406) -/
  txPins : BitVec 579
deriving DecidableEq, Repr

/-! ### Home structures -/

/-- A tag entry (R35); `err` = number of flipped bits of its code word (R279). -/
structure Tag where
  tag : Nat
  valid : Bool
  d0 : Bool
  d1 : Bool
  pre : Bool
  err : Nat
deriving DecidableEq, Repr

/-- The tags, the snoop filter and the fences. -/
structure Home where
  /-- tag entries: key 16 * set + way; an unlisted one is invalid (R35) -/
  tags : Cells Tag
  /-- pseudo-LRU bits of the sets (R49) -/
  plru : Cells (BitVec 16)
  /-- snoop-filter entries: key 16 * set + entry; an unlisted one is free (R78) -/
  sf : Cells SfEnt
  /-- pseudo-LRU bits of the snoop-filter sets (R78) -/
  sfPlru : Cells (BitVec 16)
  /-- fenced CAIs (R95) -/
  fenced : List (BitVec 12)
  /-- swept CAIs (R99) -/
  swept : List (BitVec 12)
  /-- sweep in progress: CAI and next set (R99) -/
  sweep : Option (BitVec 12 × Nat)
  /-- last count at which a sweep read a set (R99) -/
  sweepCyc : Option Nat
  /-- last count at which a lookup read the snoop filter (R99) -/
  sfCyc : Option Nat
  /-- modes of the ways; an unlisted one is CACHE (R38) -/
  mode : Cells Nat
  /-- locked ways (R46) -/
  locked : List Nat
  /-- WriteBacks given up as lost whose lines were poisoned: sender and line (R337) -/
  gaveUp : List (BitVec 12 × Nat)
deriving DecidableEq, Repr

/-- SET_MODE in progress (R44): its step is what it waits for. -/
inductive SetStep where
  /-- step 2 -/
  | drain
  /-- tag invalidation, 1,024 CLK_M cycles from this count -/
  | inval (from_ : Nat)
  /-- both banks raised to on -/
  | powerOn
  /-- zero fill, 16,384 CLK_M cycles from this count -/
  | fill (from_ : Nat)
  /-- both banks requested off -/
  | powerOff
deriving DecidableEq, Repr

/-- The running SET_MODE; `auto` marks the power-down of an automatic way disable (R293). -/
structure SetRun where
  way : Nat
  mode : Nat
  old : Nat
  step : SetStep
  /-- arrival numbers below this passed lookup before step 1 -/
  arr : Nat
  auto : Bool
deriving DecidableEq, Repr

/-! ### Arrays and banks -/

/-- Bank power states (R55). -/
inductive PwrSt where
  | on
  | ret
  | off
  | chg
deriving DecidableEq, Repr

/-- Power of one bank (R380). -/
structure Pwr where
  st : PwrSt
  /-- pwr_state and pwr_req -/
  want : PwrSt
  req : Bool
  /-- pwr_ack as the slice sees it -/
  ack : Bool
  /-- count from which the timeout runs, and whether it is recorded -/
  since : Nat
  tmo : Bool
  /-- count at which the on acknowledgement was seen -/
  onAt : Option Nat
  /-- the state to request next, once pwr_ack is low -/
  next : Option PwrSt
  /-- count of the last operation issued (R56) -/
  last : Nat
  /-- the acknowledgement is ignored for good (R339) -/
  dead : Bool
deriving DecidableEq, Repr

/-- On whose behalf a bank operation runs, for rank and charge (R258, R260). -/
structure Who where
  iseq : Nat
  label : Label
  group : Nat
  tc : Nat
  /-- ranks at level 0 whatever its class (R264) -/
  low : Bool
  /-- charges its group (R258) -/
  charge : Bool
deriving DecidableEq, Repr

/-- Bus-master engines in the rotation of R60. -/
inductive Master where
  | galop
  | reel
  | scrub
  | march
  /-- a repair, checker or remap transaction, treated as a local engine transaction (R282) -/
  | repair
deriving DecidableEq, Repr

/-- Who receives the result of a bank operation. -/
inductive Own where
  | tt (i : Nat)
  | jig (n : Nat)
  | alb (n : Nat)
  | scrub
  | march
deriving DecidableEq, Repr

/-- A bank operation: one row, or the two rows of a line (R36). -/
structure BankOp where
  own : Own
  who : Who
  master : Option Master
  /-- the line it serves, for R216 -/
  line : LineKey
  way : Nat
  set : Nat
  /-- bank and its rows still to issue: sector and row -/
  bank : Nat
  rows : List (Nat × Nat)
  /-- rows issued -/
  done : List (Nat × Nat)
  write : Bool
  /-- words to write: word 0-31 of the line and its code word -/
  data : List (Nat × Code)
  /-- buffer line that takes the words read -/
  li : Nat
  /-- no check, no count, no retry (R300) -/
  raw : Bool
  lin : Bool
deriving DecidableEq, Repr

/-- One bank of the scheduler (R32, R60, R261). -/
structure Bank where
  pend : List BankOp
  /-- the operation whose rows are being issued -/
  cur : Option BankOp
  /-- operations whose rows have all issued and whose result is awaited, oldest first -/
  fly : List BankOp
  /-- CLK_M cycle of the last issue -/
  last : Option Nat
  rot : Nat
  mrot : Nat
deriving DecidableEq, Repr

/-- The arrays. -/
structure Arr where
  /-- key ((bank * 16384) + row) * 16 + word; bank 32 is the spare array (R34, R285) -/
  words : Cells Code
  /-- schedulers of the banks; an unlisted one is idle (R60) -/
  banks : Cells Bank
  /-- power of the banks; an unlisted one is as at the release edge (R55) -/
  pwr : Cells Pwr
deriving DecidableEq, Repr

/-- A Jig entry (R61). -/
structure JigEnt where
  line : LineKey
  way : Nat
  set : Nat
  sec : Nat
  /-- byte mask and bytes of the sector -/
  mask : BitVec 64
  bytes : BitVec 512
  /-- words of the write that arrived poisoned -/
  poi : BitVec 16
  who : Who
  rid : Rid
  /-- CLK_M cycle at which the hold ends -/
  expire : Nat
  /-- the hold has ended: the entry reads or writes its sector -/
  writing : Bool
  /-- bank operations left: 1 the write, 2 read and write, 0 none -/
  left : Nat
  /-- for a line without a place in the array: the sector as XP returned it, to which the bytes are merged (R51) -/
  base : Option (List PWord) := none
deriving DecidableEq, Repr

/-- ALB format tags (R172). -/
inductive Fmt where
  | plain
  | f32
  | tangoSum
  | tangoComp
  | mxfp8
  | mxint8
  | i32
deriving DecidableEq, Repr

/-- An ALB entry (R140). -/
structure AlbEnt where
  line : LineKey
  fmt : Fmt
  data : List PWord
  /-- the last updater, if any -/
  upd : Option Rid
  stamp : Nat
  /-- its write-back runs, and its bank or XP writes have been asked for -/
  wb : Bool
  started : Bool
  /-- for whom the write-back runs (R144) -/
  who : Who
deriving DecidableEq, Repr

/-- One operation of a cell: an atomic, or a group (R145, R175). -/
structure CellOp where
  tt : Nat
  iseq : Nat
  /-- none: an atomic or alias write; some: line of the span, group in the line, attempt scale (MX) -/
  grp : Option (Nat × Nat × Nat)
  /-- CLK_A cycle in which it may issue, or in which its result is written -/
  at_ : Nat
deriving DecidableEq, Repr

/-- Jig, the ALB and the cells. -/
structure Near where
  /-- Jig, 16 entries (R61) -/
  jig : Cells JigEnt
  /-- the ALB, 48 entries (R140) -/
  alb : Cells AlbEnt
  /-- last use stamp given (R142) -/
  stamp : Nat
  /-- operations of each cell not yet issued (R175) -/
  ready : Cells (List CellOp)
  /-- operations of each cell issued and not yet written (R175) -/
  fly : Cells (List CellOp)
  /-- CLK_A cycle of the last issue, by cell (R175) -/
  issued : Cells Nat
deriving DecidableEq, Repr

/-! ### XP -/

/-- An XP read (R373). -/
structure XpRd where
  tt : Nat
  li : Nat
  addr : Nat
  /-- sectors asked for and still owed, as a 2-bit mask -/
  secs : Nat
  owed : Nat
  /-- transferred -/
  out : Bool
  /-- count at which the wait starts, and whether its timeout is recorded (R375) -/
  since : Nat
  tmo : Bool
deriving DecidableEq, Repr

/-- An XP write beat that waits (R374). -/
structure XpWr where
  addr : Nat
  words : List PWord
  /-- INIT_FILL beat -/
  init : Bool
  own : Option Own
  /-- last beat of its line: acceptance -/
  last : Bool
deriving DecidableEq, Repr

/-- The XP interface. -/
structure Xp where
  /-- read slots, 4,096 by tag (R30) -/
  rds : Cells XpRd
  /-- transactions that wait for a slot: entry, line of its span, address, sectors (R30) -/
  wait : List (Nat × Nat × Nat × Nat)
  /-- tags of the read requests that wait to be presented, oldest grant first -/
  ask : List Nat
  /-- the tag of the read request presented, held until it transfers (R373) -/
  rdUp : Option Nat
  /-- the write beat presented, held until it transfers (R374) -/
  wrUp : Option XpWr
  /-- write beats that wait, oldest first (R374) -/
  wrs : List XpWr
  /-- xp_rd_addr, xp_rd_sec, xp_rd_tag of the last transfer -/
  rdPins : Option (Nat × Nat × Nat)
  /-- the last write beat transferred -/
  wrPins : Option XpWr
deriving DecidableEq, Repr

/-! ### Engines -/

/-- Galop channel states (R227). -/
inductive ChanSt where
  | idle
  | loading
  | running
  | draining
  | done
  | error
  | stopped
deriving DecidableEq, Repr

/-- A Galop line operation in flight (R220). -/
structure GOp where
  n : Nat
  /-- element reads still to do for it, in order: element number and whether its index is known -/
  elems : List Nat
  /-- index of the element under way, once read -/
  idx : Option Nat
  /-- bytes gathered: key word of the destination line -/
  buf : Cells PWord
  /-- a request of it is under way -/
  busy : Bool
  /-- 0 index read, 1 data read, 2 write; of the descriptor's own accesses: 3 the read, 4 read, 5 checked and to be ended,
  8 the STATUS write to be issued, 6 issued, 7 written -/
  stage : Nat
  /-- its last request was answered RETRY and is to be issued again (R226) -/
  again : Bool := false
deriving DecidableEq, Repr

/-- A Galop channel. -/
structure Chan where
  st : ChanSt
  /-- PA of the current or last descriptor -/
  desc : Nat
  words : List Word
  /-- next line operation to begin, and those in flight -/
  next : Nat
  ops : List GOp
  count : Nat
  stop : Bool
  err : BitVec 3
  pois : Bool
  corr : Bool
  result : BitVec 3
deriving DecidableEq, Repr

/-- INIT_FILL progress (R229): next beat, beats in all, beats accepted; `boot` when RELEASE runs it. -/
structure Fill where
  next : Nat
  total : Nat
  pattern : Word
  boot : Bool
deriving DecidableEq, Repr

/-- An engine's request to another slice: whether it reads, the code of its Comp, and data forwarded for it (R87, R214). -/
structure Remote where
  eng : Eng
  read : Bool
  comp : Option (BitVec 3)
  data : Option (List PWord)
deriving DecidableEq, Repr

/-- Galop. -/
structure Glp where
  /-- channels, 32; an unlisted one is IDLE (R227) -/
  chan : Cells Chan
  /-- rotation of the channels (R220) -/
  rot : Nat
  /-- INIT_FILL in progress (R229) -/
  fill : Option Fill
  /-- requests to other slices under way, by RTAG (R214) -/
  remote : Cells Remote
  /-- next RTAG (R214) -/
  nextTag : Nat
  /-- responses that arrived while Gavotte held the slice, to be applied after release (R219) -/
  late : List (Eng × BitVec 3 × List PWord)
  /-- count of the last issue (R220) -/
  cyc : Option Nat
deriving DecidableEq, Repr

/-- Stream context states (R242). -/
inductive CtxSt where
  | free
  | defined
  | running
  | expired
  | stopping
  | stopped
  | done
deriving DecidableEq, Repr

/-- A chunk of a stream in its slot (R234). -/
structure Chunk where
  k : Nat
  slot : Nat
  /-- lines still missing, and those among them whose read is still to be issued -/
  missing : List Nat
  unread : List Nat
  ready : Bool
  /-- next message to send -/
  next : Nat
  /-- sends reported for each message and member still owed: message, member, failed sends -/
  owed : List (Nat × Nat × Nat)
  /-- sends whose report is awaited: message and mask -/
  flying : List (Nat × BitVec 32)
deriving DecidableEq, Repr

/-- A stream context (R230). -/
structure Ctx where
  st : CtxSt
  /-- the eight defined words 0x00 to 0x1C -/
  words : List Word
  started : Nat
  delivered : Nat
  lease : Nat
  active : BitVec 32
  resends : BitVec 32
  pois : Bool
  chunks : List Chunk
  /-- STOP applied -/
  stop : Bool
deriving DecidableEq, Repr

/-- Reel. -/
structure Reel where
  /-- stream contexts, 64; an unlisted one is FREE (R230) -/
  ctx : Cells Ctx
  /-- valid member slots of the groups: key 32 * group + member (R232) -/
  mem : Cells (Option Rid)
  /-- requester IDs of the slots as written (R232) -/
  memRid : Cells Rid
  /-- McastLists sent and not acknowledged, by group (R370) -/
  lists : Cells Nat
  /-- stream buffer: key slot * 1024 + word (R233) -/
  sbuf : Cells Code
  /-- rotation of the contexts (R234) -/
  rot : Nat
  /-- count of the last chunk start (R234) -/
  cyc : Option Nat
  /-- reports that came while Gavotte held the slice, to be applied after release: context, chunk, message, residual (R219) -/
  late : List (Nat × Nat × Nat × BitVec 32) := []
deriving DecidableEq, Repr

/-- A selection record's table entry (R195). -/
structure Rec where
  way : Nat
  set : Nat
  log2k : Nat
  vtype : Nat
  smallest : Bool
  /-- the valid bit; UNDEFINE clears it and leaves the rest (R209) -/
  valid : Bool := true
deriving DecidableEq, Repr

/-- The queue engine, Quadrille and the maintenance walker. -/
structure Units where
  /-- event FIFO: queue number and kind (R162) -/
  events : List (Nat × Nat)
  /-- record table (R195) -/
  recs : Cells Rec
  /-- merge units: TT entry and the CLK_A cycle of its result (R205) -/
  merge : Cells (Nat × Nat)
  /-- maintenance command in progress: code, way, next line or set, left to examine (R117) -/
  mnt : Option (Nat × Nat × Nat × Nat)
  /-- its transactions in flight (R117) -/
  mntFly : Nat
  /-- it was cut short by SET_MODE (R126) -/
  mntCut : Bool
  /-- lines of a flush still to issue (R127) -/
  mntLines : List LineKey
  /-- count of the walker's last examination (R117) -/
  mntCyc : Nat
  /-- examinations made at that count (R117) -/
  mntNum : Nat
  /-- QUE command: transaction ended with this result, BUSY still 1 (R153) -/
  queEnd : Option (BitVec 3)
  /-- the same of SEL (R209) -/
  selEnd : Option (BitVec 3)
  /-- the same of the checker (R300) -/
  chkEnd : Bool
  /-- the same of LRT (R291) -/
  lrtEnd : Option (BitVec 3)
  /-- count at which the check of R444 started -/
  hmt : Option Nat
deriving DecidableEq, Repr

/-- Regulation (R257 to R263). -/
structure Qos where
  /-- charge of each group in this window (R258) -/
  charge : Cells Nat
  /-- CLK_M cycle of the charges in mchg (R260) -/
  mcyc : Nat
  /-- charges made in that cycle (R260) -/
  mchg : Cells Nat
  /-- groups that reached their UNITS in this window (R260) -/
  dem : List Nat
  /-- window length in force (R259) -/
  log2w : Nat
  /-- count up to which window boundaries have been taken (R259) -/
  boundary : Nat
  /-- CLK_M cycle of the writes of UNITS in uold (R262) -/
  ucyc : Nat
  /-- UNITS of the groups written in that cycle, as they were before it (R262) -/
  uold : Cells Nat
  /-- CLK_C cycle of the last CLR_COUNTERS (R270) -/
  clr : Option Nat
  /-- QOS.TC_BYTES, 4 x 64 bits (R263) -/
  tcBytes : Cells (BitVec 64)
  /-- QOS.BLK_BYTES, 64 x 64 bits (R263) -/
  blkBytes : Cells (BitVec 64)
deriving DecidableEq, Repr

/-! ### Protection -/

/-- An entry of the retry queue (R281): bank, row, words in error with their class, requester; queued by the scrubber. -/
structure Retry where
  bank : Nat
  row : Nat
  words : List (Nat × Nat)
  rid : Rid
  scrub : Bool
deriving DecidableEq, Repr

/-- A scrub pass (R296): mask and sets, and per bank the next set and sector; repairs it waits for. -/
structure Scrub where
  mask : BitVec 16
  first : Nat
  count : Nat
  /-- key bank: the lines of the bank read so far, in rows -/
  next : Cells Nat
  /-- reads pending or in progress, by bank -/
  pend : List Nat
  /-- rows found in error that wait for a place in the retry queue -/
  wait : List Retry
  /-- repairs queued and not yet committed -/
  left : Nat
  stop : Bool
deriving DecidableEq, Repr

/-- Automatic way disable (R293). -/
inductive DisStep where
  | wait
  /-- the walk: next set, transactions in flight, count of the last examination -/
  | walk (set fly cyc : Nat)
  | power
deriving DecidableEq, Repr

/-- A march pass (R301). -/
structure March where
  destroy : Bool
  banks : BitVec 32
  spare : Bool
  /-- the start-up march (R419), or the one SLC_MBIST starts (R431) -/
  boot : Bool
  bank : Nat
  row : Nat
  /-- preserving: operation 0 to 10; destroying: 6 * background + element -/
  op : Nat
  /-- the row is saved: what the array lists for it is the row buffer (R303) -/
  saved : Bool
  failed : Bool
  failCol : Nat
  /-- rows counted as failing in this pass: bank * 16384 + row -/
  rows : List Nat
  stop : Bool
  /-- CLK_M count at which a destroying pass ends -/
  endAt : Nat
  /-- a preserving operation is pending in the bank -/
  pend : Bool
  /-- taken during a Gavotte sequence: it starts after release (R344) -/
  wait : Bool
deriving DecidableEq, Repr

/-- ECC, scrubber, checker, march, remap. -/
structure Prot where
  /-- the retry queue, 16 entries (R281) -/
  retry : List Retry
  /-- tag injection pending (R280) -/
  injTag : Nat
  /-- snoop-filter injection pending (R280) -/
  injSf : Nat
  /-- TT injection pending (R352) -/
  injTt : Nat
  /-- scrub pass in progress (R296) -/
  scrub : Option Scrub
  /-- automatic way disable in progress (R293) -/
  dis : Option (Nat × DisStep)
  /-- ways whose disable waits, with the CLK_C cycle since which each has waited (R293, R295) -/
  disWait : List (Nat × Nat)
  /-- captured CHK_ADDR, CHK_DATA and CHK_CHECK (R300) -/
  chk : Option (Word × Word × Word)
  /-- march pass in progress (R301) -/
  march : Option March
  /-- Line Remap Table, 32 entries: way, set, spare line (R286) -/
  lrt : Cells (Nat × Nat × Nat)
deriving DecidableEq, Repr

/-- A report to the error log (R317). -/
structure Report where
  kind : Nat
  place : Bool
  src : Nat
  cls : Nat
  wmask : BitVec 32
  rid : Rid
  cyc : BitVec 32
  /-- COUNT, last reporter and its count, when reports have merged (R321) -/
  count : Nat
  last : Rid
  lastCyc : BitVec 32
  /-- CLK_C cycle in which it reached the queue, and its intake number; those of the last reporter, when reports have merged (R321) -/
  reach : Nat
  iseq : Nat
  lreach : Nat
  lseq : Nat
deriving DecidableEq, Repr

/-- A log entry (R324). -/
structure LogEnt where
  rep : Report
  seq : BitVec 32
deriving DecidableEq, Repr

/-- A fault record (R326). -/
structure FltRec where
  kind : Nat
  atype : Nat
  page : Nat
  win : Nat
  multi : Bool
  count : Nat
  label : Label
  rid : Rid
deriving DecidableEq, Repr

/-- A fault as decode met it, with the intake number of its request and the record number of its answer (R326, R327). -/
structure FltHit where
  iseq : Nat
  kind : Nat
  atype : Nat
  page : Nat
  win : Nat
  rid : Rid
  label : Label
  num : Nat
deriving DecidableEq, Repr

/-- Steps of Gavotte (R353). -/
inductive GavStep where
  | idle
  | hold
  | sort
  | repair
  | replay
  | release
deriving DecidableEq, Repr

/-- Gavotte (R333 to R345). -/
structure Gav where
  /-- step of the sequence (R353) -/
  step : GavStep
  /-- count at which the sequence began (R342) -/
  start : Nat
  /-- count at which the step began (R340) -/
  stepCyc : Nat
  /-- round of repair and replay (R343) -/
  round : Nat
  /-- the sequence has failed (R343) -/
  failed : Bool
  /-- GAV.CAUSE (R333) -/
  cause : BitVec 6
  /-- crossing errors to repair: VC, 16 more for inbound (R333) -/
  xing : List Nat
  /-- banks timed out (R339) -/
  banks : List Nat
  /-- banks whose request was restarted in the repair step -/
  tried : List Nat
  /-- the wait of R336 has passed -/
  waited : Bool
  /-- items lost: TT index, kind (0 snoop response, 1 WriteBack, 2 CompAck), CAI -/
  lost : List (Nat × Nat × BitVec 12)
  /-- a header flit was discarded: class of the VC, CAI unknown (R336) -/
  unnamed : List Nat
  /-- causes detected in the release step: the next sequence's (R343) -/
  next : BitVec 6
deriving DecidableEq, Repr

/-- Log, fault queue and Gavotte. -/
structure Diag where
  /-- the report queue, 32 places (R321) -/
  rq : List Report
  /-- CLK_C cycle of the last application (R321) -/
  rqCyc : Nat
  /-- reports applied in it (R321) -/
  rqNum : Nat
  /-- those reports (R323) -/
  late : List Report
  /-- COUNT of each entry touched, before that cycle (R323) -/
  before : Cells Nat
  /-- the error log, 64 entries (R320) -/
  log : Cells LogEnt
  /-- the fault records, 256 (R326) -/
  recs : Cells FltRec
  /-- CLK_P count of the last fault, the faults of that cycle, and the records and TAIL before them (R329) -/
  fltCyc : Nat
  fltNow : List FltHit
  fltWas : Cells FltRec
  fltTail : Nat
  /-- Gavotte (R335) -/
  gav : Gav
deriving DecidableEq, Repr

/-- A tagged request (R468): what its sample holds so far. -/
structure Sample where
  num : Nat
  iseq : Nat
  rid : Rid
  label : Label
  tc : Nat
  vp : Bool
  type : Nat
  lost : Bool
  replayed : Bool
  outcome : Nat
  resp : BitVec 3
  addr : PA
  /-- stamps: key point 1 to 7 -/
  stamps : Cells (BitVec 32)
  /-- points reached, bit n - 1 -/
  valid : BitVec 7
deriving DecidableEq, Repr

/-- Counters and the sampler. -/
structure Perf where
  /-- native counters (R459) -/
  ctr : Cells (BitVec 48)
  /-- increments of this CLK_P cycle (R457) -/
  inc : Cells Nat
  /-- levels of the selected events in the previous cycle (R464): key counter -/
  prev : Cells Bool
  /-- compatibility counters: key 0-7 PCk, 8 CC -/
  pc : Cells (BitVec 48)
  /-- compatibility counters written in this cycle, whose increment is discarded (R465) -/
  wrote : List Nat
  /-- the counter shadow, page 61, by offset (R461) -/
  shadow : Cells Word
  /-- the sampling LFSR, 23 bits (R467) -/
  lfsr : BitVec 23
  /-- tagged requests in flight (R468) -/
  fly : List Sample
  /-- the sample buffer, 16 entries (R471) -/
  buf : Cells Sample
deriving DecidableEq, Repr

/-! ### Reset and the whole -/

/-- Reset modes (R412). -/
inductive RstMode where
  | run
  | por
  | warm
  /-- a warm reset carried out as a power-on reset -/
  | warmPor
deriving DecidableEq, Repr

/-- Start-up steps (R416). -/
inductive Boot where
  | power
  | fill
  | march
  | hold
  | extfill
  | ready
deriving DecidableEq, Repr

/-- Reset, straps and start-up. -/
structure Rst where
  /-- running, in power-on reset, in warm reset, or in a warm reset carried out as power-on (R412) -/
  mode : RstMode
  /-- rst_por_n is low (R412) -/
  porLow : Bool
  /-- rst_warm_n is low (R412) -/
  warmLow : Bool
  /-- strap_slice_id as sampled (R413) -/
  id : BitVec 8
  /-- strap_coord as sampled (R434) -/
  coord : BitVec 16
  /-- strap_march as sampled (R413) -/
  march : Bool
  /-- strap_boot_hold as sampled (R413) -/
  hold : Bool
  /-- the start-up step (R416) -/
  boot : Boot
  /-- count at which the step began (R418) -/
  bootCyc : Nat
  /-- count of the release edge (R358) -/
  relCyc : Nat
  /-- BOOT_STAT.WARM (R426) -/
  warm : Bool
  /-- BOOT_STAT.FILLED (R426) -/
  filled : Bool
  /-- BOOT_STAT.MARCHED (R426) -/
  marched : Bool
  /-- rel_ready has risen since the last power-on reset (R412) -/
  once : Bool
  /-- WARM_RESET taken at this count (R424) -/
  cmd : Option Nat
  /-- count at which the completion of WARM_RESET's carrier left (R424) -/
  cmdLeft : Option Nat
  /-- the slice's own reset asserted at this count (R425) -/
  own : Option Nat
  /-- mp_rst_n: low from the assertion of a reset to its release edge (R410, R414) -/
  mpRstN : Bool
  /-- xp_rst_n: low from the assertion of a reset to its release edge (R410, R414) -/
  xpRstN : Bool
  /-- rel_ready: high from READY to the next reset (R410, R422) -/
  relReady : Bool
  /-- SET_MODE in progress (R44) -/
  setRun : Option SetRun
deriving DecidableEq, Repr

/-- Everything that the slice itself changes. -/
structure Hw where
  /-- SLC.CYCLE_HI:CYCLE_LO (R7) -/
  cyc : BitVec 64
  rst : Rst
  /-- registers that the slice writes: key configuration-space offset; unlisted = reset value -/
  ro : Cells Word
  ports : Ports
  vp : Vp
  core : Core
  path : RegPath
  home : Home
  arr : Arr
  near : Near
  xp : Xp
  glp : Glp
  reel : Reel
  units : Units
  qos : Qos
  prot : Prot
  diag : Diag
  perf : Perf
  /-- counter from which free values are drawn: the model's own field -/
  free : Nat
  /-- bits that the slice wrote in register `key` in its last CLK_C cycle of writing, with that cycle (R13, R487) -/
  hwSet : Cells (Nat × Word)
deriving DecidableEq, Repr

/-- The machine: the registers that software writes, what the slice changes, and the queue of waiting commands. -/
structure State where
  /-- RW and RWL register fields: key configuration-space offset; unlisted = reset value -/
  cfg : Cells Word
  hw : Hw
  /-- commands that wait, first in first out -/
  pending : List Instr
deriving DecidableEq, Repr

/-! ### The state after reset -/

/-- Ports with nothing in them. -/
def Ports.init : Ports where
  xin := []
  ing := []
  crd := []
  owed := []
  eg := []
  rot := []
  crdPins := 0
  outFlit := none
  outCyc := 0
  xout := []
  crdIn := []
  initDone := false
  initOwed := []
  mtags := []
  vcrst := []
  vcrstPins := 0
  cut := []

/-- The Vertical Port at the start of the first training run after a power-on release (R396, R397). -/
def Vp.init : Vp where
  state := .training
  gen := 1
  pgen := 0
  attempt := 1
  width := 0
  phase := .a
  phaseCyc := 0
  attCyc := 0
  runMax := 3
  repair := []
  failed := 0
  gotRepair := []
  gotProp := none
  gotConfirm := none
  gotCyc := 0
  gmaskTx := 0
  gmaskRx := 0
  txSeq := 0
  rxSeq := none
  nakDue := false
  replay := []
  resend := []
  lossAt := none
  unsent := []
  txCtl := 0
  txSlots := []
  txCyc := 0

/-- Nothing waits and no entry is in use. -/
def Core.init : Core where
  nextSeq := 0
  nextArr := 0
  adm := []
  dec := []
  tt := []
  owing := []
  fences := []
  inMp := none
  inVp := none
  admCyc := 0
  admNum := 0

/-- An empty register path; the wrapper instruction register holds WS_BYPASS. -/
def RegPath.init : RegPath where
  queue := []
  mesh := []
  spOut := []
  spPins := none
  spMay := none
  spCarries := false
  tpWait := []
  capSp := none
  capMp := none
  capVp := none
  wir := 0
  wirShift := 0
  bypass := false
  regAcc := 0
  mbist := 0
  tpDone := false
  tpCode := 0
  tpData := 0
  vptx := 0
  vprx := 0
  coreSeg := []
  wso := false
  txPins := 0

/-- Every tag invalid, every snoop-filter entry free, no CAI fenced, every way CACHE and unlocked. -/
def Home.init : Home where
  tags := []
  plru := []
  sf := []
  sfPlru := []
  fenced := []
  swept := []
  sweep := none
  sweepCyc := none
  sfCyc := none
  mode := []
  locked := []
  gaveUp := []

/-- Power of a bank right after the release edge: the on request of the POWER step is open (R416, R417). -/
def Pwr.start : Pwr where
  st := .chg
  want := .on
  req := true
  ack := false
  since := 0
  tmo := false
  onAt := none
  next := none
  last := 0
  dead := false

/-- Every row reads as zero with check bits zero; no operation pending. -/
def Arr.init : Arr where
  words := []
  banks := []
  pwr := []

/-- Jig, the ALB and the cells are empty. -/
def Near.init : Near where
  jig := []
  alb := []
  stamp := 0
  ready := []
  fly := []
  issued := []

/-- No read and no write outstanding. -/
def Xp.init : Xp where
  rds := []
  wait := []
  ask := []
  rdUp := none
  wrUp := none
  wrs := []
  rdPins := none
  wrPins := none

/-- Every channel IDLE. -/
def Glp.init : Glp where
  chan := []
  rot := 0
  fill := none
  remote := []
  nextTag := 0
  late := []
  cyc := none

/-- Every context FREE, every member slot invalid. -/
def Reel.init : Reel where
  ctx := []
  mem := []
  memRid := []
  lists := []
  sbuf := []
  rot := 0
  cyc := none

/-- No event, no record, no command in progress. -/
def Units.init : Units where
  events := []
  recs := []
  merge := []
  mnt := none
  mntFly := 0
  mntCut := false
  mntLines := []
  mntCyc := 0
  mntNum := 0
  queEnd := none
  selEnd := none
  chkEnd := false
  lrtEnd := none
  hmt := none

/-- Nothing charged; the window length of the reset value of QOS.WINDOW. -/
def Qos.init : Qos where
  charge := []
  mcyc := 0
  mchg := []
  dem := []
  log2w := 12
  boundary := 0
  ucyc := 0
  uold := []
  clr := none
  tcBytes := []
  blkBytes := []

/-- No repair, pass or remap. -/
def Prot.init : Prot where
  retry := []
  injTag := 0
  injSf := 0
  injTt := 0
  scrub := none
  dis := none
  disWait := []
  chk := none
  march := none
  lrt := []

/-- Gavotte idle. -/
def Gav.init : Gav where
  step := .idle
  start := 0
  stepCyc := 0
  round := 0
  failed := false
  cause := 0
  xing := []
  banks := []
  tried := []
  waited := false
  lost := []
  unnamed := []
  next := 0

/-- Empty log and fault queue. -/
def Diag.init : Diag where
  rq := []
  rqCyc := 0
  rqNum := 0
  late := []
  before := []
  log := []
  recs := []
  fltCyc := 0
  fltNow := []
  fltWas := []
  fltTail := 0
  gav := Gav.init

/-- Counters zero; the LFSR holds the reset value of SMP.SEED. -/
def Perf.init : Perf where
  ctr := []
  inc := []
  prev := []
  pc := []
  wrote := []
  shadow := []
  lfsr := 1
  fly := []
  buf := []

/-- The POWER step after a power-on release with straps zero. -/
def Rst.init : Rst where
  mode := .run
  porLow := false
  warmLow := false
  id := 0
  coord := 0
  march := false
  hold := false
  boot := .power
  bootCyc := 0
  relCyc := 0
  warm := false
  filled := false
  marched := false
  once := false
  cmd := none
  cmdLeft := none
  own := none
  mpRstN := true
  xpRstN := true
  relReady := false
  setRun := none

/-- Everything the slice itself changes, right after a power-on release: VP.RUN_CNT counts the training run that has started
(R397). -/
def Hw.init : Hw where
  cyc := 0
  rst := Rst.init
  ro := [(0x306C, 1)]
  ports := Ports.init
  vp := Vp.init
  core := Core.init
  path := RegPath.init
  home := Home.init
  arr := Arr.init
  near := Near.init
  xp := Xp.init
  glp := Glp.init
  reel := Reel.init
  units := Units.init
  qos := Qos.init
  prot := Prot.init
  diag := Diag.init
  perf := Perf.init
  free := 0
  hwSet := []

/-- The machine right after the release edge of a power-on reset (R411, R415): every register at its reset value, every
structure empty, the start-up sequence in its POWER step. The straps are not given by the rules: zero here. -/
def State.reset : State where
  cfg := []
  hw := Hw.init
  pending := []

end Sys2Proof.Machine
end

