-- ==== Sys2Proof/Machine/Update.lean ====
section
/-! DEFINITION. The updates of the hardware state, one for each part: every other file changes a part through these. -/
namespace Sys2Proof.Machine

/-- Change `cyc`. -/
def Hw.modCyc (h : Hw) (f : BitVec 64 → BitVec 64) : Hw := { h with cyc := f h.cyc }
/-- Replace `cyc`. -/
def Hw.setCyc (h : Hw) (x : BitVec 64) : Hw := { h with cyc := x }

/-- Change `rst`. -/
def Hw.modRst (h : Hw) (f : Rst → Rst) : Hw := { h with rst := f h.rst }
/-- Replace `rst`. -/
def Hw.setRst (h : Hw) (x : Rst) : Hw := { h with rst := x }

/-- Change `ro`. -/
def Hw.modRo (h : Hw) (f : Cells Word → Cells Word) : Hw := { h with ro := f h.ro }
/-- Replace `ro`. -/
def Hw.setRo (h : Hw) (x : Cells Word) : Hw := { h with ro := x }

/-- Change `ports`. -/
def Hw.modPorts (h : Hw) (f : Ports → Ports) : Hw := { h with ports := f h.ports }
/-- Replace `ports`. -/
def Hw.setPorts (h : Hw) (x : Ports) : Hw := { h with ports := x }

/-- Change `vp`. -/
def Hw.modVp (h : Hw) (f : Vp → Vp) : Hw := { h with vp := f h.vp }
/-- Replace `vp`. -/
def Hw.setVp (h : Hw) (x : Vp) : Hw := { h with vp := x }

/-- Change `core`. -/
def Hw.modCore (h : Hw) (f : Core → Core) : Hw := { h with core := f h.core }
/-- Replace `core`. -/
def Hw.setCore (h : Hw) (x : Core) : Hw := { h with core := x }

/-- Change `path`. -/
def Hw.modPath (h : Hw) (f : RegPath → RegPath) : Hw := { h with path := f h.path }
/-- Replace `path`. -/
def Hw.setPath (h : Hw) (x : RegPath) : Hw := { h with path := x }

/-- Change `home`. -/
def Hw.modHome (h : Hw) (f : Home → Home) : Hw := { h with home := f h.home }
/-- Replace `home`. -/
def Hw.setHome (h : Hw) (x : Home) : Hw := { h with home := x }

/-- Change `arr`. -/
def Hw.modArr (h : Hw) (f : Arr → Arr) : Hw := { h with arr := f h.arr }
/-- Replace `arr`. -/
def Hw.setArr (h : Hw) (x : Arr) : Hw := { h with arr := x }

/-- Change `near`. -/
def Hw.modNear (h : Hw) (f : Near → Near) : Hw := { h with near := f h.near }
/-- Replace `near`. -/
def Hw.setNear (h : Hw) (x : Near) : Hw := { h with near := x }

/-- Change `xp`. -/
def Hw.modXp (h : Hw) (f : Xp → Xp) : Hw := { h with xp := f h.xp }
/-- Replace `xp`. -/
def Hw.setXp (h : Hw) (x : Xp) : Hw := { h with xp := x }

/-- Change `glp`. -/
def Hw.modGlp (h : Hw) (f : Glp → Glp) : Hw := { h with glp := f h.glp }
/-- Replace `glp`. -/
def Hw.setGlp (h : Hw) (x : Glp) : Hw := { h with glp := x }

/-- Change `reel`. -/
def Hw.modReel (h : Hw) (f : Reel → Reel) : Hw := { h with reel := f h.reel }
/-- Replace `reel`. -/
def Hw.setReel (h : Hw) (x : Reel) : Hw := { h with reel := x }

/-- Change `units`. -/
def Hw.modUnits (h : Hw) (f : Units → Units) : Hw := { h with units := f h.units }
/-- Replace `units`. -/
def Hw.setUnits (h : Hw) (x : Units) : Hw := { h with units := x }

/-- Change `qos`. -/
def Hw.modQos (h : Hw) (f : Qos → Qos) : Hw := { h with qos := f h.qos }
/-- Replace `qos`. -/
def Hw.setQos (h : Hw) (x : Qos) : Hw := { h with qos := x }

/-- Change `prot`. -/
def Hw.modProt (h : Hw) (f : Prot → Prot) : Hw := { h with prot := f h.prot }
/-- Replace `prot`. -/
def Hw.setProt (h : Hw) (x : Prot) : Hw := { h with prot := x }

/-- Change `diag`. -/
def Hw.modDiag (h : Hw) (f : Diag → Diag) : Hw := { h with diag := f h.diag }
/-- Replace `diag`. -/
def Hw.setDiag (h : Hw) (x : Diag) : Hw := { h with diag := x }

/-- Change `perf`. -/
def Hw.modPerf (h : Hw) (f : Perf → Perf) : Hw := { h with perf := f h.perf }
/-- Replace `perf`. -/
def Hw.setPerf (h : Hw) (x : Perf) : Hw := { h with perf := x }

/-- Change `free`. -/
def Hw.modFree (h : Hw) (f : Nat → Nat) : Hw := { h with free := f h.free }
/-- Replace `free`. -/
def Hw.setFree (h : Hw) (x : Nat) : Hw := { h with free := x }

/-- Change `hwSet`. -/
def Hw.modHwSet (h : Hw) (f : Cells (Nat × Word) → Cells (Nat × Word)) : Hw := { h with hwSet := f h.hwSet }
/-- Replace `hwSet`. -/
def Hw.setHwSet (h : Hw) (x : Cells (Nat × Word)) : Hw := { h with hwSet := x }

end Sys2Proof.Machine
end

