-- ==== Sys2Proof/Machine/Regs.lean ====
section
/-! DEFINITION. The registers as two sparse files indexed by configuration-space byte offset (R477): which fields software
writes, under which reset values (R489, R491 and the tables of each page), and the plain reads and writes of both files. -/
namespace Sys2Proof.Machine

/-- Offset `o` of page `p` (R477). -/
def rg (p o : Nat) : Nat := p * 0x1000 + o

/-- A row of the register list: `num` registers `step` bytes apart from `off`, with the RW bits, the RWL bits and the
reset value. Only fields that software alone writes stand here. -/
structure RegRow where
  off : Nat
  num : Nat := 1
  step : Nat := 4
  rw : Word := 0
  rwl : Word := 0
  rst : Word := 0

/-- The bits that PG_ERR defines, by page (R485). -/
def errMask (p : Nat) : Word :=
  match p with
  | 0 => 1 | 2 => 7 | 3 => 0x1F | 4 => 3 | 5 => 1 | 6 => 1 | 7 => 3 | 8 => 0xF | 9 => 3 | 10 => 1 | 11 => 7 | 12 => 3
  | 13 => 3 | 14 => 7 | 15 => 7 | 16 => 7 | 17 => 0x3F | 18 => 3 | 19 => 7 | 20 => 0xF | 21 => 3 | 22 => 0x1F | 23 => 1
  | 25 => 3
  | _ => 0

/-- Rows of pages 0 to 8 (R52, R68, R103, R381, R383, R385, R408, R426, R441, R453). -/
def regRows0 : List RegRow := [
  { off := rg 0 0x058, rw := 1 },
  { off := rg 2 0x044, rw := 0xF },
  { off := rg 3 0x044, rw := 0x00FFFF03, rwl := 0x10, rst := 0x00200813 },
  { off := rg 3 0x04C, rwl := 0xFFFF },
  { off := rg 3 0x050, rw := 0x11F },
  { off := rg 4 0x044, rw := 0xFFFF, rst := 0x4000 },
  { off := rg 5 0x050, num := 4, step := 8, rw := 0x8FFFFFFF },
  { off := rg 5 0x054, num := 4, step := 8, rw := 0xFFFFFFFF },
  { off := rg 6 0x040, rw := 0xFFFFFFFF },
  { off := rg 6 0x04C, rw := 0xF, rst := 12 },
  { off := rg 6 0x050, rwl := 0x3FFFFFF, rst := 0x3FFFFFF },
  { off := rg 6 0x060, num := 3, rwl := 0x8007FFFF },
  { off := rg 6 0x100, num := 16, step := 16, rw := 0x8FFF000F },
  { off := rg 6 0x104, num := 16, step := 16, rw := 0xFFFFFFFF },
  { off := rg 6 0x108, num := 16, step := 16, rw := 0x3F, rst := 20 },
  { off := rg 7 0x050, rw := 0x80000FFF, rst := 0x100 },
  { off := rg 7 0x054, rw := 0xFFFFFFFF },
  { off := rg 7 0x058, rw := 0xFFFF, rst := 0x1000 },
  { off := rg 8 0x048, rw := 0x7F },
  { off := rg 8 0x050, rw := 1 },
  { off := rg 8 0x054, rwl := 0x1FFF0FFF },
  { off := rg 8 0x058, rwl := 0x1FFF },
  { off := rg 8 0x05C, rw := 0xFFFF, rst := 0x4000 }]

/-- Rows of pages 9 to 16 (R131, R164, R192, R212, R248, R251, R254, R271). -/
def regRows1 : List RegRow := [
  { off := rg 9 0x040, rw := 0xFFFFFF80 },
  { off := rg 9 0x044, rw := 0xFFFFF },
  { off := rg 9 0x048, rw := 0xFFFFFFF },
  { off := rg 9 0x04C, rw := 0x7FFF3FFF },
  { off := rg 9 0x050, rw := 0x7F, rst := 16 },
  { off := rg 11 0x040, rw := 1 },
  { off := rg 12 0x040, rw := 1 },
  { off := rg 13 0x040, rw := 0x0F773FFF },
  { off := rg 13 0x044, rw := 0x3FF },
  { off := rg 14 0x040, rwl := 0xFFFF },
  { off := rg 14 0x044, rw := 0x7F, rst := 16 },
  { off := rg 14 0x048, rw := 0xFFFFFFC0 },
  { off := rg 14 0x04C, rw := 0xFFFFF },
  { off := rg 14 0x050, rw := 0x1F },
  { off := rg 14 0x068, rwl := 0xFFFFFFF },
  { off := rg 14 0x06C, rwl := 0xFFFFFFFF },
  { off := rg 15 0x040, rwl := 0xFFFF },
  { off := rg 15 0x044, rw := 0xF, rst := 8 },
  { off := rg 15 0x04C, rw := 0xF001F },
  { off := rg 15 0x06C, rw := 0xFFFFFFFF },
  { off := rg 16 0x040, rw := 0x1FF000F },
  { off := rg 16 0x044, rw := 0x1F, rst := 12 },
  { off := rg 16 0x048, rw := 0xFF },
  { off := rg 16 0x400, num := 256, rw := 0xFFFF },
  { off := rg 16 0x800, num := 256, step := 8, rw := 0x7FFF0003, rst := 2 },
  { off := rg 16 0x804, num := 256, step := 8, rw := 0x1FFFFF }]

/-- Rows of pages 17 to 25 (R67, R309, R312, R315, R349, R353, R455, R474, R475). -/
def regRows2 : List RegRow := [
  { off := rg 17 0x040, rw := 0xF, rst := 4 },
  { off := rg 17 0x044, rw := 0xFF, rwl := 0x80000000, rst := 8 },
  { off := rg 17 0x048, rw := 0xFFFF, rst := 0xFFFF },
  { off := rg 17 0x04C, rw := 0x7FFF3FFF, rst := 0x40000000 },
  { off := rg 17 0x06C, rw := 0xF3FFF01F },
  { off := rg 18 0x040, rw := 3 },
  { off := rg 18 0x044, rw := 0xFFFFFFFF },
  { off := rg 19 0x048, rw := 0x1F },
  { off := rg 21 0x040, rw := 3 },
  { off := rg 21 0x044, rw := 1 },
  { off := rg 21 0x058, rw := 0xFF },
  { off := rg 22 0x040, rw := 0xFFFFF, rst := 0x41000 },
  { off := rg 23 0x040, num := 4, rwl := 0xFFFFFFFF },
  { off := rg 23 0x050, rwl := 0xF },
  { off := rg 24 0x040, rw := 1 },
  { off := rg 24 0x044, rw := 1 },
  { off := rg 24 0x0A0, num := 5, rw := 0xFFFFFFFF },
  { off := rg 24 0x0C4, rw := 0x1FF },
  { off := rg 24 0x0C8, rw := 1 },
  { off := rg 24 0x148, num := 8, rw := 0x800001FF },
  { off := rg 25 0x040, rw := 0x81FFF01F, rst := 10 },
  { off := rg 25 0x044, rw := 0x7FFFFF, rst := 1 },
  { off := rg 25 0x054, rw := 0x8000001F, rst := 1 }]

/-- Rows of the array pages (R253, R438, R449). -/
def regRows3 : List RegRow := [
  { off := 0x20000, num := 4096, rw := 0xFF },
  { off := 0x28000, num := 4096, rw := 0x800000FF },
  { off := 0x2C000, num := 1024, step := 64, rw := 0x0FFF000F },
  { off := 0x2C004, num := 1024, step := 64, rw := 0xFFFFF000 },
  { off := 0x2C008, num := 1024, step := 64, rw := 0xFFFFF },
  { off := 0x2C00C, num := 1024, step := 64, rw := 0xFFFFF000 },
  { off := 0x2C010, num := 1024, step := 64, rw := 0xFFFFF },
  { off := 0x2C014, num := 1024, step := 64, rw := 0xFFFFFFFF }]

/-- The row takes in this offset. -/
def RegRow.has (r : RegRow) (o : Nat) : Bool :=
  decide (r.off ≤ o) && decide (o < r.off + r.num * r.step) && decide ((o - r.off) % r.step = 0)

/-- The row of an offset; PG_ERR_EN of each page has the bits of its PG_ERR (R478). -/
def regRow (o : Nat) : RegRow :=
  if o % 0x1000 = 0x014 ∧ o / 0x1000 < 26 then { off := o, rw := errMask (o / 0x1000) }
  else
    let l := if o < rg 9 0 then regRows0 else if o < rg 17 0 then regRows1 else if o < rg 32 0 then regRows2 else regRows3
    (l.find? (fun r => r.has o)).getD { off := o }

/-- The value of a software-written register (R11): the last value written, or the reset value. -/
def cfgGet (c : Cells Word) (o : Nat) : Word := cGet (regRow o).rst c o

/-- SLC.CTRL.LOCK (R14). -/
def locked (c : Cells Word) : Bool := bit (cfgGet c (rg 0 0x58)) 0

/-- A write of a software-written register: RW bits take the data, RWL bits only while SLC.CTRL.LOCK is 0 (R11, R489). -/
def cfgPut (c : Cells Word) (o : Nat) (d : Word) : Cells Word :=
  let r := regRow o
  let m := if locked c then r.rw else r.rw ||| r.rwl
  cPut r.rst c o ((cfgGet c o &&& ~~~ m) ||| (d &&& m))

/-- A write of SLC.CTRL: LOCK, once 1, stays 1 (R14). -/
def cfgPutCtrl (c : Cells Word) (d : Word) : Cells Word :=
  cPut 0 c (rg 0 0x58) ((cfgGet c (rg 0 0x58) ||| d) &&& 1)

/-- Field [hi:lo] of a software-written register. -/
def cf (c : Cells Word) (p o hi lo : Nat) : Nat := fld (cfgGet c (rg p o)) hi lo

/-- A register that the slice writes; zero at reset. -/
def roGet (h : Hw) (o : Nat) : Word := cGet 0 h.ro o

/-- Write a register of the slice's own file. -/
def roPut (o : Nat) (v : Word) (h : Hw) : Hw := h.setRo (cPut 0 h.ro o v)

/-- Bits [hi:lo] of a register of the slice's own file. -/
def rf (h : Hw) (p o hi lo : Nat) : Nat := fld (roGet h (rg p o)) hi lo

/-- The bits of a W1C register that software may clear: PG_ERR, ATOM.FP_STAT, ACC.STAT, SEL.STAT, PMU.OVFk,
PMU.CMP_OVF (R69, R148, R193, R212, R474). -/
def w1cMask (o : Nat) : Word :=
  if o % 0x1000 = 0x010 ∧ o / 0x1000 < 26 then errMask (o / 0x1000)
  else if o = rg 10 0x48 then 3
  else if o = rg 12 0x44 then 0xF
  else if o = rg 13 0x58 then 1
  else if rg 24 0x80 ≤ o ∧ o < rg 24 0x94 ∧ o % 4 = 0 then 0xFFFFFFFF
  else if o = rg 24 0xC0 then 0x1FF
  else 0

/-- The slice-local CLK_P count (R7). -/
def now (h : Hw) : Nat := h.cyc.toNat

/-- The CLK_C cycle that contains the present count. -/
def clkC (h : Hw) : Nat := now h / 4

/-- The CLK_M cycle that contains the present count. -/
def clkM (h : Hw) : Nat := now h / 2

/-- The CLK_A cycle: CLK_A edges stand at multiples of one and a half counts. -/
def clkA (h : Hw) : Nat := now h * 2 / 3

/-- Bits of register `o` that the slice wrote in the present CLK_C cycle. -/
def wroteNow (h : Hw) (o : Nat) : Word :=
  match cFind h.hwSet o with
  | some (t, m) => if t = clkC h then m else 0
  | none => 0

/-- The slice writes bits `m` of register `o` in this CLK_C cycle: noted, so that a software write of the same cycle does
not undo it (R13, R487). -/
def noteHw (o : Nat) (m : Word) (h : Hw) : Hw :=
  h.setHwSet (cIns h.hwSet o (clkC h, wroteNow h o ||| m))

/-- A hardware update of a register that software may write too (R487). -/
def roSet (o : Nat) (v : Word) (h : Hw) : Hw := noteHw o 0xFFFFFFFF (roPut o v h)

/-- A software write of a field that the slice also writes: lost where the slice wrote it in the same CLK_C cycle. -/
def swPut (o : Nat) (v : Word) (h : Hw) : Hw := if wroteNow h o = 0 then roPut o v h else h

/-- Set sticky bits (R13). -/
def sticky (o : Nat) (m : Word) (h : Hw) : Hw := noteHw o m (roPut o (roGet h o ||| m) h)

/-- Software writes 1 to sticky bits: they clear, but for those set in the same CLK_C cycle (R13). -/
def clearSticky (o : Nat) (d : Word) (h : Hw) : Hw :=
  roPut o (roGet h o &&& ~~~ (d &&& w1cMask o &&& ~~~ wroteNow h o)) h

/-- Set bit `b` of PG_ERR of page `p`. -/
def err (p b : Nat) (h : Hw) : Hw := sticky (rg p 0x10) (BitVec.ofNat 32 (2 ^ b)) h

/-- Add to a saturating counter register. -/
def cnt (p o n : Nat) (h : Hw) : Hw := roPut (rg p o) (satAdd (roGet h (rg p o)) n) h

/-- Add to a wrapping counter register of `w` bits. -/
def cntW (p o n : Nat) (h : Hw) (w : Nat := 32) : Hw :=
  roPut (rg p o) (BitVec.ofNat 32 (((roGet h (rg p o)).toNat + n) % 2 ^ w)) h

/-- Store a number in a register. -/
def put (p o n : Nat) (h : Hw) : Hw := roPut (rg p o) (BitVec.ofNat 32 n) h

end Sys2Proof.Machine
end

