-- ==== Sys2Proof/Machine/Flags.lean ====
section
/-! DEFINITION. What the rules call flags and records: events and their counters, the error log's report queue, the start
of Gavotte, the status of a page's commands, and the interrupt levels. -/
namespace Sys2Proof.Machine

/-! ### Events (R457, R459) -/

/-- Event `e` adds `n` in this CLK_P cycle: its counter keeps 48 bits, and a carry sets the overflow bit (R459). -/
def ev (e n : Nat) (h : Hw) : Hw :=
  if n = 0 then h else
  let v := (cGet 0 h.perf.ctr e).toNat + n
  let h := h.modPerf (fun it => { it with
    ctr := cPut 0 it.ctr e (BitVec.ofNat 48 v)
    inc := cPut 0 it.inc e (cGet 0 it.inc e + n) })
  if 2 ^ 48 ≤ v then sticky (rg 24 (0x80 + 4 * (e / 32))) (BitVec.ofNat 32 (2 ^ (e % 32))) h else h

/-! ### Gavotte's start (R333, R343) -/

/-- GAV.CTRL.MAX_ROUNDS, 0 acting as 1 (R353). -/
def maxRounds (c : Cells Word) : Nat := max 1 (cf c 22 0x40 19 16)

/-- A cause of Gavotte (bit of GAV.CAUSE): idle, it starts a sequence; in hold or sort it joins; in repair or replay the
sequence returns to hold for a new round, or fails (R335, R343). (DEDUCED, log entry 77) -/
def gavCause (c : Cells Word) (b : Nat) (h : Hw) : Hw :=
  let g := h.diag.gav
  let upd := fun (h : Hw) (g : Gav) => (h.modDiag (fun it => { it with gav := g }))
  if g.failed then h else
  match g.step with
  | .idle =>
    ev 0x9B 1 (upd h { g with
      step := .hold, start := now h, stepCyc := now h, round := 1, cause := BitVec.ofNat 6 (2 ^ b), tried := []
      waited := false, next := 0 })
  | .hold | .sort => upd h { g with cause := setBit g.cause b true }
  | .release => upd h { g with next := setBit g.next b true }
  | .repair | .replay =>
    let g := { g with cause := setBit g.cause b true }
    if g.round + 1 ≤ maxRounds c then
      upd h { g with step := .hold, stepCyc := now h, round := g.round + 1, waited := false, tried := [] }
    else err 22 4 (upd h { g with step := .hold, stepCyc := now h, failed := true })

/-- A Gavotte sequence holds the slice: from the hold step to the release (R335, R343). -/
def gavBusy (h : Hw) : Bool := h.diag.gav.step != .idle

/-- Bank operations and lookups are held: hold, sort, repair or failed; from the replay step on they run (R335, R341). -/
def gavHolds (h : Hw) : Bool := gavBusy h && (h.diag.gav.step != .replay) && (h.diag.gav.step != .release)

/-! ### Reports (R317 to R322) -/

/-- Two reports have one signature: KIND, FORM, SRC and CLASS (R317). -/
def Report.sameSig (a b : Report) : Bool :=
  a.kind == b.kind && a.place == b.place && a.src == b.src && a.cls == b.cls

/-- A report joins an earlier one of the same signature (R320, R321). -/
def Report.merge (a b : Report) : Report :=
  { a with count := min 0xFFFF (a.count + b.count), last := b.last, lastCyc := b.lastCyc, wmask := a.wmask ||| b.wmask }

/-- The place of a new report: behind every report of an earlier CLK_C cycle, then in KIND and intake order (R321). -/
def rqInsert (r : Report) : List Report → List Report
  | [] => [r]
  | x :: q =>
    if decide (x.reach = r.reach) && (decide (r.kind < x.kind) || (decide (r.kind = x.kind) && decide (r.iseq < x.iseq)))
    then r :: x :: q else x :: rqInsert r q

/-- A report joins a waiting one of the same signature: of two that reach the queue in one CLK_C cycle the one with the lower intake
number counts as the earlier, whichever was made first (R320, R321). -/
def Report.join (a b : Report) : Report :=
  let a' := if a.reach = b.reach ∧ b.iseq < a.iseq then { a with rid := b.rid, cyc := b.cyc, iseq := b.iseq } else a
  let a' := { a' with count := min 0xFFFF (a.count + b.count), wmask := a.wmask ||| b.wmask }
  if a.lreach = b.reach ∧ b.iseq < a.lseq then a'
  else { a' with last := b.rid, lastCyc := b.cyc, lreach := b.reach, lseq := b.iseq }

/-- The queue with this report merged into the waiting one of the same signature, if there is one; one that has become earlier takes
its place anew. -/
def rqMerge (r : Report) (q : List Report) : Option (List Report) :=
  match q.find? (·.sameSig r) with
  | none => none
  | some x =>
    let y := x.join r
    if y.iseq = x.iseq then some (q.map (fun z => if z.sameSig r then y else z))
    else some (rqInsert y (q.filter (fun z => !(z.sameSig r))))

/-- Submit a report (R317, R321): merged, queued, or dropped when 32 wait. (DEDUCED, log entry 50) -/
def report (kind : Nat) (place : Bool) (src cls : Nat) (wmask : Word) (rid : Rid) (h : Hw) (iseq : Nat := 0) : Hw :=
  let cyc := BitVec.ofNat 32 (now h)
  let r : Report := { kind := kind, place := place, src := src % 2 ^ 45, cls := cls, wmask := wmask, rid := rid, cyc := cyc,
                      count := 1, last := rid, lastCyc := cyc, reach := clkC h, iseq := iseq
                      lreach := clkC h, lseq := iseq }
  let h := ev 0x9A 1 h
  let setq := fun (q : List Report) => (h.modDiag (fun it => { it with rq := q }))
  match rqMerge r h.diag.rq with
  | some q => setq q
  | none =>
    if h.diag.rq.length < 32 then setq (rqInsert r h.diag.rq)
    else err 20 1 (cnt 20 0x48 1 (setq ((rqInsert r h.diag.rq).take 32)))

/-- The reporter of the slice's own work (R317). -/
def ownRid : Rid := 0xFFFF

/-- SRC of a way and set, place form (R319). -/
def placeSrc (way set : Nat) : Nat := way * 2 ^ 14 + set % 2 ^ 14

/-! ### Commands of a page (R332, R427 and the like) -/

/-- BUSY of a page's PG_CMD_STAT. -/
def pgBusy (h : Hw) (p : Nat) : Bool := bit (roGet h (rg p 0x20)) 31

/-- A command is taken: PG_CMD_STAT shows it and CMD_RESULT its result; STATE sets CMD_STATE (R332). A command that fails a
DECERR condition is recorded so while another runs, too: BUSY stays. (DEDUCED, log entry 61) -/
def cmdTaken (p stat code : Nat) (h : Hw) : Hw :=
  let h := put p 0x64 code (put p 0x20 (2 ^ 31 * b2n (pgBusy h p) + stat) h)
  if code = 5 then err p 0 h else h

/-- A command that runs: PG_CMD_STAT shows it with BUSY. -/
def cmdRuns (p stat : Nat) (h : Hw) : Hw := put p 0x20 (2 ^ 31 + stat) h

/-- A running command ends with this result: BUSY clears; STATE sets CMD_STATE. -/
def cmdEnds (p code : Nat) (h : Hw) : Hw :=
  let h := put p 0x20 ((roGet h (rg p 0x20)).toNat % 2 ^ 31) (put p 0x64 code h)
  if code = 5 then err p 0 h else h

/-- A command refused because the page is BUSY: only CMD_STATE is set (R332). -/
def cmdRefused (p : Nat) (h : Hw) : Hw := err p 0 h

/-! ### Interrupt levels (R330, R331, R466, R484) -/

/-- PG_STAT.IRQ of a page. -/
def pgIrq (c : Cells Word) (h : Hw) (p : Nat) : Bool := (roGet h (rg p 0x10) &&& cfgGet c (rg p 0x14)) != 0

/-- SLC.ERR_SUM (R484). -/
def errSum (c : Cells Word) (h : Hw) : Nat := maskOf ((List.range 26).filter (fun p => pgIrq c h p))

/-- FLT.OCC: records between HEAD and TAIL, modulo 512 (R326). -/
def fltOcc (h : Hw) : Nat := (rf h 21 0x4C 8 0 + 512 - rf h 21 0x48 8 0) % 512

/-- SMP.OCC (R472). -/
def smpOcc (h : Hw) : Nat := (rf h 25 0x4C 4 0 + 32 - rf h 25 0x48 4 0) % 32

/-- irq_perf (R466). -/
def irqPerf (c : Cells Word) (h : Hw) : Bool :=
  (decide (cf c 24 0x44 0 0 = 1) &&
    ((List.range 5).any (fun k => (roGet h (rg 24 (0x80 + 4 * k)) &&& cfgGet c (rg 24 (0xA0 + 4 * k))) != 0) ||
     (roGet h (rg 24 0xC0) &&& cfgGet c (rg 24 0xC4)) != 0)) ||
  (decide (cf c 25 0x54 31 31 = 1) && decide (max 1 (cf c 25 0x54 4 0) ≤ smpOcc h))

/-- The level of interrupt n: irq_err, irq_fault, irq_queue, irq_perf (R378). -/
def irqLevel (c : Cells Word) (h : Hw) (n : Nat) : Bool :=
  match n with
  | 0 => errSum c h != 0
  | 1 => decide (cf c 21 0x44 0 0 = 1) && decide (fltOcc h ≠ 0)
  | 2 => decide (cf c 11 0x40 0 0 = 1) && !h.units.events.isEmpty
  | _ => irqPerf c h

end Sys2Proof.Machine
end

