-- ==== Sys2Proof/Machine/Msg.lean ====
section
/-! DEFINITION. ULP messages: the header flit and its inverse (R361), payloads (R363), the classes and lengths of the types
(R364), and the queues in which messages wait for egress. -/
namespace Sys2Proof.Machine

/-! ### The header flit -/

/-- The byte-mask field as sent: for a multicast, MMASK and MTAG (R361). -/
def Hdr.maskField (x : Hdr) : BitVec 128 :=
  if x.dkind = 3 then (((0 : BitVec 52) ++ x.mtag) ++ x.bmask.setWidth 64).setWidth 128 else x.bmask

/-- A header as a flit (R361), bit 0 last. -/
def hdrEnc (x : Hdr) : FlitBits :=
  ((0 : BitVec 2) ++ BitVec.ofBool x.skind ++ x.arg2 ++ x.arg1 ++ x.arg0 ++ x.maskField ++ x.pmask ++ x.addr ++ x.label ++
    x.rtag ++ x.tti ++ x.route ++ x.src ++ x.dst ++ x.dkind ++ BitVec.ofBool x.strm ++ x.resp ++ x.dfl ++ x.type).setWidth 512

/-- The header that a flit carries (R361). -/
def hdrDec (f : FlitBits) : Hdr :=
  let dkind := f.extractLsb' 13 2
  { type := f.extractLsb' 0 6
    dfl := f.extractLsb' 6 3
    resp := f.extractLsb' 9 3
    strm := f.getLsbD 12
    dkind := dkind
    dst := f.extractLsb' 15 16
    src := f.extractLsb' 31 16
    route := f.extractLsb' 47 16
    tti := f.extractLsb' 63 14
    rtag := f.extractLsb' 77 16
    label := f.extractLsb' 93 12
    addr := f.extractLsb' 105 52
    pmask := f.extractLsb' 157 64
    bmask := if dkind = 3 then (f.extractLsb' 221 64).setWidth 128 else f.extractLsb' 221 128
    mtag := if dkind = 3 then f.extractLsb' 285 12 else 0
    arg0 := f.extractLsb' 349 64
    arg1 := f.extractLsb' 413 64
    arg2 := f.extractLsb' 477 32
    skind := f.getLsbD 509 }

/-- The 16 words of a data flit, lowest first (R363). -/
def flitWords (f : FlitBits) : List Word := (List.range 16).map (fun i => f.extractLsb' (32 * i) 32)

/-- A data flit from words, lowest first. -/
def wordsFlit (ws : List Word) : FlitBits :=
  BitVec.ofNat 512 ((List.range 16).foldl (fun n i => n + (ws.getD i 0).toNat <<< (32 * i)) 0)

/-- The payload of a message: its words with the poison marks of PMASK (R91, R363). -/
def payOf (x : Hdr) (data : List FlitBits) : List PWord :=
  ((data.flatMap flitWords).zipIdx).map (fun p => ⟨p.1, bit x.pmask p.2⟩)

/-- PMASK of a payload. -/
def pmaskOf (pay : List PWord) : BitVec 64 :=
  BitVec.ofNat 64 (maskOf ((pay.zipIdx.filter (fun p => p.1.poi)).map (·.2)))

/-- The flits of a message: header flit, then DFL data flits (R357). -/
def msgFlits (m : OutMsg) : List FlitBits :=
  hdrEnc { m.hdr with pmask := pmaskOf m.pay } ::
    (List.range m.hdr.dfl.toNat).map (fun i => wordsFlit ((m.pay.drop (16 * i)).map (·.val)))

/-! ### Types (R364) -/

/-- The class in which a type travels: REQ 0, SNP 1, EVT 2, RSP 3, DAT 4. -/
def typeClass (t : Nat) : Option Nat :=
  if 0x01 ≤ t ∧ t ≤ 0x12 then some 0
  else if 0x18 ≤ t ∧ t ≤ 0x1C then some 4
  else if 0x20 ≤ t ∧ t ≤ 0x24 then some 1
  else if t = 0x28 ∨ t = 0x29 then some 2
  else if (0x30 ≤ t ∧ t ≤ 0x3E) ∨ t = 0x2C ∨ t = 0x2D then some 3
  else none

/-- Element size in bytes of an element-size code; codes 6 and 7 name none (R150). -/
def esize (code : Nat) : Option Nat := if code ≤ 5 then some (4 * 2 ^ code) else none

/-- The DFL that R364 gives to a message: none where no DFL is correct; CompData may have any up to 4. -/
def dflOk (x : Hdr) : Bool :=
  let d := x.dfl.toNat
  let t := x.type.toNat
  let op := fld x.arg2 4 0
  if t = 0x04 ∨ t = 0x05 then d == 2
  else if t = 0x06 then d == (if 0x10 ≤ op ∧ op ≤ 0x14 then 1 + fld x.arg2 12 12 else 0)
  else if t = 0x08 then
    match esize (fld x.arg2 2 0) with
    | some e => d == (e + 63) / 64
    | none => false
  else if t = 0x0A then
    match esize (fld x.arg2 2 0) with
    | some e => decide (1 ≤ d) && decide (d ≤ 4) && d == (fld x.arg2 13 8 * e + 63) / 64
    | none => false
  else if t = 0x0C ∨ t = 0x0D then d == 1 + fld x.arg2 2 2
  else if t = 0x18 ∨ t = 0x19 ∨ t = 0x1A ∨ t = 0x1C ∨ t = 0x29 then d == 2
  else if t = 0x1B then decide (d ≤ 4)
  else d == 0

/-- The message is well formed in this VC (R368): its type belongs to the VC's class and its DFL is right. The slice
receives no snoops. -/
def wellFormed (vc : Nat) (x : Hdr) : Bool :=
  decide (typeClass x.type.toNat = some (vc / 2)) && decide (vc / 2 ≠ 1) && dflOk x

/-- The VC of class `k` for traffic class `tc` (R21, R356). -/
def vcOf (k tc : Nat) : Nat := 2 * k + (if tc = 0 then 0 else 1)

/-! ### Ingress -/

/-- Key of the buffers of a port's VC. -/
def portKey (p : Port) (vc : Nat) : Nat := (match p with | .mp => 0 | .vp => 16) + vc

/-- The message at the head of an ingress buffer, once its last flit is there, with the count of that flit. -/
def headMsg (h : Hw) (p : Port) (vc : Nat) : Option (Hdr × List PWord × Nat) :=
  match cGet [] h.ports.ing (portKey p vc) with
  | [] => none
  | f :: r =>
    if !f.hdr then none else
    let x := hdrDec f.bits
    let n := x.dfl.toNat
    if r.length < n ∨ ((r.take n).any (fun g => g.hdr)) then none else
    some (x, payOf x ((r.take n).map (fun g => g.bits)), ((f :: r.take n).getLast?.map (·.at_)).getD 0)

/-- The head message leaves its ingress buffer, and each of its flits owes one credit (R358, R394). -/
def popMsg (p : Port) (vc : Nat) (h : Hw) : Hw :=
  match headMsg h p vc with
  | none => h
  | some (x, _, _) =>
    let n := x.dfl.toNat + 1
    let k := portKey p vc
    (h.modPorts (fun it => { it with
        ing := cPut [] it.ing k ((cGet [] it.ing k).drop n)
        owed := cPut 0 it.owed k (cGet 0 it.owed k + n) }))

/-! ### Egress -/

/-- Queue a message for egress at a port, in a VC. -/
def send (p : Port) (vc : Nat) (m : OutMsg) (h : Hw) : Hw :=
  let k := portKey p vc
  (h.modPorts (fun it => { it with eg := cPut [] it.eg k (cGet [] it.eg k ++ [m]) }))

/-- The slice's own identity in a message it sends (R362). -/
def fromSlice (h : Hw) (x : Hdr) : Hdr := { x with skind := true, src := h.rst.id.setWidth 16 }

/-- The header of a completion: SRC, ROUTE, RTAG, LABEL and ADDR of the request come back, and the TTI that its
transaction has (R361, R366). (DEDUCED, log entry 16) -/
def compHdr (h : Hw) (x : Hdr) (tti : BitVec 14) (type : BitVec 6) (code : BitVec 3) : Hdr :=
  fromSlice h { type := type, resp := code, dst := x.src, route := x.route, tti := tti, rtag := x.rtag,
                label := x.label, addr := x.addr }

/-- Count a completion by its response code (R458). -/
def respEv (code : BitVec 3) (h : Hw) : Hw := ev (0x91 + code.toNat) 1 h

end Sys2Proof.Machine
end

