-- ==== Sys2Proof/Machine/Operands.lean ====
section
/-! DEFINITION. The operand forms of the commands: how an address decodes (R53, R432, R439, R441, R442), what a label and its
group fix (R255), inbound windows (R448 to R451), fault records (R325 to R328), and the TC0 rules of R264 and R265. -/
namespace Sys2Proof.Machine

/-! ### Ways and lines -/

/-- Mode of a way: 0 CACHE, 1 PINNED, 2 QUEUE, 3 OFF (R38). -/
def wayMode (h : Hw) (w : Nat) : Nat := cGet 0 h.home.mode w

/-- A SET_MODE runs on the way. -/
def setting (h : Hw) (w : Nat) : Option SetRun := h.rst.setRun.filter (fun r => decide (r.way = w))

/-- Set of a cached line PA[51:7] (R35). -/
def setOf (ln : Nat) : Nat := ((ln % 2 ^ 14) ^^^ ((ln / 2 ^ 14) % 2 ^ 14))

/-- Tag of a cached line PA[51:7] (R35). -/
def tagOf (ln : Nat) : Nat := ln / 2 ^ 14

/-- The line PA[51:7] that a tag entry of a set names: the inverse of `setOf` and `tagOf`. -/
def lineAt (set tag : Nat) : Nat := tag * 2 ^ 14 + ((set ^^^ (tag % 2 ^ 14)) % 2 ^ 14)

/-- Bank and row of a sector of a way and set (R34). -/
def bankOf (way set : Nat) : Nat := 2 * way + set % 2

/-- Row of a sector (R34). -/
def rowOf (set sec : Nat) : Nat := 2 * (set / 2) + sec

/-! ### Home decode -/

/-- The 12-bit fold of R439. -/
def fold12 (pa : Nat) : Nat := bitsN pa 18 7 ^^^ bitsN pa 30 19 ^^^ bitsN pa 42 31 ^^^ bitsN pa 51 43

/-- LOG2SIZE of region r, held between 20 and 52 (R441). -/
def regionLog (c : Cells Word) (r : Nat) : Nat := min 52 (max 20 (cf c 6 (0x108 + 16 * r) 5 0))

/-- Region r holds the address (R441). -/
def inRegion (c : Cells Word) (pa r : Nat) : Bool :=
  let l := regionLog c r
  decide (cf c 6 (0x100 + 16 * r) 31 31 = 1) &&
    decide (pa / 2 ^ l = ((cfgGet c (rg 6 (0x104 + 16 * r))).toNat * 2 ^ 20) / 2 ^ l)

/-- The HMT entry of an address in HMT space (R439 to R441). -/
def hmtIndex (c : Cells Word) (pa : Nat) : Nat :=
  let f := fold12 pa
  match (List.range 16).find? (inRegion c pa) with
  | some r =>
    let l := min 12 (cf c 6 (0x100 + 16 * r) 3 0)
    (cf c 6 (0x100 + 16 * r) 27 16 / 2 ^ l) * 2 ^ l + f % 2 ^ l
  | none => f % 2 ^ (min 12 (cf c 6 0x4C 3 0))

/-- The home slice of an address in HMT space, or none (R439). -/
def homeOf (c : Cells Word) (pa : Nat) : Option Nat :=
  let e := cfgGet c (0x28000 + 4 * hmtIndex c pa)
  if bit e 31 then some (fld e 7 0) else none

/-- The covered words, in order: HMT, HMT_CTRL, region table (R443). -/
def coveredWords (c : Cells Word) : List Word :=
  (List.range 4096).map (fun i => cfgGet c (0x28000 + 4 * i)) ++ [cfgGet c (rg 6 0x4C)] ++
    (List.range 64).map (fun i => cfgGet c (rg 6 (0x100 + 4 * i)))

/-- The check that runs is complete once cycle C + 4,161 has ended (R444). -/
def hmtEnd (c : Cells Word) (h : Hw) : Hw :=
  match h.units.hmt with
  | some t =>
    if clkC h < t + 4162 then h else
    let v := crc32 (coveredWords c)
    let ok := v == cfgGet c (rg 6 0x40)
    let h := roPut (rg 6 0x48) v (h.modUnits (fun it => { it with hmt := none }))
    if ok then put 6 0x44 1 h else err 6 0 (put 6 0x44 2 h)
  | none => h

/-- The gate of R442 as it stands for the present CLK_C cycle: open when MATCH was set before the cycle began (R445).
A check that has ended counts, also before its result has been asked for. -/
def gateOpen (c : Cells Word) (h : Hw) : Bool :=
  let h := hmtEnd c h
  bit (roGet h (rg 6 0x44)) 0 && (wroteNow h (rg 6 0x44) == 0)

/-- Where an address leads (R53). `alias_`: 0 pinned window, 1 set alias, 2 clear alias. -/
inductive Target where
  /-- configuration space of this slice, byte offset -/
  | cfg (off : Nat)
  /-- a line of a PINNED way -/
  | pin (alias_ way set : Nat)
  /-- a way that SET_MODE turns into PINNED (R45) -/
  | retry
  /-- decode failure of R325 -/
  | bad
  /-- an invalid HMT entry or another home: decode failure that NOHOME_CNT counts -/
  | nohome
  /-- the checksum gate (R442) -/
  | gate
  /-- HMT space with this slice as home -/
  | home
deriving DecidableEq, Repr

/-- Decode of an offset in one of the three windows (R45, R53). -/
def decodeWin (h : Hw) (al o : Nat) : Target :=
  if bitsN o 32 25 ≠ h.rst.id.toNat then .bad else
  let w := bitsN o 24 21
  match setting h w with
  | some r => if r.mode = 1 then .retry else .bad
  | none => if wayMode h w = 1 then .pin al w (bitsN o 20 7) else .bad

/-- The address lies in the 8 GiB window of MAP offset `o` (R52). -/
def inWin (c : Cells Word) (o pa : Nat) : Bool :=
  decide (cf c 6 o 31 31 = 1) && decide (pa / 2 ^ 33 = cf c 6 o 18 0)

/-- The address lies in configuration space (R432). -/
def inCfg (c : Cells Word) (pa : Nat) : Bool := decide (pa / 2 ^ 26 = cf c 6 0x50 25 0)

/-- Decode of an address in the order of R53. -/
def decodePa (c : Cells Word) (h : Hw) (pa : Nat) : Target :=
  if inCfg c pa then (if bitsN pa 25 18 = h.rst.id.toNat then .cfg (pa % 2 ^ 18) else .bad)
  else if inWin c 0x60 pa then decodeWin h 0 (pa % 2 ^ 33)
  else if inWin c 0x64 pa then decodeWin h 1 (pa % 2 ^ 33)
  else if inWin c 0x68 pa then decodeWin h 2 (pa % 2 ^ 33)
  else if !gateOpen c h then .gate
  else match homeOf c pa with
    | none => .nohome
    | some s => if s = h.rst.id.toNat then .home else .nohome

/-- The line of an address that decoded to a line. -/
def lineKey (t : Target) (pa : Nat) : LineKey :=
  match t with
  | .pin _ w s => .loc w s
  | _ => .pa (pa / 128)

/-- Counters of a failed decode: NOHOME_CNT and GATE_CNT (R453). -/
def countTarget (t : Target) (h : Hw) : Hw :=
  match t with
  | .nohome => cnt 6 0x54 1 h
  | .gate => cnt 6 0x58 1 h
  | _ => h

/-! ### Labels, groups and classes -/

/-- Group of a label (R253). -/
def groupOf (c : Cells Word) (l : Label) : Nat := fld (cfgGet c (0x20000 + 4 * l.toNat)) 7 0

/-- TC of a group (R254). -/
def tcOf (c : Cells Word) (g : Nat) : Nat := cf c 16 (0x800 + 8 * g) 1 0

/-- CAP of a group, 0 acting as 16,384 (R254). -/
def capOf (c : Cells Word) (g : Nat) : Nat :=
  let n := cf c 16 (0x800 + 8 * g) 30 16
  if n = 0 then 16384 else n

/-- UNITS of a group (R254). -/
def unitsOf (c : Cells Word) (g : Nat) : Nat := cf c 16 (0x804 + 8 * g) 20 0

/-- OUT of a label: its TT entries that count against it (R253, R257). -/
def outOf (h : Hw) (l : Label) : Nat := cCount h.core.tt (fun _ e => e.req.counted && (e.req.label == l))

/-- Decoded requests that have no TT entry yet: in the admission buffer, or at decode (R24, R27). -/
def decoded (h : Hw) : List Req := h.core.adm ++ h.core.dec.map (·.2)

/-- Entries of a section of the admission buffer in use (R24). -/
def sectUse (h : Hw) (s : Sect) : Nat := (h.core.adm.filter (fun r => r.sect == s)).length

/-- The section that takes a request has room (R27). -/
def sectRoom (h : Hw) (s : Sect) : Bool :=
  match s with | .hi => decide (sectUse h .hi < 256) | .lo => decide (sectUse h .lo < 512) | .int => true

/-- The kind is that of an EVT-class message. -/
def isEvt (k : Kind) : Bool := (k == .evict) || (k == .writeBack)

/-- A request at decode waits for a place of the same section and is earlier. (DEDUCED, log entry 98) -/
def decBefore (h : Hw) (r : Req) : Bool :=
  h.core.dec.any (fun p => !(isEvt p.2.kind) && (p.2.sect == r.sect) && decide (p.2.iseq < r.iseq))

/-- TC0 units of a requester outstanding: decoded and not freed (R265). -/
def tc0Out (h : Hw) (rid : Rid) : Nat :=
  ((decoded h).filter (fun r => r.elig && (r.hdr.src == rid))).foldl (fun n r => n + r.units) 0 +
    h.core.tt.foldl (fun n p => if p.2.req.elig && (p.2.req.hdr.src == rid) then n + p.2.req.units else n) 0

/-- TC0 units outstanding in the slice. -/
def tc0OutAll (h : Hw) : Nat :=
  ((decoded h).filter (·.elig)).foldl (fun n r => n + r.units) 0 +
    h.core.tt.foldl (fun n p => if p.2.req.elig then n + p.2.req.units else n) 0

/-- The requester is among the enabled TC0 requesters (R264). -/
def tc0Rid (c : Cells Word) (rid : Rid) : Bool :=
  (List.range (min 256 (cf c 16 0x40 24 16))).any (fun i => decide (cf c 16 (0x400 + 4 * i) 15 0 = rid.toNat))

/-- The reason for which a TC0 request is demoted, the lowest-numbered one, or none (R264, R271): arrival VC, requester,
type and target, units. -/
def tc0Reason (c : Cells Word) (h : Hw) (vc : Nat) (rid : Rid) (fits : Bool) (units : Nat) : Option Nat :=
  if vc % 2 = 1 then some 1
  else if !tc0Rid c rid then some 2
  else if !fits then some 3
  else if cf c 16 0x40 3 0 < tc0Out h rid + units then some 4
  else none

/-! ### Faults -/

/-- The record of a key between HEAD and TAIL, and its index (R326). -/
def fltFind (h : Hw) (kind atype page win : Nat) : Option Nat :=
  ((List.range (fltOcc h)).map (fun i => (rf h 21 0x48 8 0 + i) % 256)).find? (fun i =>
    match cFind h.diag.recs i with
    | some r => decide (r.kind = kind) && decide (r.atype = atype) && decide (r.page = page) && decide (r.win = win)
    | none => false)

/-- A fault coalesces, takes a new record, or goes unrecorded; the answer is its record number (R326 to R328). -/
def fltPlace (f : FltHit) (h : Hw) : Hw × Nat :=
  let setr := fun (h : Hw) (i : Nat) (r : FltRec) => (h.modDiag (fun it => { it with recs := cIns it.recs i r }))
  match fltFind h f.kind f.atype f.page f.win with
  | some i =>
    match cFind h.diag.recs i with
    | some r => (setr h i { r with count := min 0xFFFF (r.count + 1), multi := r.multi || (r.rid != f.rid) }, i)
    | none => (h, i)
  | none =>
    if fltOcc h = 256 then (err 21 0 (cnt 21 0x54 1 h), 0xFFF)
    else
      let i := rf h 21 0x4C 8 0 % 256
      let h := setr h i { kind := f.kind, atype := f.atype, page := f.page, win := f.win, multi := false, count := 1,
                          label := f.label, rid := f.rid }
      (put 21 0x4C ((rf h 21 0x4C 8 0 + 1) % 512) h, i)

/-- Records taken since TAIL was `t` count their event. -/
def fltTaken (t : Nat) (h : Hw) : Hw :=
  let n := (rf h 21 0x4C 8 0 + 512 - t) % 512
  if n = 0 then h else ev 0x99 n h

/-- A fault of the request that intake takes now is placed, and kept until its CLK_P cycle ends (R326 to R329). -/
def faultRec (kind atype page win : Nat) (rid : Rid) (label : Label) (h : Hw) : Hw × Nat :=
  let tail := rf h 21 0x4C 8 0
  let d := h.diag
  let h := if d.fltCyc = now h ∧ !d.fltNow.isEmpty then h
    else h.setDiag { d with fltCyc := now h, fltNow := [], fltWas := d.recs, fltTail := tail }
  let f : FltHit := { iseq := h.core.nextSeq, kind := kind, atype := atype, page := page, win := win, rid := rid, label := label
                      num := 0 }
  let (h, n) := fltPlace f h
  (fltTaken tail (h.modDiag (fun it => { it with fltNow := it.fltNow ++ [{ f with num := n }] })), n)

/-! ### Inbound windows -/

/-- The requester matches an enabled bridge entry (R448). -/
def isBridge (c : Cells Word) (rid : Rid) : Bool :=
  (List.range 4).any (fun n =>
    let b := cfgGet c (rg 23 (0x40 + 4 * n))
    let m := b >>> 16
    bit (cfgGet c (rg 23 0x50)) n && ((rid.setWidth 32 &&& m) == (b &&& 0xFFFF &&& m)))

/-- A word of window w (R449). -/
def winWord (c : Cells Word) (w o : Nat) : Word := cfgGet c (0x2C000 + 64 * w + o)

/-- Local base of window w. -/
def winBase (c : Cells Word) (w : Nat) : Nat :=
  (winWord c w 4).toNat / 2 ^ 12 * 2 ^ 12 + (winWord c w 8).toNat * 2 ^ 32

/-- Size of window w. -/
def winSize (c : Cells Word) (w : Nat) : Nat :=
  (winWord c w 0xC).toNat / 2 ^ 12 * 2 ^ 12 + (winWord c w 0x10).toNat * 2 ^ 32

/-- What the window checks answer (R450). -/
inductive WinRes where
  /-- the translated address and the window's label -/
  | ok (pa : Nat) (label : Label)
  /-- window decode fault; with the target, where the translated address is at fault -/
  | decode (t : Option Target)
  /-- DECERR at the gate -/
  | gate
  /-- window permission fault -/
  | perm
deriving DecidableEq, Repr

/-- The permission bit that a request of this type and Atomic opcode needs in a window: 1 RD, 2 WR, 3 AT (R450). -/
def winPermBit (t op : Nat) : Option Nat :=
  if t = 0x03 then some 1
  else if t = 0x04 ∨ t = 0x05 then some 2
  else if t = 0x06 then (if op = 0x18 then some 1 else some 3)
  else none

/-- The checks of R450 in their order, for the lines of the request (offsets of their first bytes relative to ADDR's line). -/
def winCheck (c : Cells Word) (h : Hw) (x : Hdr) (span : Nat) : WinRes :=
  let w := fld x.label 9 0
  let e := winWord c w 0
  let off := x.addr.toNat
  let pa := (winBase c w + off) % 2 ^ 52
  let t := decodePa c h pa
  let inside := (List.range span).all (fun j => decide (((off / 128 + j) * 128) < winSize c w))
  if fld x.label 11 10 ≠ 0 ∨ !bit e 0 then .decode none
  else if !inside ∨ winSize c w ≤ off then .decode none
  else match t with
    | .gate => .gate
    | .cfg _ | .bad | .nohome => .decode (some t)
    | .pin .. | .retry | .home =>
      let s := winWord c w 0x14
      if ((x.src.setWidth 32 &&& (s >>> 16)) != (s &&& 0xFFFF &&& (s >>> 16))) then .perm
      else match winPermBit x.type.toNat (fld x.arg2 4 0) with
        | none => .perm
        | some b => if bit e b then .ok pa (BitVec.ofNat 12 (fld e 27 16)) else .perm

end Sys2Proof.Machine
end

