-- ==== Sys2Proof/Machine/Bank.lean ====
section
/-! DEFINITION. The banks: power (R55 to R59, R380), pending operations, the scheduler's choice (R31, R32, R60, R216, R260,
R261), charges (R258, R263), and what a completed operation reads and writes (R34, R37, R274, R278). -/
namespace Sys2Proof.Machine

/-! ### Power -/

/-- Power of bank `b`. -/
def pwr (h : Hw) (b : Nat) : Pwr := cGet Pwr.start h.arr.pwr b

/-- Store the power of a bank. -/
def setPwr (b : Nat) (p : Pwr) (h : Hw) : Hw := h.modArr (fun it => { it with pwr := cPut Pwr.start it.pwr b p })

/-- Open a handshake request, once pwr_ack is low; otherwise keep it for then (R380). -/
def pwrAsk (b : Nat) (x : PwrSt) (h : Hw) : Hw :=
  let p := pwr h b
  if p.dead then h
  else if p.req || p.ack then setPwr b { p with next := some x } h
  else setPwr b { p with st := .chg, want := x, req := true, since := now h, tmo := false, onAt := none, next := none } h

/-- The bank accepts operations; a failed bank answers them without being accessed (R339). Bank 32, the spare array, has
no power state (R285). -/
def bankUp (h : Hw) (b : Nat) : Bool := decide (b = 32) || (pwr h b).dead || ((pwr h b).st == .on)

/-! ### Rows -/

/-- No operation. -/
def Bank.idle : Bank := { pend := [], cur := none, fly := [], last := none, rot := 0, mrot := 0 }

/-- A bank's scheduler. -/
def bank (h : Hw) (b : Nat) : Bank := cGet Bank.idle h.arr.banks b

/-- Store a bank's scheduler. -/
def setBank (b : Nat) (k : Bank) (h : Hw) : Hw := h.modArr (fun it => { it with banks := cPut Bank.idle it.banks b k })

/-- Storage index of a word. (DESIGN CHOICE, log entry 3) -/
def cellKey (b row w : Nat) : Nat := ((b * 16384) + row) * 16 + w

/-- The code word stored in a row. -/
def wordAt (h : Hw) (b row w : Nat) : Code := cGet 0 h.arr.words (cellKey b row w)

/-- Store a code word. -/
def storeWord (b row w : Nat) (x : Code) (h : Hw) : Hw :=
  h.modArr (fun it => { it with words := cPut 0 it.words (cellKey b row w) x })

/-- The spare line to which the Line Remap Table sends a way and set (R286). -/
def lrtSpare (h : Hw) (way set : Nat) : Option Nat :=
  (cSeek (fun _ e => decide (e.1 = way) && decide (e.2.1 = set)) h.prot.lrt).map (fun p => p.2.2.2)

/-- Bank and row that serve a sector of a way and set, spare lines included (R34, R286). -/
def place (h : Hw) (way set sec : Nat) : Nat × Nat :=
  match lrtSpare h way set with
  | some n => (32, 2 * n + sec)
  | none => (bankOf way set, rowOf set sec)

/-! ### Pending operations -/

/-- A bank operation becomes pending; a bank in retention is woken (R57). -/
def enqOp (op : BankOp) (h : Hw) : Hw :=
  let k := bank h op.bank
  let h := setBank op.bank { k with pend := k.pend ++ [op] } h
  if op.bank < 32 ∧ (pwr h op.bank).st = .ret then ev 0x5F 1 (pwrAsk op.bank .on h) else h

/-- Sectors of a mask, the sector of ADDR first (R36). -/
def secList (secs first : Nat) : List Nat :=
  ((if first = 1 then [1, 0] else [0, 1]) : List Nat).filter (fun s => bitN secs s)

/-- A read or write of the sectors `secs` of a way and set. -/
def lineOp (h : Hw) (own : Own) (who : Who) (m : Option Master) (line : LineKey) (way set : Nat) (secs : List Nat)
    (write : Bool) (data : List (Nat × Code)) (li : Nat) (raw lin : Bool) : BankOp :=
  { own := own, who := who, master := m, line := line, way := way, set := set,
    bank := (place h way set 0).1, rows := secs.map (fun s => (s, (place h way set s).2)), done := [],
    write := write, data := data, li := li, raw := raw, lin := lin }

/-! ### Windows and levels -/

/-- LOG2W of QOS.WINDOW, held between 8 and 16 (R271). -/
def windowLog (c : Cells Word) : Nat := min 16 (max 8 (cf c 16 0x44 4 0))

/-- A regulation window that has started since the last look is taken: every charge is zero. A new LOG2W is in force from the next
boundary of the new length; until then the old windows go on (R259). (DEDUCED, log entry 64) -/
def windowStart (c : Cells Word) (h : Hw) : Hw :=
  let q := h.qos
  let new := windowLog c
  let q' := { q with charge := [], mchg := [], dem := [], boundary := now h }
  if q.boundary < now h / 2 ^ new * 2 ^ new then h.setQos { q' with log2w := new }
  else if q.boundary < now h / 2 ^ q.log2w * 2 ^ q.log2w then h.setQos q'
  else h

/-- What a write of LOG2W leaves of the windows: those of the present length are taken up to now, and boundaries of the new one count
from now (R259). -/
def windowMark (c : Cells Word) (h : Hw) : Hw := (windowStart c h).modQos (fun q => { q with boundary := now h })

/-- UNITS of a group as levels see them: a write applies from the next CLK_M cycle (R262). -/
def unitsSeen (c : Cells Word) (h : Hw) (g : Nat) : Nat :=
  if h.qos.ucyc = clkM h then (cFind h.qos.uold g).getD (unitsOf c g) else unitsOf c g

/-- UNITS of a group are about to be written: this CLK_M cycle keeps the value it began with (R262). -/
def unitsKeep (c : Cells Word) (g : Nat) (h : Hw) : Hw :=
  h.modQos (fun q => { q with
    ucyc := clkM h
    uold := cIns (if q.ucyc = clkM h then q.uold else []) g (unitsSeen c h g) })

/-- CLR_COUNTERS was taken in this CLK_C cycle: what would be counted is cleared with the rest (R270).
(DEDUCED, log entry 115) -/
def qosCleared (h : Hw) : Bool := h.qos.clr == some (clkC h)

/-- The charge of a group as levels see it in this CLK_M cycle (R260). -/
def chargeSeen (h : Hw) (g : Nat) : Nat :=
  cGet 0 h.qos.charge g - (if h.qos.mcyc = clkM h then cGet 0 h.qos.mchg g else 0)

/-- Level of a demand operation (R260). -/
def levelOf (c : Cells Word) (h : Hw) (w : Who) : Nat :=
  if w.low then 0 else if w.tc = 0 then 4
  else if chargeSeen h w.group < unitsSeen c h w.group then 4 - w.tc else 0

/-- For whom a TT entry's bank operations run. -/
def whoOf (r : Req) : Who :=
  { iseq := r.iseq, label := r.label, group := r.group, tc := r.tc, low := r.demoted,
    charge := match r.kind with | .repair | .chkWrite | .chkRead | .lrtMap | .lrtUnmap => false | _ => true }

/-- Demand entries that wait behind an entry on one of these lines (R216). -/
def behind (h : Hw) (e : Ent) (l : List LineKey) : List Ent :=
  (h.core.tt.map (·.2)).filter (fun x =>
    !x.active && x.req.eng.isNone && x.req.port.isSome && decide (e.arr < x.arr) && x.req.lines.any (fun k => l.contains k))

/-- Demand entries that wait behind the entry `own` serves: on the operation's line, or, where it writes back a victim, behind the
entry whose fill waits for that (R216). -/
def waiters (h : Hw) (op : BankOp) : List Ent :=
  match op.own with
  | .tt i =>
    match cFind h.core.tt i with
    | some e => behind h e [op.line] ++
        (h.core.tt.filter (fun p => p.2.todo.contains (.vic i))).flatMap (fun p => behind h p.2 p.2.req.lines)
    | none => []
  | _ => []

/-- An eligible TC0 write waits for Jig entries (R267). -/
def tc0Jig (h : Hw) : Bool :=
  h.core.tt.any (fun p => p.2.req.elig && p.2.busy && (p.2.todo.head? == some .jig))

/-- Rank of a demand operation, least first: level, at level 0 the rotation, then intake order (R32, R261). -/
def rankOf (rot : Nat) (lv g iseq : Nat) : Nat :=
  (4 - lv) * 2 ^ 80 + (if lv = 0 then ((g + 256 - rot) % 256) * 2 ^ 64 else 0) + iseq

/-- Level and rotation group of an operation as demand, or none for a bus-master operation; of several waiters behind one the highest
in rank counts, the rotation being at `rot` (R32, R216, R261, R267). -/
def demandOf (c : Cells Word) (h : Hw) (rot : Nat) (op : BankOp) : Option (Nat × Nat) :=
  match op.master with
  | none =>
    match op.own with
    | .jig _ => some (if tc0Jig h then 4 else levelOf c h op.who, op.who.group)
    | _ => some (levelOf c h op.who, op.who.group)
  | some _ =>
    (leastBy (fun x => rankOf rot x.1 x.2 0) ((waiters h op).map (fun x => (levelOf c h (whoOf x.req), x.req.group))))

/-- Place of an engine in the rotation of R60. (DESIGN CHOICE, log entry 102) -/
def masterNo (m : Master) : Nat :=
  match m with | .galop => 0 | .reel => 1 | .scrub => 2 | .march => 3 | .repair => 4

/-- The operation that a bank grants next, with its level and group as demand (R32, R60). `ok` says which operations may
issue now. -/
def chooseOp (c : Cells Word) (h : Hw) (b : Nat) (ok : BankOp → Bool) : Option (BankOp × Option (Nat × Nat)) :=
  let k := bank h b
  let l := (k.pend.filter ok).map (fun op => (op, demandOf c h k.rot op))
  let dem := l.filter (fun x => x.2.isSome)
  match leastBy (fun x => match x.2 with | some (lv, g) => rankOf k.rot lv g x.1.who.iseq | none => 0) dem with
  | some x => some x
  | none => leastBy (fun x => ((match x.1.master with | some m => masterNo m | none => 0) + 5 - k.mrot) % 5 * 2 ^ 64
      + x.1.who.iseq) l

/-- One unit charged to a group, its class and its label's block (R258, R260, R263, R270). (DEDUCED, log entry 115) -/
def chargeUnit (c : Cells Word) (w : Who) (h : Hw) : Hw :=
  if !w.charge then h else
  let q := h.qos
  let old := cGet 0 q.charge w.group
  let m := if q.mcyc = clkM h then q.mchg else []
  let add := if qosCleared h then 0 else 1
  let h := h.setQos { q with
    charge := cPut 0 q.charge w.group (old + 1)
    mcyc := clkM h
    mchg := cPut 0 m w.group (cGet 0 m w.group + 1)
    tcBytes := cPut 0 q.tcBytes w.tc (cGet 0 q.tcBytes w.tc + BitVec.ofNat 64 (64 * add))
    blkBytes := cPut 0 q.blkBytes (w.label.toNat / 64) (cGet 0 q.blkBytes (w.label.toNat / 64) + BitVec.ofNat 64 (64 * add)) }
  if old + 1 = unitsSeen c h w.group ∧ tcOf c w.group ≠ 0 ∧ ¬ (w.group ∈ h.qos.dem) then
    ev 0x66 1 (cntW 16 0x54 add (h.modQos (fun it => { it with dem := it.dem ++ [w.group] })))
  else h

/-- One row of the operation under way issues in this CLK_M cycle. -/
def issueRow (c : Cells Word) (b : Nat) (op : BankOp) (dem : Option Nat) (h : Hw) : Hw :=
  match op.rows with
  | [] => h
  | r :: rs =>
    let op := { op with rows := rs, done := op.done ++ [r] }
    let k := bank h b
    let k := { k with last := some (clkM h) }
    let k := if rs.isEmpty then { k with cur := none, fly := k.fly ++ [op] } else { k with cur := some op }
    let h := chargeUnit c op.who (setBank b k h)
    let h := if b < 32 then setPwr b { pwr h b with last := now h } h else h
    match dem with
    | some lv => ev (0x61 + lv) 1 (ev 0x5A 1 h)
    | none => ev 0x5B 1 h

/-- The scheduler starts an operation: it leaves the pending list, moves the pointers of R60 and R261, and its first row
issues. -/
def startOp (c : Cells Word) (b : Nat) (op : BankOp) (dem : Option (Nat × Nat)) (h : Hw) : Hw :=
  let k := bank h b
  let k := { k with pend := dropFirst (fun x => x == op) k.pend }
  let k := match dem with
    | some (0, g) => { k with rot := (g + 1) % 256 }
    | some _ => k
    | none => { k with mrot := match op.master with | some m => (masterNo m + 1) % 5 | none => k.mrot }
  issueRow c b op (dem.map (·.1)) (setBank b k h)

/-! ### Results -/

/-- Words that a completed read delivers: line word, class, word; in a failed bank every word is poisoned (R339). -/
def readWords (h : Hw) (op : BankOp) (upsets : List (Nat × Code)) : List (Nat × EccCls × PWord) :=
  op.done.flatMap (fun sr => (List.range 16).map (fun w =>
    let n := 16 * sr.1 + w
    if op.bank < 32 ∧ (pwr h op.bank).dead then (n, .mark, PWord.poisoned)
    else
      let x := wordAt h op.bank sr.2 w ^^^ ((upsets.find? (fun u => u.1 = n)).map (·.2)).getD 0
      (n, eccDec x)))

/-- The words of a completed write enter the array; a failed bank takes none (R37, R339). -/
def writeWords (op : BankOp) (h : Hw) : Hw :=
  if op.bank < 32 ∧ (pwr h op.bank).dead then h else
  op.data.foldl (fun h d =>
    match op.done.find? (fun sr => sr.1 = d.1 / 16) with
    | some sr => storeWord op.bank sr.2 (d.1 % 16) d.2 h
    | none => h) h

/-- Correctable and uncorrectable words of a read are counted (R278). -/
def countErrs (l : List (Nat × EccCls × PWord)) (h : Hw) : Hw :=
  let ce := (l.filter (fun x => x.2.1 == .corr)).length
  let ue := (l.filter (fun x => x.2.1 == .unc)).length
  let h := ev 0x8C ue (ev 0x8B ce (cnt 17 0x80 ue (cnt 17 0x7C ce h)))
  if ue = 0 then h else err 17 1 h

/-- Words in error of a read: word and 1 for correctable, 2 for uncorrectable. -/
def errWords (l : List (Nat × EccCls × PWord)) : List (Nat × Nat) :=
  l.filterMap (fun x => match x.2.1 with | .corr => some (x.1, 1) | .unc => some (x.1, 2) | _ => none)

/-- The way and set that a bank row belongs to; for a spare row, those of the entry that uses it. -/
def rowPlace (h : Hw) (b row : Nat) : Option (Nat × Nat) :=
  if b < 32 then some (b / 2, 2 * (row / 2) + b % 2)
  else (cSeek (fun _ e => decide (e.2.2 = row / 2)) h.prot.lrt).map (fun p => (p.2.1, p.2.2.1))

/-- A read asks for a classifying retry of its row (R281). -/
def retryReq (b row : Nat) (words : List (Nat × Nat)) (rid : Rid) (h : Hw) : Hw :=
  if words.isEmpty then h else
  match h.prot.retry.find? (fun r => decide (r.bank = b) && decide (r.row = row)) with
  | some _ =>
    h.modProt (fun it => { it with retry := it.retry.map (fun r =>
        if r.bank = b ∧ r.row = row then
          { r with words := r.words ++ words.filter (fun w => !(r.words.any (fun v => v.1 = w.1))) } else r) })
  | none =>
    if h.prot.retry.length < 16 then
      ev 0x8D 1 (h.modProt (fun it => { it with
        retry := it.retry ++ [{ bank := b, row := row, words := words, rid := rid, scrub := false }] }))
    else
      let h := err 17 5 (cnt 17 0x90 1 h)
      match rowPlace h b row with
      | some (w, s) => report 3 true (placeSrc w s) 0 (BitVec.ofNat 32 (maskOf (words.map (·.1)))) rid h
      | none => h

/-- Retry requests of a completed read, one for each row with an error. -/
def retryOp (op : BankOp) (l : List (Nat × EccCls × PWord)) (rid : Rid) (h : Hw) : Hw :=
  op.done.foldl (fun h sr =>
    retryReq op.bank sr.2 ((errWords l).filter (fun w => w.1 / 16 = sr.1)) rid h) h

end Sys2Proof.Machine
end

