-- ==== Sys2Proof/Machine/HomeArr.lean ====
section
/-! DEFINITION. The tag array, the snoop filter and the pools of the transaction table: lookups with their error handling
(R279, R280, R82), fences (R98), replacement (R48 to R50), snoop-filter entries (R78, R79, R81), and entries that the slice
itself creates (R26). -/
namespace Sys2Proof.Machine

/-! ### Pseudo-LRU trees (R49, R50) -/

/-- The path to leaf `n`, root first: node and the side taken. -/
def plruPath (n : Nat) : List (Nat × Bool) :=
  [(1, bitN n 3), (2 + n / 8, bitN n 2), (4 + n / 4, bitN n 1), (8 + n / 2, bitN n 0)]

/-- Point the bits on the path to leaf `n` away from it, or towards it. -/
def plruTouch (b : BitVec 16) (n : Nat) (away : Bool) : BitVec 16 :=
  (plruPath n).foldl (fun b p => setBit b p.1 (p.2 != away)) b

/-- Some leaf under node `k` at depth `d` (16 / 2^d leaves) is in the mask. -/
def underNode (mask k d : Nat) : Bool :=
  let n := 16 / 2 ^ d
  (List.range n).any (fun j => bitN mask ((k * n + j) % 16))

/-- The walk of R49 from node `k` at depth `d`. (DEDUCED, log entry 7) -/
def plruWalk (b : BitVec 16) (mask : Nat) : Nat → Nat → Nat → Nat
  | 0, k, _ => k % 16
  | f + 1, k, d =>
    let go := b2n (bit b k)
    let go := if underNode mask (2 * k + go) (d + 1) then go else 1 - go
    plruWalk b mask f (2 * k + go) (d + 1)

/-- The victim among the eligible leaves: the lowest one not valid, else the leaf to which the tree leads (R49). -/
def victimOf (b : BitVec 16) (eligible valid : Nat) : Option Nat :=
  if eligible % 2 ^ 16 = 0 then none
  else match (List.range 16).find? (fun n => bitN eligible n && !bitN valid n) with
    | some n => some n
    | none => some (plruWalk b eligible 4 1 0)

/-! ### Tags -/

/-- An entry that holds nothing. -/
def Tag.none_ : Tag := { tag := 0, valid := false, d0 := false, d1 := false, pre := false, err := 0 }

/-- Tag entry of a set and way. -/
def tagAt (h : Hw) (set way : Nat) : Tag := cGet Tag.none_ h.home.tags (16 * set + way)

/-- Store a tag entry. -/
def setTag (set way : Nat) (t : Tag) (h : Hw) : Hw :=
  h.modHome (fun it => { it with tags := cPut Tag.none_ it.tags (16 * set + way) t })

/-- Invalidate a tag entry. -/
def dropTag (set way : Nat) (h : Hw) : Hw := setTag set way Tag.none_ h

/-- The CACHE way that holds a line. -/
def wayOf (h : Hw) (ln : Nat) : Option Nat :=
  (List.range 16).find? (fun w => decide (wayMode h w = 0) &&
    (let t := tagAt h (setOf ln) w; t.valid && decide (t.tag = tagOf ln)))

/-- A way is being left by SET_MODE from CACHE: a hit invalidates its line (R44 step 1). -/
def leaving (h : Hw) (w : Nat) : Bool := match setting h w with | some r => decide (r.old = 0) && !r.auto | none => false

/-- Errors of the tag entries of a set, as a lookup finds them (R279, R280): an injection first, then each entry read. -/
def tagErrs (ln : Nat) (rid : Rid) (h : Hw) : Hw :=
  let s := setOf ln
  let h := match (List.range 16).find? (fun w => decide (wayMode h w = 0)) with
    | some w => if h.prot.injTag = 0 then h else
        ((setTag s w { tagAt h s w with err := h.prot.injTag } h).setProt { h.prot with injTag := 0 })
    | none => h
  (List.range 16).foldl (fun h w =>
    let t := tagAt h s w
    if wayMode h w ≠ 0 ∨ t.err = 0 then h
    else if t.err = 1 then cnt 17 0x84 1 (setTag s w { t with err := 0 } h)
    else report 6 true (placeSrc w s) 0 0 rid (err 17 4 (dropTag s w h))) h

/-- Any TT entry, ALB entry or Jig entry holds the line (R48). -/
def lineHeld (h : Hw) (k : LineKey) : Bool :=
  h.core.tt.any (fun p => p.2.req.lines.contains k) || h.near.alb.any (fun p => p.2.line == k) ||
    h.near.jig.any (fun p => p.2.line == k)

/-- A way takes fills at all: CACHE, unlocked, no SET_MODE on it (R48), not under an automatic disable (R293) and not the
way of a running PRELOAD_LOCK (R125). -/
def wayFills (h : Hw) (w : Nat) : Bool :=
  decide (wayMode h w = 0) && !(h.home.locked.contains w) && (setting h w).isNone &&
    (match h.prot.dis with | some (v, s) => !(decide (v = w) && (s != .wait)) | none => true) &&
    (match h.units.mnt with | some (code, v, _) => !(decide (code = 7) && decide (v = w)) | none => true)

/-- The eligible ways of a set (R48). -/
def eligible (h : Hw) (set : Nat) : Nat :=
  maskOf ((List.range 16).filter (fun w => wayFills h w &&
    (let t := tagAt h set w; !t.valid || !(lineHeld h (.pa (lineAt set t.tag))))))

/-- The ways of a set that hold a valid line. -/
def validWays (h : Hw) (set : Nat) : Nat := maskOf ((List.range 16).filter (fun w => (tagAt h set w).valid))

/-- Update the pseudo-LRU bits of a set (R50). -/
def touchSet (set way : Nat) (away : Bool) (h : Hw) : Hw :=
  h.modHome (fun it => { it with plru := cPut 0 it.plru set (plruTouch (cGet 0 it.plru set) way away) })

/-! ### Pools and entries (R26) -/

/-- Entries of a pool in use. -/
def poolUse (h : Hw) (p : Pool) : Nat := cCount h.core.tt (fun _ e => e.pool == p)

/-- Entries of a pool (R26). -/
def poolCap (p : Pool) : Nat := match p with | .tc0 => 256 | .dep => 1024 | .gen => 15104

/-- The pool from which work takes an entry: a general one first; eligible TC0 requests then the TC0 reserve, dependent
work then its own reserve (R26). -/
def pickPool (h : Hw) (tc0 dep : Bool) : Option Pool :=
  if poolUse h .gen < poolCap .gen then some .gen
  else if tc0 && decide (poolUse h .tc0 < poolCap .tc0) then some .tc0
  else if dep && decide (poolUse h .dep < poolCap .dep) then some .dep
  else none

/-- The events of an entry taken (R458). -/
def poolEv (p : Pool) (h : Hw) : Hw := match p with | .tc0 => ev 0x3A 1 h | .dep => ev 0x39 1 h | .gen => h

/-- Put a new entry at a free index, with the next arrival number (R19). -/
def newEnt (i : Nat) (e : Ent) (h : Hw) : Hw :=
  poolEv e.pool (h.modCore (fun it => { it with
    tt := cIns it.tt i { e with arr := it.nextArr }, nextArr := it.nextArr + 1 }))

/-- A free TT index for an entry that the slice creates within another step: any free one, drawn freely. -/
def freeIdx (h : Hw) : Option Nat := cFreeFrom h.core.tt 16384 (Config.ttPick h.free)

/-- Advance the counter of free values. (DESIGN CHOICE, log entry 1) -/
def drew (h : Hw) : Hw := h.setFree (h.free + 1)

/-- The engine on whose behalf a request runs, for R60 and R215. -/
def masterOf (r : Req) : Option Master :=
  match r.kind with
  | .repair | .chkWrite | .chkRead | .lrtMap | .lrtUnmap => some .repair
  | _ => match r.eng with | some (.glp ..) => some .galop | some (.reel ..) => some .reel | none => none

/-- Create a victim write-back of the line in a set and way, on behalf of `r` (R51); its index.
(DEDUCED, log entry 55) -/
def newVictim (r : Req) (set way : Nat) (h : Hw) : Option (Nat × Hw) :=
  match pickPool h false true, freeIdx h with
  | some p, some i =>
    let t := tagAt h set way
    let ln := lineAt set t.tag
    let secs := b2n t.d0 + 2 * b2n t.d1
    let req : Req := { r with kind := .victimWb, port := none, pay := [], lines := [.pa ln], elig := false, units := 0,
                              counted := false, par := way }
    let e : Ent := { req := req, pool := p, arr := 0, active := true, busy := true,
                     todo := [.rd way set 3 0, .xwr (ln * 128) secs 0, .commit, .free] }
    let op := lineOp h (.tt i) (whoOf req) (masterOf req) (.pa ln) way set [0, 1] false [] 0 false false
    some (i, enqOp op (ev 0x46 1 (drew (newEnt i e h))))
  | _, _ => none

/-- What a choice of a way for a line gives: no way (R51), a way with the write-back its old line needs, or not yet. -/
inductive Alloc where
  | none
  | way (w : Nat) (vic : Option Nat)
  | notYet
deriving DecidableEq, Repr

/-- Choose a way for a cached line, evict what it holds, and install the tag with these dirty bits (R48 to R51). -/
def allocLine (r : Req) (ln : Nat) (dirty : Bool) (h : Hw) : Alloc × Hw :=
  let s := setOf ln
  match victimOf (cGet 0 h.home.plru s) (eligible h s) (validWays h s) with
  | none => (.none, ev 0x47 1 h)
  | some w =>
    let t := tagAt h s w
    let tag : Tag := { tag := tagOf ln, valid := true, d0 := dirty, d1 := dirty, pre := false, err := 0 }
    if t.valid && (t.d0 || t.d1) then
      match newVictim r s w h with
      | some (i, h) => (.way w (some i), ev 0x45 1 (setTag s w tag h))
      | none => (.notYet, h)
    else (.way w none, ev 0x45 1 (setTag s w tag h))

/-- The pseudo-LRU update of a fill: demand requests only; a streaming hint places the line at the LRU end (R50). A Reel
spill fills as with the hint. -/
def fillTouch (r : Req) (ln way : Nat) (h : Hw) : Hw :=
  match r.kind, r.eng with
  | .repair, _ | .preload, _ => h
  | _, some (.glp ..) => h
  | _, some (.reel ..) => touchSet (setOf ln) way false h
  | _, none => touchSet (setOf ln) way (!r.hdr.strm) h

/-! ### The snoop filter -/

/-- A free entry. -/
def SfEnt.free_ : SfEnt :=
  { tag := 0, dir := .di, coarse := false, ptr := 0, shr := [], grp := 0, rsv := false, errP := 0, errT := 0 }

/-- Entry `n` of a set. -/
def sfAt (h : Hw) (set n : Nat) : SfEnt := cGet SfEnt.free_ h.home.sf (16 * set + n)

/-- Store an entry. -/
def setSf (set n : Nat) (e : SfEnt) (h : Hw) : Hw :=
  h.modHome (fun it => { it with sf := cPut SfEnt.free_ it.sf (16 * set + n) e })

/-- A CAI is fenced (R95). -/
def fenced (h : Hw) (x : BitVec 12) : Bool := h.home.fenced.contains x

/-- CAIs below COH.CAI_LIMIT. -/
def caiOk (c : Cells Word) (x : BitVec 12) : Bool := decide (x.toNat < cf c 8 0x58 12 0)

/-- No copy is recorded beside the pointer. -/
def SfEnt.noShare (e : SfEnt) : Bool := if e.coarse then e.grp == 0 else e.shr.isEmpty

/-- An entry without any copy is free; a DSF without its forwarder is DS (R88, R98). -/
def SfEnt.norm (e : SfEnt) : SfEnt :=
  match e.dir with
  | .ds => if e.noShare then SfEnt.free_ else e
  | .di => if e.rsv then e else SfEnt.free_
  | _ => e

/-- Add a sharer: three precise pointers, the fourth changes the format (R79). -/
def SfEnt.addShr (e : SfEnt) (x : BitVec 12) : SfEnt :=
  let g := fun (v : BitVec 64) (y : BitVec 12) => setBit v (y.toNat / 64) true
  if e.coarse then { e with grp := g e.grp x }
  else if e.shr.contains x then e
  else if e.shr.length < 3 then { e with shr := e.shr ++ [x] }
  else { e with coarse := true, shr := [], grp := (e.shr ++ [x]).foldl g 0 }

/-- Remove an agent as forwarder, owner or precise sharer; a coarse bit stays (R79, R88). -/
def SfEnt.remove (e : SfEnt) (x : BitVec 12) : SfEnt :=
  let e := if e.coarse then e else { e with shr := e.shr.filter (· != x) }
  match e.dir with
  | .doo => if e.ptr = x then SfEnt.free_ else e
  | .dsf => if e.ptr = x then ({ e with dir := .ds, ptr := 0 }).norm else e
  | _ => e.norm

/-- Remove every fenced CAI that an entry records, or only the one named; the owner lost, if it was one (R98, R99). -/
def SfEnt.unfence (c : Cells Word) (h : Hw) (e : SfEnt) (only : Option (BitVec 12) := none) :
    SfEnt × Option (BitVec 12) :=
  let out := fun (x : BitVec 12) => fenced h x && (only.isNone || (only == some x))
  let lost := if e.dir = .doo ∧ out e.ptr then some e.ptr else none
  let e := if e.dir = .di then e else (e.shr.filter out).foldl (fun a x => SfEnt.remove a x) e
  let e := if (e.dir = .dsf ∨ e.dir = .doo) ∧ out e.ptr then e.remove e.ptr else e
  let e := if e.coarse ∧ e.dir ≠ .di then
      ({ e with grp := BitVec.ofNat 64 (maskOf ((bitsOf e.grp.toNat 64).filter (fun g =>
          (match only with | some x => decide (x.toNat / 64 ≠ g) | none => false) ||
          (List.range 64).any (fun j =>
            let x : BitVec 12 := BitVec.ofNat 12 (64 * g + j)
            caiOk c x && !(fenced h x))))) } : SfEnt).norm
    else e
  (e, lost)

/-- A line poisoned because of a fence: counted, flagged and logged with the CAI (R98). -/
def fenceLoss (ln : Nat) (x : BitVec 12) (h : Hw) : Hw :=
  report 8 false ln 0 0xFFFFFFFF (x.setWidth 16) (err 8 2 (cnt 8 0x68 1 h))

/-- The active entry on a line. -/
def activeEnt (h : Hw) (k : LineKey) : Option (Nat × Ent) :=
  cSeek (fun _ e => e.active && e.req.lines.contains k) h.core.tt

/-- The active transaction on a line has snooped the agent: what becomes of its copy is that transaction's to settle.
(DEDUCED, log entry 46) -/
def snooped (h : Hw) (ln : Nat) (x : BitVec 12) : Bool :=
  match activeEnt h (.pa ln) with | some (_, t) => t.snp.any (fun s => s.cai == x) | none => false

/-- The entry of a line, by place in its set. -/
def sfFind (h : Hw) (ln : Nat) : Option (Nat × SfEnt) :=
  ((List.range 16).map (fun n => (n, sfAt h (setOf ln) n))).find? (fun p =>
    !p.2.rsv && (p.2.dir != .di) && decide (p.2.tag = tagOf ln))

/-- The entry reserved for a line (R81 rule 6). -/
def sfRsv (h : Hw) (ln : Nat) : Option Nat :=
  (List.range 16).find? (fun n => (sfAt h (setOf ln) n).rsv && decide ((sfAt h (setOf ln) n).tag = tagOf ln))

/-- Errors of the snoop-filter entries of a set, as whoever reads the set finds them (R82): what can be corrected is, and an entry
whose tag is lost is freed. -/
def sfFix (s : Nat) (rid : Rid) (h : Hw) : Hw :=
  (List.range 16).foldl (fun h n =>
    let e := sfAt h s n
    if 2 ≤ e.errT then report 6 true (placeSrc n s) 1 0 rid (setSf s n SfEnt.free_ h)
    else if e.errT = 1 ∨ e.errP = 1 then setSf s n { e with errT := 0, errP := if e.errP = 1 then 0 else e.errP } h
    else if e.dir = .di ∧ e.errP ≠ 0 then setSf s n { e with errP := 0 } h
    else h) h

/-- A lookup of a cached address reads its set of the snoop filter: an injection acts first (R82, R280). -/
def sfRead (ln : Nat) (rid : Rid) (h : Hw) : Hw :=
  let s := setOf ln
  let h := if h.prot.injSf = 0 then h else
    ((setSf s 0 { sfAt h s 0 with errP := h.prot.injSf } h).setProt { h.prot with injSf := 0 })
  sfFix s rid (h.modHome (fun it => { it with sfCyc := some (now h) }))

/-- Errors of the snoop-filter entries of a line's set, with the question whether the payload of the line's own entry is lost, which
frees it (R82). -/
def sfErrs (ln : Nat) (rid : Rid) (h : Hw) : Hw × Bool :=
  let s := setOf ln
  let h := sfRead ln rid h
  match (List.range 16).find? (fun n =>
      let e := sfAt h s n
      decide (2 ≤ e.errP) && !e.rsv && decide (e.tag = tagOf ln) && (e.dir != .di)) with
  | some n => (setSf s n SfEnt.free_ h, true)
  | none => (h, false)

/-- What a lookup of the snoop filter finds for a line: its entry after the removals of R98, the owner that a fence lost,
and whether the payload was lost, so that any agent may hold the line (R82). -/
structure SfLook where
  ent : Option SfEnt
  lost : Option (BitVec 12)
  all : Bool

/-- Look a line up in the snoop filter; `touch` for the request types of R78. -/
def sfLook (c : Cells Word) (ln : Nat) (rid : Rid) (touch : Bool) (h : Hw) : SfLook × Hw :=
  let (h, all) := sfErrs ln rid h
  match sfFind h ln with
  | none => ({ ent := none, lost := none, all := all }, h)
  | some (n, e) =>
    let (e', out) := e.unfence c h
    let lost := out.filter (fun x => !(snooped h ln x))
    let h := setSf (setOf ln) n e' h
    let h := match lost with | some x => fenceLoss ln x h | none => h
    let h := if touch then
        let b := plruTouch (cGet 0 h.home.sfPlru (setOf ln)) n true
        (h.modHome (fun it => { it with sfPlru := cPut 0 it.sfPlru (setOf ln) b })) else h
    ({ ent := if e'.dir = .di then none else some e', lost := lost, all := all }, h)

/-- Change the entry of a line, if it has one. -/
def sfChange (ln : Nat) (f : SfEnt → SfEnt) (h : Hw) : Hw :=
  match sfFind h ln with
  | some (n, e) => setSf (setOf ln) n (f e).norm h
  | none => h

/-- The CAIs that an entry's sharer field names and that a flow snoops (R80, R84). -/
def sharersOf (c : Cells Word) (h : Hw) (e : SfEnt) (requester : Option (BitVec 12)) : List (BitVec 12) :=
  (if e.coarse then
    (bitsOf e.grp.toNat 64).flatMap (fun g => ((List.range 64).map (fun j => BitVec.ofNat 12 (64 * g + j))).filter (caiOk c))
  else e.shr).filter (fun x => !(fenced h x) && (some x != requester))

/-- Every CAI below COH.CAI_LIMIT that is not fenced (R82, R338). -/
def everyCai (c : Cells Word) (h : Hw) : List (BitVec 12) :=
  ((List.range (cf c 8 0x58 12 0)).map (BitVec.ofNat 12)).filter (fun x => !(fenced h x))

/-- Take the chosen snoop-filter entry for a line: reserved, and reading as DI until the completion (R81 rule 6). -/
def sfReserve (ln n : Nat) (h : Hw) : Hw :=
  let s := setOf ln
  let h := setSf s n { SfEnt.free_ with tag := tagOf ln, rsv := true } h
  ev 0x51 1 (h.modHome (fun it => { it with sfPlru := cPut 0 it.sfPlru s (plruTouch (cGet 0 it.sfPlru s) n true) }))

/-- The entry of a line has changed. Where it is free now and a ReadShared or ReadOwn that found it has yet to complete, that request's
line has no entry, and it allocates the lowest-numbered free one (R81). (DEDUCED, log entry 105) -/
def sfKeep (ln : Nat) (h : Hw) : Hw :=
  match activeEnt h (.pa ln) with
  | some (_, t) =>
    if ((t.req.kind == .readShared) || (t.req.kind == .readOwn)) && !(t.todo.contains .lookup) && !(t.todo.contains .sf) &&
        decide (t.code = 0) && h.core.owing.any (fun o => decide (o.1 = t.req.iseq)) &&
        (sfFind h ln).isNone && (sfRsv h ln).isNone then
      match (List.range 16).find? (fun n => sfAt h (setOf ln) n == SfEnt.free_) with
      | some n => sfReserve ln n h
      | none => h
    else h
  | none => h

end Sys2Proof.Machine
end

