-- ==== Sys2Proof/Machine/Ops.lean ====
section
/-! DEFINITION. The shared operations on transaction-table entries: reading and changing an entry, where a line lies, the
stamps of a sample (R469), snoops (R73, R76, R80), XP requests (R30, R374), completions (R16, R366), the directory update of
R90, and freeing an entry (R89, R471). -/
namespace Sys2Proof.Machine

/-! ### Entries -/

/-- Entry `i` of the transaction table. -/
def ent (h : Hw) (i : Nat) : Option Ent := cFind h.core.tt i

/-- Change entry `i`. -/
def updEnt (i : Nat) (f : Ent → Ent) (h : Hw) : Hw := h.modCore (fun it => { it with tt := cUpd it.tt i f })

/-- Replace what entry `i` does next. -/
def setTodo (i : Nat) (l : List Act) (h : Hw) : Hw := updEnt i (fun e => { e with todo := l, busy := false }) h

/-- The head of entry `i` is done. -/
def popAct (i : Nat) (h : Hw) : Hw := updEnt i (fun e => { e with todo := e.todo.drop 1, busy := false }) h

/-- The head of entry `i` is replaced by these acts. -/
def expand (i : Nat) (l : List Act) (h : Hw) : Hw :=
  updEnt i (fun e => { e with todo := l ++ e.todo.drop 1, busy := false }) h

/-- The head of entry `i` has been started and waits. -/
def setBusy (i : Nat) (h : Hw) : Hw := updEnt i (fun e => { e with busy := true }) h

/-- Word `w` of line `li` in an entry's buffer, as its code gives it: an uncorrectable one is poisoned (R91, R334). -/
def bufWord (e : Ent) (li w : Nat) : PWord := (eccDec (cGet 0 e.buf (32 * li + w))).2

/-- Store a word in an entry's buffer, under the code of R273 (R334). -/
def putBuf (e : Ent) (li w : Nat) (x : PWord) : Ent := { e with buf := cPut 0 e.buf (32 * li + w) (pwEnc x) }

/-- Every copy of an entry's identity and progress is without error (R334). -/
def ttClean (e : Ent) : Bool := decide (e.err1 = 0 ∧ e.err2 = 0 ∧ e.perr1 = 0 ∧ e.perr2 = 0)

/-- Both copies of an entry's identity, or of its progress, have been found uncorrectable (R338). -/
def ttLost (e : Ent) : Bool := decide (e.err1 = 3)

/-- What reading entry `i` finds in its four copies: a correctable one is rewritten corrected, an uncorrectable one from the other copy
of its pair, and with both of a pair uncorrectable the entry is lost. Each is a cause of Gavotte, and counted (R333, R334, R338, R353).
(DEDUCED, log entry 119) -/
def ttCheck (c : Cells Word) (i : Nat) (e : Ent) (h : Hw) : Hw :=
  if ttClean e || ttLost e then h else
  let l := [e.err1, e.err2, e.perr1, e.perr2]
  let ce := (l.filter (· == 1)).length
  let ue := (l.filter (fun x => decide (2 ≤ x))).length
  let lost := decide (2 ≤ e.err1 ∧ 2 ≤ e.err2) || decide (2 ≤ e.perr1 ∧ 2 ≤ e.perr2)
  let x := if lost then 3 else 0
  let h := updEnt i (fun e => { e with err1 := x, err2 := x, perr1 := 0, perr2 := 0 }) h
  let h := if ce = 0 then h else gavCause c 2 (report 0xE false i 0 0 ownRid (cnt 22 0x68 ce h))
  if ue = 0 then h
  else gavCause c 3 ((if lost then id else report 0xE false i 1 0 ownRid) (cnt 22 0x6C ue h))

/-- Entry `i` is read (R333). -/
def ttSee (c : Cells Word) (i : Nat) (h : Hw) : Hw :=
  match ent h i with
  | some e => ttCheck c i e h
  | none => h

/-- Store a list of words of a line, from word `w` on. -/
def putWords (e : Ent) (li w : Nat) (l : List PWord) : Ent :=
  (l.zipIdx).foldl (fun e p => putBuf e li (w + p.2) p.1) e

/-- The 32 words of a line in an entry's buffer. -/
def lineWords (e : Ent) (li : Nat) : List PWord := (List.range 32).map (bufWord e li)

/-- First key of the words that a request returns beside a line: old values, elements, records. -/
def retLine : Nat := 128

/-- Operation code of an Atomic request (R365). -/
def opOf (x : Hdr) : Nat := fld x.arg2 4 0

/-- The caching agent that a ReadShared or ReadOwn names (R77). -/
def caiOf (x : Hdr) : BitVec 12 := x.arg2.setWidth 12

/-! ### Places -/

/-- Way and set that hold a line now: a line of a PINNED or QUEUE way lies at its own place; a hit on a way that SET_MODE
leaves counts as a miss (R44). -/
def whereIs (h : Hw) (k : LineKey) : Option (Nat × Nat) :=
  match k with
  | .loc w s => some (w, s)
  | .pa n => match wayOf h n with
    | some w => if leaving h w then none else some (w, setOf n)
    | none => none

/-- A destroying march pass runs on the bank. -/
def marchDestroys (h : Hw) (b : Nat) : Bool :=
  match h.prot.march with | some m => m.destroy && !m.wait && bit m.banks b | none => false

/-- A line lies in a bank under a destroying march pass (R302). -/
def marchedLine (h : Hw) (k : LineKey) : Bool :=
  match whereIs h k with
  | some (w, s) => marchDestroys h (bankOf w s)
  | none => false

/-- PA of the first byte of a line; of a PINNED or QUEUE line, its pinned-window address (R52, R53). -/
def lineByte (c : Cells Word) (h : Hw) (k : LineKey) : Nat :=
  match k with
  | .pa n => n * 128
  | .loc w s => cf c 6 0x60 18 0 * 2 ^ 33 + h.rst.id.toNat * 2 ^ 25 + w * 2 ^ 21 + s * 128

/-- SRC of a line, line form (R319). -/
def lineSrc (c : Cells Word) (h : Hw) (k : LineKey) : Nat := lineByte c h k / 128

/-- Line `li` of an entry's span. -/
def lineOf (e : Ent) (li : Nat) : LineKey := e.req.lines.getD li (.pa 0)

/-- The place of a line that SET_MODE is leaving as a CACHE way: the hit invalidates it (R44 step 1). -/
def dropLeaving (k : LineKey) (h : Hw) : Hw :=
  match k with
  | .loc _ _ => h
  | .pa n => match wayOf h n with
    | some w => if leaving h w then dropTag (setOf n) w h else h
    | none => h

/-- A line whose words the recovery poisoned: its log entry, GAV.PG_ERR.LOSS and the counter (R337 to R339, R345). -/
def recLoss (src cls : Nat) (words : Word) (iseq : Nat) (h : Hw) : Hw :=
  cnt 22 0x58 1 (err 22 2 <| report 0x10 false src cls words ownRid h iseq)

/-- Set the dirty bits of the sectors of a cached line in a way. -/
def markDirty (k : LineKey) (way secs : Nat) (h : Hw) : Hw :=
  match k with
  | .loc _ _ => h
  | .pa n =>
    let s := setOf n
    let t := tagAt h s way
    setTag s way { t with d0 := t.d0 || bitN secs 0, d1 := t.d1 || bitN secs 1 } h

/-- A demand access without the streaming hint that hits updates the pseudo-LRU bits; those of Galop and Reel do not (R50). -/
def hitTouch (r : Req) (k : LineKey) (way : Nat) (h : Hw) : Hw :=
  match k, r.kind, r.eng with
  | .loc _ _, _, _ => h
  | _, .repair, _ | _, .preload, _ | _, .flush, _ | _, .victimWb, _ | _, .backInv, _ | _, .maint _, _ => h
  | _, .chkRead, _ | _, .chkWrite, _ | _, .lrtMap, _ | _, .lrtUnmap, _ | _, .wayDis, _ => h
  | _, _, some _ => h
  | .pa n, _, _ => if r.hdr.strm then h else touchSet (setOf n) way true h

/-! ### Samples (R469, R470, R471) -/

/-- Stamp point `p` of the sample of the request with this intake number, the first time. -/
def stampAt (p : Nat) (iseq t : Nat) (h : Hw) : Hw :=
  h.modPerf (fun it => { it with fly := it.fly.map (fun s =>
      if s.iseq = iseq ∧ ¬ bit s.valid (p - 1) then
        { s with stamps := cPut 0 s.stamps p (BitVec.ofNat 32 t), valid := setBit s.valid (p - 1) true } else s) })

/-- Stamp a point in this cycle. -/
def stamp (p : Nat) (iseq : Nat) (h : Hw) : Hw := stampAt p iseq (now h) h

/-- The first row of R29 that the request takes is its outcome. (DEDUCED, log entry 42) -/
def outcome (n : Nat) (iseq : Nat) (h : Hw) : Hw :=
  h.modPerf (fun it => { it with fly := it.fly.map (fun s =>
      if s.iseq = iseq ∧ s.outcome = 0 then { s with outcome := n } else s) })

/-- The sample of a request enters the sample buffer. -/
def sampleEnd (iseq : Nat) (lost : Bool) (h : Hw) : Hw :=
  match h.perf.fly.find? (fun s => s.iseq = iseq) with
  | none => h
  | some s =>
    let t := rf h 25 0x4C 4 0
    let s := if lost then { s with lost := true, valid := setBit s.valid 6 false, stamps := cPut 0 s.stamps 7 0 } else s
    put 25 0x4C ((t + 1) % 32) (h.modPerf (fun it => { it with
      fly := it.fly.filter (fun x => decide (x.iseq ≠ iseq)), buf := cIns it.buf (t % 16) s }))

/-- Replay of a tagged request: stamps T4 to T6 are made again (R470). -/
def sampleReplay (iseq : Nat) (h : Hw) : Hw :=
  h.modPerf (fun it => { it with fly := it.fly.map (fun s =>
      if s.iseq = iseq then { s with replayed := true, valid := s.valid &&& 0x47 } else s) })

/-! ### Snoops -/

/-- TYPE of a snoop. -/
def SnpKind.type : SnpKind → Nat
  | .shared => 0x20 | .own => 0x21 | .copy => 0x22 | .inv => 0x23 | .recall => 0x24

/-- A CAI is reached through VP (R76). -/
def viaVp (c : Cells Word) (h : Hw) (x : BitVec 12) : Bool :=
  let b := cf c 8 0x54 11 0
  (h.vp.state == .up) && decide (b ≤ x.toNat) && decide (x.toNat < b + cf c 8 0x54 28 16)

/-- The header of a snoop of entry `i` (R362, R365). The requester of the slice's own work is given as 0xFFFF, with route and tag 0.
(DEDUCED, log entry 17) -/
def snpHdr (c : Cells Word) (h : Hw) (i : Nat) (e : Ent) (li : Nat) (k : SnpKind) : Hdr :=
  let home := match e.req.kind with | .maint _ => true | _ => false
  let asked := e.req.port.isSome || e.req.eng.isSome
  let rid := if asked then e.req.hdr.src.toNat else ownRid.toNat
  fromSlice h {
    type := BitVec.ofNat 6 k.type, tti := BitVec.ofNat 14 i
    route := if asked then e.req.hdr.route else 0, rtag := if asked then e.req.hdr.rtag else 0
    label := e.req.label, addr := BitVec.ofNat 52 (lineByte c h (lineOf e li))
    arg2 := if home then BitVec.ofNat 32 (2 ^ 16 + h.rst.id.toNat) else BitVec.ofNat 32 rid }

/-- Send one unicast snoop (R76). -/
def sendSnp (c : Cells Word) (i : Nat) (e : Ent) (s : Snp) (h : Hw) : Hw :=
  let x := { snpHdr c h i e s.li s.kind with dkind := 1, dst := s.cai.setWidth 16 }
  send (if viaVp c h s.cai then .vp else .mp) (vcOf 1 e.req.tc) { hdr := x, iseq := e.req.iseq } h

/-- Send the snoops of one line: unicast to `l`, and to the coarse groups' members `grp`, as multicasts where COH.CTRL says
so (R80). `own` marks the agent that the entry records as owner. -/
def sendSnoops (c : Cells Word) (i li : Nat) (k : SnpKind) (l grp : List (BitVec 12)) (own : Bool) (h : Hw) : Hw :=
  match ent h i with
  | none => h
  | some e =>
    let mk := fun (x : BitVec 12) => ({ cai := x, kind := k, st := .out, cyc := now h, own := own, li := li } : Snp)
    let h := updEnt i (fun e => { e with snp := e.snp ++ (l ++ grp).map mk }) h
    let h := l.foldl (fun h x => sendSnp c i e (mk x) h) h
    if cf c 8 0x50 0 0 = 1 then
      (List.range 64).foldl (fun h g =>
        let m := maskOf ((grp.filter (fun x => decide (x.toNat / 64 = g))).map (fun x => x.toNat % 64))
        if m = 0 then h else
        send .mp (vcOf 1 e.req.tc) { hdr := { snpHdr c h i e li k with
          dkind := 3, dst := BitVec.ofNat 16 g, bmask := BitVec.ofNat 128 m }, note := .snpGroup i g, iseq := e.req.iseq } h) h
    else grp.foldl (fun h x => sendSnp c i e (mk x) h) h

/-- What is left of a message that waits for egress when no snoop goes to this agent any more: a snoop to it alone is not sent, and a
multicast of its group leaves it out. -/
def unsnooped (x : BitVec 12) (m : OutMsg) : Option OutMsg :=
  if m.hdr.type.toNat < 0x20 ∨ 0x24 < m.hdr.type.toNat then some m
  else if m.hdr.dkind = 3 then
    if m.hdr.dst.toNat = x.toNat / 64 then
      let b := setBit m.hdr.bmask (x.toNat % 64) false
      if b = 0 then none else some { m with hdr := { m.hdr with bmask := b } }
    else some m
  else if m.hdr.dst.toNat = x.toNat then none else some m

/-- The agent has been fenced: snoops to it that wait for egress are not sent (R95). -/
def dropSnoops (x : BitVec 12) (h : Hw) : Hw :=
  h.modPorts (fun it => { it with
    eg := it.eg.foldl (fun m p => cPut [] m p.1 ((cGet [] it.eg p.1).filterMap (unsnooped x))) it.eg })

/-- Snoops with this kind to every copy that an entry records, but the requester (R80, R84). A coarse group that takes in the forwarder
of a DSF entry is snooped whole, the forwarder with it. (DEDUCED, log entry 104) -/
def snoopCopies (c : Cells Word) (i li : Nat) (k : SnpKind) (se : SfEnt) (req : Option (BitVec 12)) (ptr : Bool)
    (h : Hw) : Hw :=
  let p := if ptr && (se.dir == .dsf || se.dir == .doo) && !(some se.ptr == req) then [se.ptr] else []
  let sh := (sharersOf c h se req).filter (fun x => !(p.contains x))
  if se.coarse then sendSnoops c i li k p sh false h else sendSnoops c i li k (p ++ sh) [] false h

/-! ### XP -/

/-- Entry `i` waits for an XP read slot, which it gets in arrival order (R30). -/
def xpAsk (i li addr secs : Nat) (h : Hw) : Hw :=
  h.modXp (fun it => { it with wait := it.wait ++ [(i, li, addr, secs)] })

/-- Write beats of the sectors of a line (R374). -/
def xpBeats (own : Option Own) (addr secs : Nat) (ws : List PWord) : List XpWr :=
  let l := (List.range 2).filter (fun s => bitN secs s)
  l.map (fun s => { addr := addr / 64 + s, words := (ws.drop (16 * s)).take 16, init := false, own := own,
                    last := decide (l.getLast? = some s) })

/-- Queue write beats. -/
def xpWrite (l : List XpWr) (h : Hw) : Hw := h.modXp (fun it => { it with wrs := it.wrs ++ l })

/-! ### Accumulation spans (R168, R169) -/

/-- Number of input elements of an accumulation. -/
def accN (x : Hdr) : Nat := 64 * (1 + fld x.arg2 12 12) / ifmtSizeOf (fld x.arg2 11 8)
where
  /-- element size in bytes of an input format (R168) -/
  ifmtSizeOf (f : Nat) : Nat := match f with | 0 | 6 => 4 | 1 | 2 => 2 | _ => 1

/-- Lines that a request's span covers (R169). -/
def spanLines (x : Hdr) : Nat :=
  let op := opOf x
  if op = 0x10 ∨ op = 0x14 then max 1 (accN x / 32)
  else if op = 0x11 then 2 * max 1 (accN x / 32)
  else if op = 0x18 then 2 else 1

/-- The words of line `li` that an Atomic request of opcode `op` updates or returns, as a mask. -/
def atomWords (x : Hdr) (li : Nat) : Nat :=
  let op := opOf x
  let a := x.addr.toNat % 128
  let sec := 0xFFFF * 2 ^ (16 * (a / 64))
  if op ≤ 0x0D then (if fld x.arg2 5 5 = 1 then 3 else 1) * 2 ^ (a / 4)
  else if op = 0x10 ∨ op = 0x14 then (if accN x = 16 then sec else 0xFFFFFFFF)
  else if op = 0x11 then (if accN x = 16 then sec else 0xFFFFFFFF)
  else if op = 0x18 then (if fld x.arg2 15 15 = 1 then sec else 0xFFFFFFFF)
  else
    let b := fld x.arg2 14 13
    maskOf ((List.range 32).filter (fun w => decide (li = 0) && (decide (w = 24) ||
      (decide (8 * b ≤ w) && decide (w < 8 * (b + accN x / 32))))))

/-- The sectors that a ReadNoSnoop returns (R365). -/
def secOf (x : Hdr) : Nat :=
  let s := fld x.arg2 1 0
  if s = 0 then 3 else s

/-- The words of line `li` that a request itself names as returned or consumed (R16, R141). Which words of a record an offer consumes
its header says (R208). -/
def consumed (r : Req) (li : Nat) : Nat :=
  match r.kind with
  | .readShared | .readOwn => 0xFFFFFFFF
  | .readNoSnoop => (if bitN (secOf r.hdr) 0 then 0xFFFF else 0) + (if bitN (secOf r.hdr) 1 then 0xFFFF0000 else 0)
  | .atomic | .acc | .tangoRead => atomWords r.hdr li
  | .aliasW _ => maskOf ((List.range 32).filter (fun w =>
      decide (r.hdr.type.toNat = 0x04) || (fld r.hdr.bmask (4 * w + 3) (4 * w) != 0)))
  | .enq | .deq | .enqB | .deqB | .selReadReset => 0xFFFFFFFF
  | _ => 0

/-- The words of line `li` that an entry returns or consumes: of a queue's descriptor those at offsets 0x00 to 0x1F (R160),
those of its ring lines are kept in `errs`. -/
def consumedBy (e : Ent) (li : Nat) : Nat :=
  match e.req.kind with
  | .enq | .deq | .enqB | .deqB =>
    if li = 0 then 0xFF * 2 ^ (16 * (e.req.par % 2)) else ((e.errs.find? (fun p => p.1 = 100 + li)).map (·.2)).getD 0
  | _ => consumed e.req li

/-! ### Completions -/

/-- Response code of a request that passed every check (R16). -/
def dataCode (e : Ent) : BitVec 3 :=
  if e.code ≠ 0 then e.code
  else if e.bad then 2
  else if e.corr then 1 else 0

/-- The data of the request went to the requester from an agent (R87). -/
def forwarded (e : Ent) : Bool := e.snp.any (fun s => s.st == .done true)

/-- Queue a completion of entry `i`: CompData with these words and flits where the code allows data, else Comp (R366);
`last` = no further completion of it follows. -/
def complete (i : Nat) (e : Ent) (data : Option (List PWord)) (code : BitVec 3) (arg2 : BitVec 32) (h : Hw)
    (last : Bool := true) : Hw :=
  match e.req.port with
  | none => h
  | some p =>
    match data with
    | some pay =>
      if code.toNat ≤ 2 then
        let x := { compHdr h e.req.hdr (BitVec.ofNat 14 i) 0x1B code with
          arg2 := arg2, dfl := BitVec.ofNat 3 ((pay.length + 15) / 16) }
        send p (vcOf 4 e.req.tc) { hdr := x, pay := pay, note := if last then .tt i else .none, iseq := e.req.iseq } h
      else
        send p (vcOf 3 e.req.tc) { hdr := { compHdr h e.req.hdr (BitVec.ofNat 14 i) 0x36 code with arg2 := arg2 },
                                   note := .tt i, iseq := e.req.iseq } h
    | none =>
      send p (vcOf 3 e.req.tc) { hdr := { compHdr h e.req.hdr (BitVec.ofNat 14 i) 0x36 code with arg2 := arg2 },
                                 note := .tt i, iseq := e.req.iseq } h

/-- The returned words of an entry, `n` of them. -/
def retWords (e : Ent) (n : Nat) : List PWord := (List.range n).map (fun w => bufWord e retLine w)

/-- The words of a read's line, those not asked for as zero (R366). -/
def readWordsOf (e : Ent) : List PWord :=
  (List.range 32).map (fun w => if bitN (consumed e.req 0) w then bufWord e 0 w else PWord.zero)

/-- The completion of entry `i` is queued (R87, R89, R366). -/
def respond (i : Nat) (h : Hw) : Hw :=
  match ent h i with
  | none => h
  | some e =>
    let x := e.req.hdr
    match e.req.kind with
    | .readShared | .readOwn | .readNoSnoop =>
      if e.code ≠ 0 ∨ forwarded e then complete i e none e.code 0 h
      else
        let pay := readWordsOf e
        let code := if pay.any (·.poi) then 2 else if e.corr then 1 else 0
        complete i e (some pay) code (BitVec.ofNat 32 e.aux) h
    | .atomic =>
      if fld x.arg2 6 6 = 1 then complete i e (some (retWords e 32)) (dataCode e) 0 h
      else complete i e none (dataCode e) 0 h
    | .tangoRead => complete i e (some (retWords e 32)) (dataCode e) 0 h
    | .enq | .enqB => complete i e none (dataCode e) (BitVec.ofNat 32 e.aux) h
    | .deq | .deqB =>
      complete i e (some (retWords e e.aux2)) (dataCode e) (BitVec.ofNat 32 e.aux) h
    | .selReadReset =>
      if 3 ≤ e.code.toNat then complete i e none e.code 0 h
      else
        let n := e.req.lines.length
        (List.range n).foldl (fun h j =>
          complete i e (some ((List.range 32).map (fun w => bufWord e (retLine + j) w))) (dataCode e)
            (BitVec.ofNat 32 (j * 256 + (if j + 1 = n then 2048 else 0))) h (decide (j + 1 = n))) h
    | .evict | .writeBack =>
      let ty : BitVec 6 := if e.req.kind == .evict then 0x37 else 0x38
      match e.req.port with
      | some p =>
        let code := if e.code = 0 ∧ e.req.kind = .writeBack ∧ e.bad then 2 else e.code
        send p (vcOf 3 e.req.tc) { hdr := { compHdr h x (BitVec.ofNat 14 i) ty code with
          dkind := 1, dst := x.src &&& 0xFFF }, note := .tt i, iseq := e.req.iseq } h
      | none => h
    | _ => complete i e none (dataCode e) 0 h

/-- A completion of a request without a TT entry (R22). -/
def refuse (p : Port) (x : Hdr) (tc n : Nat) (code : BitVec 3) (arg2 : BitVec 32) (h : Hw) : Hw :=
  send p (vcOf 3 tc) { hdr := { compHdr h x x.tti 0x36 code with arg2 := arg2 }, note := .req n, iseq := n } h

/-! ### The directory at completion (R86, R90) -/

/-- The entry of a line, reserved or found, and its place. -/
def sfHere (h : Hw) (ln : Nat) : Option (Nat × SfEnt) :=
  match sfRsv h ln with
  | some n => some (n, sfAt h (setOf ln) n)
  | none => sfFind h ln

/-- Agents that a transaction found to hold no copy. -/
def goneList (e : Ent) : List (BitVec 12) := (e.snp.filter (·.gone)).map (·.cai)

/-- The directory as the transaction of entry `e` leaves it (R84, R86, R90). An entry in the coarse format keeps it until it is freed
(R79). (DEDUCED, log entry 18) -/
def dirUpdate (e : Ent) (h : Hw) : Hw :=
  match e.req.lines with
  | (.pa ln) :: _ =>
    let s := setOf ln
    let tag := tagOf ln
    let store := fun (n : Nat) (old new : SfEnt) (h : Hw) =>
      setSf s n new (if new.coarse && !old.coarse then ev 0x53 1 h else h)
    match e.req.kind, sfHere h ln with
    | .readShared, some (n, se) =>
      let r := caiOf e.req.hdr
      let old := if (se.dir == .dsf || se.dir == .doo) && (se.ptr != r) && !((goneList e).contains se.ptr)
        then some se.ptr else none
      let base := (goneList e ++ [r]).foldl (fun (a : SfEnt) x =>
        if a.coarse then a else { a with shr := a.shr.filter (· != x) }) se
      let base := match old with | some x => base.addShr x | none => base
      let new : SfEnt :=
        if e.aux = 3 then { base with tag := tag, dir := .doo, ptr := r, shr := [], grp := 0, rsv := false }
        else { base with tag := tag, dir := .dsf, ptr := r, rsv := false }
      store n se new h
    | .readOwn, some (n, se) =>
      store n se { se with
        tag := tag, dir := .doo, ptr := caiOf e.req.hdr, shr := [], grp := 0, rsv := false, errP := 0 } h
    | .readNoSnoop, some (n, se) =>
      if se.rsv then h else store n se ((goneList e).foldl (fun a x => SfEnt.remove a x) se).norm h
    | .writeInv, some (n, _) | .writePart, some (n, _) => setSf s n SfEnt.free_ h
    | _, _ => h
  | _ => h

/-- A line has no copies any more: its entry is free (R84, R118). -/
def sfDrop (ln : Nat) (h : Hw) : Hw :=
  match sfFind h ln with
  | some (n, _) => setSf (setOf ln) n SfEnt.free_ h
  | none => h

/-! ### The end of an entry -/

/-- Entry `i` is freed, and a tagged request writes its sample (R89, R471). -/
def freeEnt (i : Nat) (h : Hw) : Hw :=
  match ent h i with
  | none => h
  | some e =>
    let h := if e.req.port.isSome then sampleEnd e.req.iseq false h else h
    (h.modCore (fun it => { it with tt := cDel it.tt i }))

/-- The completion of the request with this intake number has been sent (R113). -/
def paid (iseq : Nat) (h : Hw) : Hw :=
  h.modCore (fun it => { it with owing := it.owing.filter (fun x => decide (x.1 ≠ iseq)) })

/-- Bank words of a line from an entry's buffer, of the words of `mask`. -/
def codeWords (e : Ent) (li mask : Nat) : List (Nat × Code) :=
  (bitsOf mask 32).map (fun w => (w, pwEnc (bufWord e li w)))

/-- Sectors that a word mask touches. -/
def secsOf (mask : Nat) : Nat := (if bitsN mask 15 0 ≠ 0 then 1 else 0) + (if bitsN mask 31 16 ≠ 0 then 2 else 0)

end Sys2Proof.Machine
end

