-- ==== Sys2Proof/Machine/Jig.lean ====
section
/-! DEFINITION. Jig, the merge buffer of narrow writes (R61 to R67). -/
namespace Sys2Proof.Machine

/-- Bits of a byte mask that fall in word `w`. -/
def nib {n : Nat} (m : BitVec n) (w : Nat) : Nat := fld m (4 * w + 3) (4 * w)

/-- Words that a byte mask touches, and those it covers whole, among the first `n`. -/
def touched {k : Nat} (m : BitVec k) (n : Nat) : Nat := maskOf ((List.range n).filter (fun w => nib m w ≠ 0))

/-- Words that a byte mask covers whole. -/
def covered {k : Nat} (m : BitVec k) (n : Nat) : Nat := maskOf ((List.range n).filter (fun w => nib m w = 15))

/-- A write is narrow when it covers some word only in part (R61). -/
def isNarrow (m : BitVec 128) : Bool := touched m 32 != covered m 32

/-- The bits of a word that a nibble of byte enables selects. -/
def nibBits (n : Nat) : Word :=
  BitVec.ofNat 32 ((if bitN n 0 then 0xFF else 0) + (if bitN n 1 then 0xFF00 else 0) + (if bitN n 2 then 0xFF0000 else 0) +
    (if bitN n 3 then 0xFF000000 else 0))

/-- A stored word with the enabled bytes of a written word: a partial write leaves a poisoned word poisoned, a whole-word
write clears its poison (R65, R91). (DEDUCED, log entry 38) -/
def mergeWord (old new : PWord) (n : Nat) : PWord :=
  if n = 15 then new
  else if n = 0 then old
  else if old.poi then old
  else if new.poi then ⟨old.val, true⟩
  else ⟨(old.val &&& ~~~ nibBits n) ||| (new.val &&& nibBits n), false⟩

/-- Jig holds bytes of the line. -/
def jigHolds (h : Hw) (k : LineKey) : Bool := h.near.jig.any (fun p => p.2.line == k)

/-- Change Jig entry `n`. -/
def updJig (n : Nat) (f : JigEnt → JigEnt) (h : Hw) : Hw := h.modNear (fun it => { it with jig := cUpd it.jig n f })

/-- The word `w` of an entry's sector as written. -/
def jigWord (j : JigEnt) (w : Nat) : PWord := ⟨BitVec.ofNat 32 (bitsN j.bytes.toNat (32 * w + 31) (32 * w)), bit j.poi w⟩

/-- The bank operation of a Jig entry. -/
def jigOp (h : Hw) (n : Nat) (j : JigEnt) (write : Bool) (data : List (Nat × Code)) : BankOp :=
  lineOp h (.jig n) j.who none j.line j.way j.set [j.sec] write data 0 false false

/-- The words of a held sector merged into what XP returned, and those of them that stay poisoned (R51, R65). -/
def jigMerge (j : JigEnt) (old : List PWord) : List PWord × List Nat :=
  let at0 := fun (w : Nat) => old.getD w PWord.zero
  ((List.range 16).map (fun w => mergeWord (at0 w) (jigWord j w) (nib j.mask w)),
   (bitsOf (touched j.mask 16) 16).filter (fun w => (at0 w).poi && decide (nib j.mask w ≠ 15)))

/-- The hold of an entry without a place in the array ends: the whole sector goes to XP (R51). (DEDUCED, log entry 39) -/
def jigXp (n : Nat) (j : JigEnt) (old : List PWord) (h : Hw) : Hw :=
  let ln := match j.line with | .pa ln => ln | .loc _ _ => 0
  let (ws, blocked) := jigMerge j old
  let h := if blocked.isEmpty then h else
    report 7 false ln 1 (BitVec.ofNat 32 (maskOf (blocked.map (· + 16 * j.sec)))) j.rid h j.who.iseq
  let line := List.replicate (16 * j.sec) PWord.zero ++ ws
  xpWrite (xpBeats (some (.jig n)) (ln * 128) (2 ^ j.sec) line)
    (updJig n (fun j => { j with writing := true }) (ev 0x6B 1 h))

/-- The hold of entry `n` ends: a plain write, or the read of a read-merge-write (R63, R64). -/
def jigEnd (early : Bool) (n : Nat) (h : Hw) : Hw :=
  match cFind h.near.jig n with
  | none => h
  | some j =>
    if j.writing then h else
    let h := if early then ev 0x6D 1 h else h
    match j.base with
    | some old => jigXp n j old h
    | none =>
    if touched j.mask 16 = covered j.mask 16 then
      let data := (bitsOf (touched j.mask 16) 16).map (fun w => (16 * j.sec + w, pwEnc (jigWord j w)))
      ev 0x6A 1 (enqOp (jigOp h n j true data) (updJig n (fun j => { j with writing := true, left := 1 }) h))
    else
      ev 0x6B 1 (enqOp (jigOp h n j false []) (updJig n (fun j => { j with writing := true, left := 2 }) h))

/-- End the hold of every entry of a line: a lookup met them (R29, R63). -/
def jigEndLine (k : LineKey) (h : Hw) : Hw :=
  (h.near.jig.filter (fun p => p.2.line == k)).foldl (fun h p => jigEnd true p.1 h) h

/-- Sectors that a request's narrow write touches. -/
def jigSecs (r : Req) : List Nat := (List.range 2).filter (fun s => bitN (secsOf (touched r.hdr.bmask 32)) s)

/-- Entries free in Jig. -/
def jigFree (h : Hw) : Nat := 16 - h.near.jig.length

/-- Jig may take the write of entry `i` now: enough free entries and no waiting write with a lower number (R66). -/
def jigCan (h : Hw) (i : Nat) (e : Ent) : Bool :=
  decide ((jigSecs e.req).length ≤ jigFree h) &&
    !(h.core.tt.any (fun p => p.2.active && p.2.busy && (p.2.todo.head? == some .jig) && decide (p.1 ≠ i) &&
      decide (p.2.req.iseq < e.req.iseq)))

/-- Jig takes every byte of the write of entry `i`, into a line that lies in this way and set, or that has no place and was read from
XP (R51, R62): Jig acceptance. -/
def jigAccept (c : Cells Word) (i : Nat) (e : Ent) (place : Option (Nat × Nat)) (h : Hw) : Hw :=
  let r := e.req
  let k := lineOf e 0
  let (way, set) := place.getD (0, 0)
  (jigSecs r).foldl (fun h s =>
    match cFree h.near.jig 16 with
    | none => h
    | some n =>
      let ws := (r.pay.drop (16 * s)).take 16
      let j : JigEnt := {
        line := k, way := way, set := set, sec := s
        mask := BitVec.ofNat 64 (bitsN r.hdr.bmask.toNat (64 * s + 63) (64 * s))
        bytes := wordsFlit (ws.map (·.val))
        poi := BitVec.ofNat 16 (maskOf ((ws.zipIdx.filter (fun p => p.1.poi)).map (·.2)))
        who := whoOf r, rid := r.hdr.src, expire := clkM h + cf c 17 0x40 3 0, writing := false, left := 0
        base := if place.isSome then none else some ((lineWords e 0).drop (16 * s) |>.take 16) }
      let h := ev 0x69 1 (h.modNear (fun it => { it with jig := cIns it.jig n j }))
      let h := if place.isSome then markDirty k way (2 ^ s) h else h
      if touched j.mask 16 = covered j.mask 16 then jigEnd false n h else h)
    (stamp 6 r.iseq (updEnt i (fun e => { e with committed := true }) h))

/-- The row of a read-merge-write has been read: the touched words are merged and written, but for those that stay poisoned,
which are logged (R64, R65). -/
def jigRead (c : Cells Word) (n : Nat) (rd : List (Nat × EccCls × PWord)) (h : Hw) : Hw :=
  match cFind h.near.jig n with
  | none => h
  | some j =>
    let old := fun (w : Nat) => ((rd.find? (fun x => x.1 = 16 * j.sec + w)).map (fun x => x.2.2)).getD PWord.zero
    let tw := bitsOf (touched j.mask 16) 16
    let blocked := tw.filter (fun w => (old w).poi && decide (nib j.mask w ≠ 15))
    let h := if blocked.isEmpty then h else
      report 7 false (lineSrc c h j.line) 1 (BitVec.ofNat 32 (maskOf (blocked.map (· + 16 * j.sec)))) j.rid h j.who.iseq
    let good := tw.filter (fun w => !(blocked.contains w))
    if good.isEmpty then h.modNear (fun it => { it with jig := cDel it.jig n })
    else
      let data := good.map (fun w => (16 * j.sec + w, pwEnc (mergeWord (old w) (jigWord j w) (nib j.mask w))))
      enqOp (jigOp h n j true data) (updJig n (fun j => { j with left := 1 }) h)

/-- The write of entry `i` goes to Jig: in its line's place, or beside what XP returned; a line that has left its way since is looked
for again (R44, R45, R51, R62). -/
def jigPass (c : Cells Word) (i : Nat) (e : Ent) (h : Hw) : Hw :=
  match whereIs h (lineOf e 0) with
  | some p => popAct i (jigAccept c i e (some p) h)
  | none => if e.aux = 1 then popAct i (jigAccept c i e none h) else expand i [.part] h

/-- The last bank operation of an entry has issued: the entry is free (R64). -/
def jigIssued (op : BankOp) (h : Hw) : Hw :=
  match op.own with
  | .jig n => if op.write then (h.modNear (fun it => { it with jig := cDel it.jig n })) else h
  | _ => h

end Sys2Proof.Machine
end

