-- ==== Sys2Proof/Machine/Alb.lean ====
section
/-! DEFINITION. The Atomic Line Buffer and the accumulation cells: entries and their choice (R140 to R144, R172 to R174),
issue and latency (R145, R175), and the effect of an atomic, an alias write, an accumulation group and a Tango read (R134 to
R139, R147, R177 to R191). -/
namespace Sys2Proof.Machine

/-! ### Entries -/

/-- The ALB entry of a line. -/
def albFind (h : Hw) (k : LineKey) : Option (Nat × AlbEnt) := cSeek (fun _ e => e.line == k) h.near.alb

/-- Change ALB entry `n`. -/
def updAlb (n : Nat) (f : AlbEnt → AlbEnt) (h : Hw) : Hw := h.modNear (fun it => { it with alb := cUpd it.alb n f })

/-- The line after, and the line before. -/
def LineKey.shift (k : LineKey) (up : Bool) : LineKey :=
  match k with
  | .pa n => .pa (if up then n + 1 else n - 1)
  | .loc w s => .loc w (if up then s + 1 else s - 1)

/-- The other entry of a Tango pair (R174). -/
def albPartner (h : Hw) (a : AlbEnt) : Option Nat :=
  match a.fmt with
  | .tangoSum => (albFind h (a.line.shift true)).map (·.1)
  | .tangoComp => (albFind h (a.line.shift false)).map (·.1)
  | _ => none

/-- The tag that an Atomic request needs on line `li` of its span (R172). -/
def fmtOf (op li : Nat) : Fmt :=
  if op = 0x10 then .f32
  else if op = 0x11 ∨ op = 0x18 then (if li % 2 = 0 then .tangoSum else .tangoComp)
  else if op = 0x12 then .mxfp8
  else if op = 0x13 then .mxint8
  else if op = 0x14 then .i32
  else .plain

/-- The tag that a request needs on a line, if the ALB serves its kind (R143, R172). -/
def needFmt (r : Req) (li : Nat) : Option Fmt :=
  match r.kind with
  | .atomic | .aliasW _ => some .plain
  | .acc | .tangoRead => some (fmtOf (opOf r.hdr) li)
  | _ => none

/-- A request of the slice for work that runs for `w`. -/
def reqOfWho (w : Who) : Req :=
  { iseq := w.iseq, kind := .victimWb, hdr := { type := 0 }, lines := [], label := w.label, group := w.group, tc := w.tc,
    demoted := w.low, counted := false }

/-- Ask for the bank or XP writes of a write-back that has begun (R144). A line not present is filled; with no room for its
victim's write-back it waits. (DESIGN CHOICE, log entry 103) -/
def albStart (n : Nat) (h : Hw) : Hw :=
  match cFind h.near.alb n with
  | none => h
  | some a =>
    if !a.wb || a.started then h else
    let go := updAlb n (fun a => { a with started := true })
    let data := (a.data.zipIdx).map (fun p => (p.2, pwEnc p.1))
    let wr := fun (w s : Nat) (h : Hw) => enqOp (lineOp h (.alb n) a.who none a.line w s [0, 1] true data 0 false false) h
    let h := dropLeaving a.line h
    match a.line, whereIs h a.line with
    | k, some (w, s) => go (wr w s (markDirty k w 3 h))
    | .loc _ _, none => h
    | .pa ln, none =>
      match allocLine (reqOfWho a.who) ln true h with
      | (.way w _, h) => go (wr w (setOf ln) (touchSet (setOf ln) w true h))
      | (.none, h) => go (xpWrite (xpBeats (some (.alb n)) (ln * 128) 3 a.data) h)
      | (.notYet, _) => h

/-- Begin the write-back of entry `n`, and of the other line of its pair (R144, R174). -/
def albWb (who : Who) (n : Nat) (h : Hw) : Hw :=
  match cFind h.near.alb n with
  | none => h
  | some a =>
    if a.wb then h else
    let mark := fun (k : Nat) => updAlb k (fun a => { a with wb := true, who := who })
    let h := albStart n (mark n h)
    match albPartner h a with
    | some m => albStart m (mark m h)
    | none => h

/-- The write-back of entry `n` is done: the entry is free. -/
def albDone (n : Nat) (h : Hw) : Hw := h.modNear (fun it => { it with alb := cDel it.alb n })

/-- An active entry holds the line. -/
def activeOn (h : Hw) (k : LineKey) : Bool := h.core.tt.any (fun p => p.2.active && p.2.req.lines.contains k)

/-- Entry `n` may be a victim: no write-back runs, no TT entry is active on its line, and so for its pair (R142, R174). -/
def albEligible (h : Hw) (n : Nat) : Bool :=
  match cFind h.near.alb n with
  | none => false
  | some a =>
    let one := fun (a : AlbEnt) => !a.wb && !(activeOn h a.line)
    one a && (match (albPartner h a).bind (cFind h.near.alb) with | some b => one b | none => true)

/-- The use stamp of an entry. -/
def albStamp (h : Hw) (n : Nat) : Nat := ((cFind h.near.alb n).map (·.stamp)).getD 0

/-- Entries whose write-back a transaction waits for that needs that one entry and then takes it (R142). A span holds none while it
waits for others (R173). -/
def albPlanned (h : Hw) : List Nat :=
  (h.core.tt.filter (fun p => p.2.todo.head? == some .alb)).flatMap (fun p =>
    (p.2.errs.filter (fun x => decide (x.2 < 64))).map (·.1))

/-- Free entries of a cell. -/
def cellFree (h : Hw) (used : List Nat) (cell : Nat) : List Nat :=
  ((List.range 6).map (6 * cell + ·)).filter (fun n => (cFind h.near.alb n).isNone && !(used.contains n))

/-- The cell with the most free entries, at least `k`, the lowest-numbered first. -/
def bestCell (h : Hw) (used : List Nat) (k : Nat) : Option Nat :=
  leastBy (fun c => 6 - (cellFree h used c).length)
    ((List.range 8).filter (fun c => decide (k ≤ (cellFree h used c).length)))

/-- One entry for a line: free, or a victim (R142). -/
def chooseOne (h : Hw) (used : List Nat) : Option (List Nat) :=
  match bestCell h used 1 with
  | some c => some ((cellFree h used c).take 1)
  | none =>
    (leastBy (albStamp h) ((List.range 48).filter (fun n => albEligible h n && !(used.contains n)))).map ([·])

/-- The two oldest eligible entries of a cell. -/
def oldestTwo (h : Hw) (used : List Nat) (cell : Nat) : Option (List Nat) :=
  let l := ((List.range 6).map (6 * cell + ·)).filter (fun n => albEligible h n && !(used.contains n))
  match leastBy (albStamp h) l with
  | none => none
  | some a => (leastBy (albStamp h) (l.filter (· != a))).map (fun b => [a, b])

/-- Two entries of one cell for a pair (R174). -/
def chooseTwo (h : Hw) (used : List Nat) : Option (List Nat) :=
  match bestCell h used 2 with
  | some c => some ((cellFree h used c).take 2)
  | none =>
    leastBy (fun l => match l with | [_, b] => albStamp h b | _ => 0) ((List.range 8).filterMap (oldestTwo h used))

/-- Entries for the lines of a span that are not in the ALB: entry and line (R173, R174). -/
def albPlan (h : Hw) (e : Ent) : Option (List (Nat × Nat)) :=
  let used := albPlanned h
  let lis := (List.range e.req.lines.length).filter (fun li => (albFind h (lineOf e li)).isNone)
  let pair := decide (opOf e.req.hdr = 0x11 ∨ opOf e.req.hdr = 0x18) && (e.req.kind == .acc || e.req.kind == .tangoRead)
  if pair then
    (lis.filter (fun li => li % 2 = 0)).foldl (fun acc li => acc.bind (fun l =>
      match chooseTwo h (used ++ l.map (·.1)) with
      | some [a, b] => some (l ++ [(a, li), (b, li + 1)])
      | _ => none)) (some [])
  else
    lis.foldl (fun acc li => acc.bind (fun l =>
      match chooseOne h (used ++ l.map (·.1)) with
      | some [a] => some (l ++ [(a, li)])
      | _ => none)) (some [])

/-- A use of entry `n`: its use stamp, and its last updater where the use sets one. -/
def albUse (n : Nat) (upd : Option Rid) (h : Hw) : Hw :=
  let h := h.modNear (fun it => { it with stamp := it.stamp + 1 })
  updAlb n (fun a => { a with stamp := h.near.stamp, upd := if upd.isSome then upd else a.upd }) h

/-- The lines of an entry enter the ALB at the places of the plan; their directory state is DI (R141, R173). -/
def albFill (i : Nat) (e : Ent) (plan : List (Nat × Nat)) (h : Hw) : Hw :=
  let h := plan.foldl (fun h p =>
    let k := lineOf e p.2
    let a : AlbEnt := { line := k, fmt := (needFmt e.req p.2).getD .plain, data := lineWords e p.2, upd := none,
                        stamp := h.near.stamp + 1, wb := false, started := false, who := whoOf e.req }
    let h := ev 0x6F 1 (h.modNear (fun it => { it with alb := cIns it.alb p.1 a, stamp := it.stamp + 1 }))
    match k with | .pa ln => sfDrop ln h | .loc _ _ => h) h
  popAct i (updEnt i (fun e => { e with errs := [] }) h)

/-- Try to take the ALB entries that entry `i` waits for: all of them, or none, while the victims' write-backs begin (R142, R173). One
that needs several chooses again once its victims are gone. (DEDUCED, log entry 113) -/
def albTake (i : Nat) (h : Hw) : Hw :=
  match ent h i with
  | none => h
  | some e =>
    if e.todo.head? ≠ some .alb ∨ e.errs.any (fun p => (cFind h.near.alb p.1).any (·.wb)) then h else
    let own := match e.errs with | [(n, li)] => decide (li < 64) && (cFind h.near.alb n).isNone | _ => false
    if own then albFill i e e.errs h
    else
      let h := updEnt i (fun e => { e with errs := [] }) h
      match albPlan h { e with errs := [] } with
      | none => h
      | some plan =>
        if plan.all (fun p => (cFind h.near.alb p.1).isNone) then albFill i e plan h
        else
          let vs := plan.filter (fun p => (cFind h.near.alb p.1).isSome)
          let note := if plan.length = 1 then plan else vs.map (fun p => (p.1, 64 + p.2))
          let h := updEnt i (fun e => { e with errs := note }) h
          vs.foldl (fun h p =>
            match cFind h.near.alb p.1 with
            | some a => if a.wb then h else albWb (whoOf e.req) p.1 (ev 0x70 1 (cntW 10 0x44 1 h))
            | none => h) h

/-! ### The cells -/

/-- Groups of an accumulation: line of the span, group in the line, or half block of the record (R174). -/
def groupsOf (x : Hdr) : List (Nat × Nat) :=
  let op := opOf x
  let n := accN x
  if op = 0x12 ∨ op = 0x13 then
    (List.range (2 * (n / 32))).map (fun j => (0, 2 * fld x.arg2 14 13 + j))
  else if n = 16 then [(0, fld x.addr 6 6)]
  else
    let st := if op = 0x11 then 2 else 1
    (List.range (n / 32)).flatMap (fun p => [(st * p, 0), (st * p, 1)])

/-- Hand the operations of entry `i` to the cells that hold its lines (R175). -/
def dispatchCells (i : Nat) (e : Ent) (h : Hw) : Hw :=
  let add := fun (k : LineKey) (g : Option (Nat × Nat × Nat)) (h : Hw) =>
    match albFind h k with
    | none => h
    | some (n, _) =>
      let op : CellOp := { tt := i, iseq := e.req.iseq, grp := g, at_ := clkA h }
      (h.modNear (fun it => { it with ready := cPut [] it.ready (n / 6) (cGet [] it.ready (n / 6) ++ [op]) }))
  let h := stamp 6 e.req.iseq (setBusy i h)
  if e.req.kind == .acc then
    (groupsOf e.req.hdr).foldl (fun h g => add (lineOf e g.1) (some (g.1, g.2, 0)) h) h
  else add (lineOf e 0) none h

/-- An operation issues in cell `k`, its result due after `lat` CLK_A cycles. -/
def cellIssue (k : Nat) (o : CellOp) (lat : Nat) (h : Hw) : Hw :=
  let h := ev 0x78 1 h
  (h.modNear (fun it => { it with
    ready := cPut [] it.ready k (dropFirst (fun x => x == o) (cGet [] it.ready k))
    fly := cPut [] it.fly k (cGet [] it.fly k ++ [{ o with at_ := clkA h + lat }])
    issued := cPut 0 it.issued k (clkA h + 1) }))

/-- The oldest operation of cell `k` whose result is due, among those that meet `p`. -/
def cellDue (h : Hw) (k : Nat) (p : CellOp → Bool) : Option CellOp :=
  leastBy (·.at_) ((cGet [] h.near.fly k).filter (fun o => p o && decide (o.at_ ≤ clkA h)))

/-- An operation leaves cell `k`. -/
def cellDrop (k : Nat) (o : CellOp) (h : Hw) : Hw :=
  h.modNear (fun it => { it with fly := cPut [] it.fly k (dropFirst (fun x => x == o) (cGet [] it.fly k)) })

/-- Latency of an atomic or alias write (R145, R147). -/
def atomLat (r : Req) : Nat :=
  match r.kind with
  | .atomic => if 0x0A ≤ opOf r.hdr ∧ opOf r.hdr ≤ 0x0D then 2 else 1
  | _ => 1

/-- Latency of a group (R175). -/
def accLat (op : Nat) : Nat := if op = 0x10 then 3 else if op = 0x11 then 4 else if op = 0x14 then 2 else 5

/-! ### Atomics (R134 to R139) -/

/-- A number of `b` bits as a signed one. -/
def signed (b n : Nat) : Int := if 2 ^ (b - 1) ≤ n then (n : Int) - 2 ^ b else n

/-- New target value of an atomic of `b` bits, whether a CAS failed, and the flags INV and OVF. -/
def atomNew (op b t x cmp : Nat) : Nat × Bool × Bool × Bool :=
  let int := fun (v : Nat) => (v, false, false, false)
  let fp := fun (r : FpRes) => (r.bits, false, r.inv, r.ovf)
  if op = 0x00 then int ((t + x) % 2 ^ b)
  else if op = 0x01 then int (if signed b x < signed b t then x else t)
  else if op = 0x02 then int (if signed b t < signed b x then x else t)
  else if op = 0x03 then int (min t x)
  else if op = 0x04 then int (max t x)
  else if op = 0x05 then int (t &&& x)
  else if op = 0x06 then int (t ||| x)
  else if op = 0x07 then int (t ^^^ x)
  else if op = 0x08 then int x
  else if op = 0x09 then (if t = cmp then int x else (t, true, false, false))
  else if op = 0x0A then fp (fpLanes fp32 (b / 32) t x)
  else if op = 0x0B then fp (fpLanes bf16 (b / 16) t x)
  else if op = 0x0C then fp (fpLanes fp16 (b / 16) t x)
  else
    let r := cadd (t % 2 ^ 32) (t / 2 ^ 32) (x % 2 ^ 32)
    (r.1 + r.2.1 * 2 ^ 32, false, r.2.2.1, r.2.2.2)

/-- Words of an ALB entry. -/
def albWord (a : AlbEnt) (w : Nat) : PWord := a.data.getD w PWord.zero

/-- An atomic met poison (R139, R147). -/
def atomPoison (c : Cells Word) (e : Ent) (mask : Nat) (h : Hw) : Hw :=
  report 7 false (lineSrc c h (lineOf e 0)) 2 (BitVec.ofNat 32 mask) e.req.hdr.src (cnt 10 0x4C 1 (err 10 0 h)) e.req.iseq

/-- The result of an atomic is written into its ALB entry: the atomic commits (R134, R136 to R139, R146). -/
def atomWrite (c : Cells Word) (i : Nat) (e : Ent) (n : Nat) (a : AlbEnt) (h : Hw) : Hw :=
  let x := e.req.hdr
  let op := opOf x
  let two := fld x.arg2 5 5 = 1
  let b := if two then 64 else 32
  let w := x.addr.toNat % 128 / 4
  let ws := if two then [w, w + 1] else [w]
  let poi := ws.filter (fun w => (albWord a w).poi)
  let t := (albWord a w).val.toNat + (if two then (albWord a (w + 1)).val.toNat * 2 ^ 32 else 0)
  let r := atomNew op b t (x.arg0.toNat % 2 ^ b) (x.arg1.toNat % 2 ^ b)
  let run := poi.isEmpty || decide (op = 0x08)
  let fail := decide (op = 0x09) && (r.2.1 || !poi.isEmpty)
  let flags := if run then b2n r.2.2.1 + 2 * b2n r.2.2.2 else 0
  let h := if flags = 0 then h else sticky (rg 10 0x48) (BitVec.ofNat 32 flags) h
  let h := ev 0x6E 1 (if fail then ev 0x72 1 h else h)
  let h := if poi.isEmpty then h else atomPoison c e (maskOf poi) h
  let h := if !run then h else
    updAlb n (fun a => { a with data := (List.range 32).map (fun k =>
      if k = w then ⟨BitVec.ofNat 32 r.1, false⟩
      else if two ∧ k = w + 1 then ⟨BitVec.ofNat 32 (r.1 / 2 ^ 32), false⟩ else albWord a k) }) h
  let h := albUse n (some x.src) h
  popAct i (updEnt i (fun e =>
    let e := ws.foldl (fun e k => putBuf e retLine k (albWord a k)) e
    { e with committed := true, bad := e.bad || !poi.isEmpty }) h)

/-- Byte enables of an alias write (R147). -/
def aliasMask (x : Hdr) : BitVec 128 := if x.type = 0x04 then BitVec.allOnes 128 else x.bmask

/-- One word of a line under an alias write. -/
def aliasWord (clr : Bool) (old new : PWord) (n : Nat) : PWord :=
  if n = 0 ∨ old.poi then old
  else if new.poi then ⟨old.val, true⟩
  else ⟨(if clr then old.val &&& ~~~ (new.val &&& nibBits n) else old.val ||| (new.val &&& nibBits n)), false⟩

/-- The result of an alias write is written (R54, R147). -/
def aliasWrite (c : Cells Word) (i : Nat) (e : Ent) (clr : Bool) (n : Nat) (a : AlbEnt) (h : Hw) : Hw :=
  let m := aliasMask e.req.hdr
  let data := (List.range 32).map (fun w =>
    aliasWord clr (albWord a w) (e.req.pay.getD w PWord.zero) (nib m w))
  let met := (bitsOf (touched m 32) 32).filter (fun w => (data.getD w PWord.zero).poi)
  let h := ev 0x6E 1 h
  let h := if met.isEmpty then h else atomPoison c e (maskOf met) h
  let h := albUse n (some e.req.hdr.src) (updAlb n (fun a => { a with data := data }) h)
  popAct i (updEnt i (fun e => { e with committed := true, bad := e.bad || !met.isEmpty }) h)

/-! ### Accumulation groups (R177 to R191) -/

/-- Input element `i` of a payload of elements of `s` bytes, and whether its word is poisoned (R168). -/
def inElem (pay : List PWord) (s i : Nat) : Nat × Bool :=
  let w := pay.getD (s * i / 4) PWord.zero
  (bitsN w.val.toNat (8 * (s * i % 4) + 8 * s - 1) (8 * (s * i % 4)), w.poi)

/-- Input element `i` widened to FP32 (R177). -/
def inF32 (x : Hdr) (pay : List PWord) (i : Nat) : FpRes × Bool :=
  let f := fld x.arg2 11 8
  let (v, p) := inElem pay (ifmtSize f) i
  (widen f v (bitsN x.arg0.toNat (8 * (i / 32) + 7) (8 * (i / 32))), p)

/-- Input element `i` widened to INT32. -/
def inI32 (x : Hdr) (pay : List PWord) (i : Nat) : Int × Bool :=
  let f := fld x.arg2 11 8
  let (v, p) := inElem pay (ifmtSize f) i
  (if f = 5 then signed 8 v else signed 32 v, p)

/-- Flags of ACC.STAT: INV, OVF, I32_OVF, MX_NAN. -/
def accFlags (inv ovf iovf nan : Bool) : Nat := b2n inv + 2 * b2n ovf + 4 * b2n iovf + 8 * b2n nan

/-- What a lane gives: the new word or words, flags, poison met. -/
structure Lane where
  s : PWord
  c : PWord
  flags : Nat
  met : Bool

/-- One FP32 lane (R180, R191). -/
def laneF32 (t : PWord) (i : FpRes × Bool) : Lane :=
  if t.poi then ⟨t, PWord.zero, 0, true⟩
  else if i.2 then ⟨⟨t.val, true⟩, PWord.zero, 0, true⟩
  else
    let r := fpAdd fp32 t.val.toNat i.1.bits
    ⟨⟨BitVec.ofNat 32 r.bits, false⟩, PWord.zero, accFlags (i.1.inv || r.inv) (i.1.ovf || r.ovf) false false, false⟩

/-- One INT32 lane (R181). -/
def laneI32 (sat : Bool) (t : PWord) (i : Int × Bool) : Lane :=
  if t.poi then ⟨t, PWord.zero, 0, true⟩
  else if i.2 then ⟨⟨t.val, true⟩, PWord.zero, 0, true⟩
  else
    let v := signed 32 t.val.toNat + i.1
    let out := decide (v < -2 ^ 31) || decide (2 ^ 31 ≤ v)
    let v := if sat then max (-2 ^ 31) (min v (2 ^ 31 - 1)) else v
    ⟨⟨BitVec.ofInt 32 v, false⟩, PWord.zero, accFlags false false out false, false⟩

/-- One Tango lane (R183, R191). -/
def laneTango (s c : PWord) (i : FpRes × Bool) : Lane :=
  if s.poi || c.poi then ⟨s, c, 0, true⟩
  else if i.2 then ⟨⟨s.val, true⟩, ⟨c.val, true⟩, 0, true⟩
  else
    let r := cadd s.val.toNat c.val.toNat i.1.bits
    ⟨⟨BitVec.ofNat 32 r.1, false⟩, ⟨BitVec.ofNat 32 r.2.1, false⟩,
      accFlags (i.1.inv || r.2.2.1) (i.1.ovf || r.2.2.2) false false, false⟩

/-- Put the words of a group into an entry's data. -/
def putGroup (a : AlbEnt) (g : Nat) (l : List PWord) : AlbEnt :=
  { a with data := a.data.take (16 * g) ++ l ++ a.data.drop (16 * g + 16) }

/-- Poisoned words met on a line, remembered until the commit. -/
def noteMet (li mask : Nat) (e : Ent) : Ent :=
  if mask = 0 then e else
  let old := ((e.errs.find? (fun p => p.1 = li)).map (·.2)).getD 0
  { e with bad := true, errs := e.errs.filter (fun p => decide (p.1 ≠ li)) ++ [(li, old ||| mask)] }

/-- The result of a group of an FP32, INT32 or Tango span. `g` is the sector, `base` the first input element. -/
def groupWrite (i : Nat) (e : Ent) (li g : Nat) (h : Hw) : Hw :=
  let x := e.req.hdr
  let op := opOf x
  let base := if accN x = 16 then 0 else (if op = 0x11 then 16 * li else 32 * li) + 16 * g
  match albFind h (lineOf e li) with
  | none => h
  | some (n, a) =>
    let b := ((albFind h (lineOf e (li + 1))).map (·.2)).getD a
    let lanes := (List.range 16).map (fun j =>
      let t := albWord a (16 * g + j)
      if op = 0x10 then laneF32 t (inF32 x e.req.pay (base + j))
      else if op = 0x14 then laneI32 (bitN e.aux2 0) t (inI32 x e.req.pay (base + j))
      else laneTango t (albWord b (16 * g + j)) (inF32 x e.req.pay (base + j)))
    let flags := lanes.foldl (fun f l => f ||| l.flags) 0
    let mask := maskOf (((lanes.zipIdx).filter (fun p => p.1.met)).map (fun p => 16 * g + p.2))
    let h := if flags = 0 then h else sticky (rg 12 0x44) (BitVec.ofNat 32 flags) h
    let h := updEnt i (noteMet li mask) h
    let h := updAlb n (fun a => putGroup a g (lanes.map (·.s))) h
    if op ≠ 0x11 then h else
    match albFind h (lineOf e (li + 1)) with
    | some (m, _) => updEnt i (noteMet (li + 1) mask) (updAlb m (fun a => putGroup a g (lanes.map (·.c))) h)
    | none => h

/-- The number that an FP32 input stands for, as an MX element sum takes it. -/
def mxNum (r : FpRes) : Num := fpDec fp32 r.bits

/-- The outcome of an attempt on block `b` of a record at the scale after `att` replays (R188 to R191); the answer says
whether the block is attempted again. (DESIGN CHOICE, log entry 34) -/
def mxAttempt (i : Nat) (e : Ent) (b att : Nat) (h : Hw) : Hw × Bool :=
  let x := e.req.hdr
  let fp8 := decide (opOf x = 0x12)
  let j0 := b - fld x.arg2 14 13
  match albFind h (lineOf e 0) with
  | none => (h, false)
  | some (n, a) =>
    let w24 := albWord a 24
    let ins := (List.range 32).map (fun k => inF32 x e.req.pay (32 * j0 + k))
    let ew := (List.range 8).map (8 * b + ·)
    let x0 := bitsN w24.val.toNat (8 * b + 7) (8 * b)
    if w24.poi then (updEnt i (noteMet 0 (2 ^ 24)) h, false)
    else if ew.any (fun w => (albWord a w).poi) || ins.any (·.2) then
      let data := a.data.zipIdx.map (fun p => if ew.contains p.2 then ⟨p.1.val, true⟩ else p.1)
      (updEnt i (noteMet 0 (maskOf ew)) (updAlb n (fun a => { a with data := data }) h), false)
    else if x0 = 0xFF then (h, false)
    else
      let xmax := min (x0 + 4) 254
      let sc := x0 + att
      let old := ew.flatMap (fun w => (List.range 4).map (fun k => bitsN (albWord a w).val.toNat (8 * k + 7) (8 * k)))
      let t := mxTry fp8 x0 sc old (ins.map (fun p => mxNum p.1))
      let flags := accFlags (ins.any (·.1.inv)) (ins.any (·.1.ovf)) false t.nan
      let h := if flags = 0 then h else sticky (rg 12 0x44) (BitVec.ofNat 32 flags) h
      if t.ovf && decide (sc < xmax) then (ev 0x76 1 (cntW 12 0x48 1 h), true)
      else
        let sat := t.ovf || t.sat
        let nanB := t.nan && !fp8
        let isNan := (List.range 32).map (fun k =>
          match mxSum (mxDec fp8 (old.getD k 0) x0) (mxNum ((ins.getD k (⟨0, false, false⟩, false)).1)) with
          | .nan _ => true | _ => false)
        let bytes := (t.bytes.zipIdx).map (fun p =>
          if nanB && isNan.getD p.2 false then (Config.mxNanByte (h.free + p.2)).toNat else p.1)
        let scale := if nanB then 0xFF else sc
        let v24 := w24.val.toNat - x0 * 2 ^ (8 * b) + scale * 2 ^ (8 * b)
        let v24 := (BitVec.ofNat 32 v24) ||| BitVec.ofNat 32 ((b2n sat + 2 * b2n t.nan) * 2 ^ 24)
        let w25 := albWord a 25
        let w25 := if w25.poi then w25 else ⟨satAdd w25.val att, false⟩
        let data := a.data.zipIdx.map (fun p =>
          if p.2 = 24 then ⟨v24, false⟩
          else if p.2 = 25 then w25
          else if ew.contains p.2 then
            let q := 4 * (p.2 - 8 * b)
            ⟨BitVec.ofNat 32 (bytes.getD q 0 + bytes.getD (q + 1) 0 * 2 ^ 8 + bytes.getD (q + 2) 0 * 2 ^ 16 +
              bytes.getD (q + 3) 0 * 2 ^ 24), false⟩
          else p.1)
        let h := if nanB then (h.setFree (h.free + 32)) else h
        (updEnt i (fun e => if sat then { e with aux := 1 } else e) (updAlb n (fun a => { a with data := data }) h), false)

/-- The last result of an accumulation is written: it commits (R176, R189, R191). -/
def accCommit (c : Cells Word) (i : Nat) (h : Hw) : Hw :=
  match ent h i with
  | none => h
  | some e =>
    let h := ev 0x73 1 (cntW 12 0x54 1 h)
    let h := if opOf e.req.hdr = 0x11 then ev 0x75 1 h else h
    let h := if e.aux = 1 then ev 0x77 1 (err 12 1 (cnt 12 0x4C 1 h)) else h
    let h := if e.bad then cnt 12 0x50 1 (err 12 0 h) else h
    let h := e.errs.foldl (fun h p =>
      report 7 false (lineSrc c h (lineOf e p.1)) 3 (BitVec.ofNat 32 p.2) e.req.hdr.src h e.req.iseq) h
    let h := e.req.lines.foldl (fun h k =>
      match albFind h k with | some (n, _) => albUse n (some e.req.hdr.src) h | none => h) h
    popAct i (updEnt i (fun e => { e with committed := true, errs := [] }) h)

/-- Operations of entry `i` are still in the cells. -/
def inCells (h : Hw) (i : Nat) : Bool :=
  (h.near.ready ++ h.near.fly).any (fun p => p.2.any (fun o => decide (o.tt = i)))

/-- A group's result is written into the ALB entry (R175, R180 to R191). -/
def accWrite (c : Cells Word) (k : Nat) (o : CellOp) (h : Hw) : Hw :=
  match ent h o.tt, o.grp with
  | some e, some (li, g, att) =>
    let h := cellDrop k o h
    let op := opOf e.req.hdr
    let h :=
      if op = 0x12 ∨ op = 0x13 then
        if g % 2 = 0 then h else
        let (h, again) := mxAttempt o.tt e (g / 2) att h
        if again then
          let mk := fun (g : Nat) => ({ o with grp := some (li, g, att + 1), at_ := clkA h + 1 } : CellOp)
          (h.modNear (fun it => { it with ready := cPut [] it.ready k (cGet [] it.ready k ++ [mk (g - 1), mk g]) }))
        else h
      else groupWrite o.tt e li g h
    if inCells h o.tt then h else accCommit c o.tt h
  | _, _ => h

/-- A TANGO_READ is served from its pair (R184, R191). -/
def tangoServe (c : Cells Word) (i : Nat) (e : Ent) (h : Hw) : Hw :=
  let x := e.req.hdr
  match albFind h (lineOf e 0), albFind h (lineOf e 1) with
  | some (n, a), some (m, b) =>
    let raw := fld x.arg2 15 15 = 1
    let s := fld x.addr 6 6
    let out : List PWord := if raw then
        ((List.range 16).map (fun j => albWord a (16 * s + j))) ++ ((List.range 16).map (fun j => albWord b (16 * s + j)))
      else (List.range 32).map (fun j =>
        let u := albWord a j
        let v := albWord b j
        ⟨BitVec.ofNat 32 (fpAdd fp32 u.val.toNat v.val.toNat).bits, u.poi || v.poi⟩)
    let fl := if raw then 0 else (List.range 32).foldl (fun f j =>
        let u := albWord a j
        let v := albWord b j
        if u.poi || v.poi then f else
        let r := fpAdd fp32 u.val.toNat v.val.toNat
        f ||| accFlags r.inv r.ovf false false) 0
    let w := atomWords x 0
    let ma := maskOf ((bitsOf w 32).filter (fun j => (albWord a j).poi))
    let mb := maskOf ((bitsOf w 32).filter (fun j => (albWord b j).poi))
    let bad := decide (ma ≠ 0 ∨ mb ≠ 0)
    let h := if fl = 0 then h else sticky (rg 12 0x44) (BitVec.ofNat 32 fl) h
    let rep := fun (li mask : Nat) (h : Hw) => if mask = 0 then h else
      report 7 false (lineSrc c h (lineOf e li)) 3 (BitVec.ofNat 32 mask) x.src h e.req.iseq
    let h := if bad then rep 1 mb (rep 0 ma (cnt 12 0x50 1 (err 12 0 h))) else h
    let h := albUse m none (albUse n none h)
    popAct i (updEnt i (fun e => { putWords e retLine 0 out with bad := e.bad || bad }) h)
  | _, _ => h

end Sys2Proof.Machine
end

