-- ==== Sys2Proof/Machine/Queue.lean ====
section
/-! DEFINITION. The queue engine: descriptors (R151, R152), queue operations (R156 to R160), doorbells and events (R161,
R162), and the commands of the QUE page as transactions (R153, R154). -/
namespace Sys2Proof.Machine

/-- A descriptor, word by word (R151). -/
abbrev Desc := List PWord

/-- Word `n` of a descriptor. -/
def Desc.w (d : Desc) (n : Nat) : Word := (d.getD n PWord.zero).val

/-- Byte offset of the ring. -/
def Desc.base (d : Desc) : Nat := fld (d.w 0) 20 0
/-- Number of elements that the ring holds. -/
def Desc.size (d : Desc) : Nat := 2 ^ fld (d.w 1) 4 0
/-- Element-size code. -/
def Desc.es (d : Desc) : Nat := fld (d.w 1) 10 8
/-- EN, and not poisoned. -/
def Desc.en (d : Desc) : Bool := bit (d.w 1) 16 && !(d.getD 1 PWord.zero).poi
/-- Elements dequeued. -/
def Desc.head (d : Desc) : Nat := (d.w 2).toNat
/-- Elements enqueued. -/
def Desc.tail (d : Desc) : Nat := (d.w 3).toNat
/-- Elements in the queue. -/
def Desc.level (d : Desc) : Nat := (d.w 3 - d.w 2).toNat
/-- Doorbell threshold. -/
def Desc.thresh (d : Desc) : Nat := fld (d.w 4) 18 0

/-- A valid descriptor (R152). -/
def Desc.ok (d : Desc) : Bool :=
  match esize d.es with
  | none => false
  | some e =>
    let ring := d.size * e
    decide (128 ≤ ring) && decide (ring ≤ 2 ^ 20) && decide (d.base % ring = 0) && decide (0x10000 ≤ d.base) &&
      decide (d.base + ring ≤ 0x200000) && decide (d.level ≤ d.size) && decide (d.thresh ≤ d.size)

/-- Set of the descriptor of queue `q` in its way q[13:10], and its sector (R150). -/
def queSet (q : Nat) : Nat := bitsN q 9 1
/-- Way of queue `q`. -/
def queWay (q : Nat) : Nat := bitsN q 13 10

/-- The descriptor in the buffer of an entry. -/
def descOf (e : Ent) : Desc := (List.range 16).map (fun n => bufWord e 0 (16 * (e.req.par % 2) + n))

/-- Words of the descriptor's sector, as a mask of its line. -/
def descMask (q : Nat) : Nat := if q % 2 = 1 then 0xFFFF0000 else 0xFFFF

/-- The first steps of every transaction on a descriptor: read its sector, then decide. -/
def queTodo (q : Nat) : List Act := [.rd (queWay q) (queSet q) (1 + q % 2) 0, .go 1]

/-- Poisoned descriptor words at offsets 0x00 to 0x1F. -/
def descPois (d : Desc) : List Nat := (List.range 8).filter (fun n => (d.getD n PWord.zero).poi)

/-- A descriptor word was found poisoned (R160). -/
def descPoison (c : Cells Word) (e : Ent) (d : Desc) (h : Hw) : Hw :=
  if (descPois d).isEmpty then h else
  report 7 false (lineSrc c h (lineOf e 0)) 5 (BitVec.ofNat 32 (maskOf ((descPois d).map (· + 16 * (e.req.par % 2)))))
    e.req.hdr.src (err 11 2 h) e.req.iseq

/-- The operation is an enqueue. -/
def isEnq (k : Kind) : Bool := k == .enq || k == .enqB

/-- Element count that a queue operation asks for: 1 for the single forms (R155). -/
def queN (r : Req) : Nat := match r.kind with | .enq | .deq => 1 | _ => fld r.hdr.arg2 13 8

/-- DONE of R158. -/
def queDone (r : Req) (d : Desc) : Nat :=
  let n := queN r
  let room := if isEnq r.kind then d.size - d.level else d.level
  if n ≤ room then n
  else match r.kind with
    | .enq | .deq => 0
    | _ => if bit r.hdr.arg2 16 then 0 else room

/-- Byte offsets in the way of the words of `done` elements from counter value `k` on, in order (R151). -/
def queBytes (d : Desc) (es k done : Nat) : List Nat :=
  (List.range done).flatMap (fun j =>
    (List.range (es / 4)).map (fun v => d.base + ((k + j) % 2 ^ 32 % d.size) * es + 4 * v))

/-- The distinct lines of a list of byte offsets, in order. -/
def queLines (l : List Nat) : List Nat := l.foldl (fun a b => if a.contains (b / 128) then a else a ++ [b / 128]) []

/-- Words of one line among the offsets, as a mask. -/
def queMask (l : List Nat) (ln : Nat) : Nat := maskOf ((l.filter (fun b => decide (b / 128 = ln))).map (fun b => b % 128 / 4))

/-- Buffer line of a ring line. -/
def queLi (ls : List Nat) (ln : Nat) : Nat := 1 + (ls.findIdx (· == ln))

/-- The status word of R155. -/
def queStatus (done level : Nat) : Nat := done + min level 0xFFFF * 2 ^ 16

/-- What a queue operation posts and rings, as bits: 0 doorbell message, 1 doorbell event, 2 full event, 3 empty event. -/
def queFlags (r : Req) (d : Desc) (done after : Nat) : Nat :=
  let w1 := d.w 1
  let ring := isEnq r.kind && decide (1 ≤ done) && bit w1 17 &&
    (decide (d.level = 0) || (decide (d.thresh ≠ 0) && decide (d.level < d.thresh) && decide (d.thresh ≤ after)))
  b2n (ring && !bit w1 18) + 2 * b2n (ring && bit w1 18) + 4 * b2n (decide (done = 0) && isEnq r.kind && bit w1 19) +
    8 * b2n (decide (done = 0) && !isEnq r.kind && bit w1 20)

/-- The descriptor after the operation, POSTED aside (R158). -/
def queAfter (r : Req) (d : Desc) (done : Nat) : Desc :=
  let enq := isEnq r.kind
  let head := if enq then d.w 2 else d.w 2 + BitVec.ofNat 32 done
  let tail := if enq then d.w 3 + BitVec.ofNat 32 done else d.w 3
  let level := (tail - head).toNat
  let full := fld (d.w 6) 15 0
  let empty := fld (d.w 6) 31 16
  let full := if enq ∧ done = 0 then min 0xFFFF (full + 1) else full
  let empty := if ¬ enq ∧ done = 0 then min 0xFFFF (empty + 1) else empty
  let w7 := if fld (d.w 7) 18 0 < level then (d.w 7 &&& 0xFFF80000) ||| BitVec.ofNat 32 level else d.w 7
  d.zipIdx.map (fun p =>
    if p.2 = 2 then ⟨head, p.1.poi⟩ else if p.2 = 3 then ⟨tail, p.1.poi⟩
    else if p.2 = 6 then ⟨BitVec.ofNat 32 (full + empty * 2 ^ 16), p.1.poi⟩
    else if p.2 = 7 then ⟨w7, p.1.poi⟩ else p.1)

/-- Store a descriptor in an entry's buffer. -/
def putDesc (e : Ent) (d : Desc) : Ent := putWords e 0 (16 * (e.req.par % 2)) d

/-- The end of a queue operation. -/
def queTail : List Act := [.commit, .respond, .sent, .free]

/-- A queue operation that has read its descriptor decides (R156, R158, R160). One that is refused has no effect, whatever an earlier
decision of it was (R159). -/
def queDecide (c : Cells Word) (i : Nat) (e : Ent) (h : Hw) : Hw :=
  let r := e.req
  let d := descOf e
  let h := descPoison c e d h
  let way := queWay r.par
  let none_ := fun (code : BitVec 3) =>
    setTodo i queTail (updEnt i (fun e => { e with code := code, aux := queStatus 0 d.level, aux2 := 0, errs := [] }) h)
  if !d.en ∨ fld r.hdr.arg2 2 0 ≠ d.es then none_ 5
  else if !(descPois d).isEmpty then none_ 2
  else
    let done := queDone r d
    let es := (esize d.es).getD 4
    let enq := isEnq r.kind
    let bs := queBytes d es (if enq then d.tail else d.head) done
    let ls := queLines bs
    let nd := queAfter r d done
    let flags := queFlags r d done nd.level
    let acts := ls.map (fun ln =>
      if enq then Act.wr way ln (queMask bs ln) (queLi ls ln) false else Act.rd way ln (secsOf (queMask bs ln)) (queLi ls ln))
    let lin : Act := .wr way (queSet r.par) (descMask r.par) 0 true
    let h := updEnt i (fun e =>
      let e := putDesc e nd
      let e := if enq then (bs.zip r.pay).foldl (fun e p => putBuf e (queLi ls (p.1 / 128)) (p.1 % 128 / 4) p.2) e else e
      { e with aux := queStatus done nd.level, aux2 := bs.length, code := if done = 0 then 6 else 0
               errs := (0, flags) :: (1, done) :: (2, (d.w 5).toNat) :: (3, d.head) ::
                 ls.map (fun ln => (100 + queLi ls ln, queMask bs ln)) }) h
    setTodo i (acts ++ (if enq then [] else [.go 2]) ++ [lin] ++ queTail) h

/-- A dequeue has read its ring rows: its elements in counter order (R158, R160). -/
def queCollect (i : Nat) (e : Ent) (h : Hw) : Hw :=
  let d := descOf e
  let es := (esize d.es).getD 4
  let g := fun (k : Nat) => ((e.errs.find? (fun p => p.1 = k)).map (·.2)).getD 0
  let bs := queBytes d es (g 3) (g 1)
  let ls := queLines bs
  let ws := bs.map (fun b => bufWord e (queLi ls (b / 128)) (b % 128 / 4))
  popAct i (updEnt i (fun e => { putWords e retLine 0 ws with bad := e.bad || ws.any (·.poi) }) h)

/-- Post an event of this kind for queue `q` (R162): the POSTED bits afterwards. -/
def quePost (q kind : Nat) (posted : Word) (h : Hw) : Hw × Word :=
  if bit posted kind then (h, posted)
  else if h.units.events.length < 64 then
    ((h.modUnits (fun it => { it with events := it.events ++ [(q, kind)] })), setBit posted kind true)
  else (err 11 1 h, posted)

/-- The descriptor write of a queue operation issues: its linearization point (R157, R158, R161, R162). The answer is the
operation with the POSTED bits that the posting leaves. A poisoned POSTED word keeps its mark. (DESIGN CHOICE, log entry 111) -/
def queLin (i : Nat) (op : BankOp) (h : Hw) : Hw × BankOp :=
  match ent h i with
  | none => (h, op)
  | some e =>
    let r := e.req
    let q := r.par
    let g := fun (k : Nat) => ((e.errs.find? (fun p => p.1 = k)).map (·.2)).getD 0
    let flags := g 0
    let done := g 1
    let h := if done ≠ 0 then ev (if isEnq r.kind then 0x79 else 0x7A) done h
      else ev 0x7B 1 (if isEnq r.kind then cntW 11 0x50 1 h else cntW 11 0x54 1 h)
    let h := if flags % 4 ≠ 0 then ev 0x7C 1 h else h
    let p0 := (bufWord e 0 (16 * (q % 2) + 8))
    let (h, p) := if bitN flags 1 then quePost q 0 p0.val h else (h, p0.val)
    let (h, p) := if bitN flags 2 then quePost q 1 p h else (h, p)
    let (h, p) := if bitN flags 3 then quePost q 2 p h else (h, p)
    let h := updEnt i (fun e => { e with wrote := true }) h
    (h, { op with data := op.data.map (fun d => if d.1 = 16 * (q % 2) + 8 then (d.1, pwEnc ⟨p, p0.poi⟩) else d) })

/-- The Doorbell of an enqueue whose completion has left (R161, R366). -/
def queDoorbell (c : Cells Word) (e : Ent) (h : Hw) : Hw :=
  let g := fun (k : Nat) => ((e.errs.find? (fun p => p.1 = k)).map (·.2)).getD 0
  if isEnq e.req.kind && bitN (g 0) 0 then
    let w := g 2
    let l : Label := BitVec.ofNat 12 (bitsN w 27 16)
    send .mp (vcOf 3 (tcOf c (groupOf c l))) { hdr := fromSlice h {
      type := 0x3B, dst := BitVec.ofNat 16 (bitsN w 15 0), label := l,
      addr := BitVec.ofNat 52 (h.rst.id.toNat * 2 ^ 14 + e.req.par), arg2 := BitVec.ofNat 32 e.aux } } h
  else h

/-! ### Commands of the QUE page as transactions -/

/-- Offset of STAGE0. -/
def stageOff : Nat := rg 11 0x80

/-- The staging area. -/
def stage (h : Hw) : Desc := (List.range 16).map (fun k => ⟨roGet h (stageOff + 4 * k), false⟩)

/-- A QUE command that has read its descriptor acts (R153, R154).
(DEDUCED, log entry 41) (DESIGN CHOICE, log entry 109) (DESIGN CHOICE, log entry 112) -/
def queCmdGo (i : Nat) (e : Ent) (code : Nat) (h : Hw) : Hw :=
  let d := descOf e
  let w1 := d.getD 1 PWord.zero
  let q := e.req.par
  let fin := fun (r : Nat) (l : List Act) (h : Hw) =>
    setTodo i (l ++ [.commit, .go 2, .free]) (updEnt i (fun e => { e with aux := r }) h)
  let wr := fun (m : Nat) => Act.wr (queWay q) (queSet q) m 0 false
  let one := 2 ^ (16 * (q % 2) + 1)
  if code = 1 then
    if d.en then fin 5 [] h
    else
      let nd : Desc := (e.req.pay.zipIdx).map (fun p =>
        if p.2 = 1 then ⟨setBit p.1.val 16 false, false⟩
        else if p.2 = 8 then ⟨p.1.val &&& 0xFFFFFFF8, false⟩ else p.1)
      fin 0 [wr (descMask q)] (updEnt i (putDesc · nd) h)
  else if code = 2 then
    if !d.ok || (descPois d).any (fun n => decide (n ≤ 4)) then fin 5 [] h
    else fin 0 [wr one] (updEnt i (putBuf · 0 (16 * (q % 2) + 1) ⟨setBit w1.val 16 true, false⟩) h)
  else if code = 3 then
    if w1.poi then fin 0 [] h
    else fin 0 [wr one] (updEnt i (putBuf · 0 (16 * (q % 2) + 1) ⟨setBit w1.val 16 false, false⟩) h)
  else
    let h := if d.any (·.poi) then err 11 2 h else h
    fin 0 [] ((d.zipIdx).foldl (fun h p => roSet (stageOff + 4 * p.2) (if p.1.poi then 0 else p.1.val) h) h)

/-- The removal of a POSTED bit (R162). (DESIGN CHOICE, log entry 111) -/
def evtClearGo (i : Nat) (e : Ent) (b : Nat) (h : Hw) : Hw :=
  let q := e.req.par
  let n := 16 * (q % 2) + 8
  let w := bufWord e 0 n
  if w.poi then setTodo i [.commit, .free] h
  else setTodo i [.wr (queWay q) (queSet q) (2 ^ n) 0 false, .commit, .free]
    (updEnt i (putBuf · 0 n ⟨setBit w.val b false, false⟩) h)

/-- Descriptors with EN = 1 in the QUEUE ways, spare lines in place of remapped ones (R164): as way and set. -/
def queEnabled (h : Hw) : List (Nat × Nat) :=
  (h.arr.words.filter (fun p => decide (p.1 % 16 = 1))).filterMap (fun p => enabledAt h (p.1 / 262144) (p.1 / 16 % 16384) p.2)
where
  /-- the way and set of word 1 of a row, where it is that of an enabled descriptor -/
  enabledAt (h : Hw) (b row : Nat) (x : Code) : Option (Nat × Nat) :=
    match rowPlace h b row with
    | some (way, set) =>
      let w := (eccDec x).2
      if decide (set < 512) && decide (wayMode h way = 2) && (decide (b = 32) || (lrtSpare h way set).isNone) &&
        bit w.val 16 && !w.poi then some (way, set) else none
    | none => none

end Sys2Proof.Machine
end

