-- ==== Sys2Proof/Machine/Select.lean ====
section
/-! DEFINITION. Quadrille: records (R195 to R200), offers and their merge (R204, R205, R208), resets (R206), and the commands of
the SEL page as transactions (R209). -/
namespace Sys2Proof.Machine

/-- Lines of a record (R196). -/
def recLines (log2k : Nat) : Nat := if log2k ≤ 3 then 1 else 2 ^ (log2k - 3)

/-- The table entry of a record, if valid. -/
def recAt (h : Hw) (n : Nat) : Option Rec := (cFind h.units.recs n).filter (·.valid)

/-- The lines of a record as lines of its way. -/
def recKeys (r : Rec) : List LineKey := (List.range (recLines r.log2k)).map (fun j => .loc r.way (r.set + j))

/-- A value of the record's type as a number that orders as the type does; FP32 and BF16 by sign and magnitude (R198). -/
def selKey (vtype : Nat) (v : Word) : Int :=
  if vtype = 2 then v.toInt
  else if bit v 31 then -((v.toNat % 2 ^ 31 : Nat) : Int) else ((v.toNat % 2 ^ 31 : Nat) : Int)

/-- A NaN of the record's type. -/
def selNan (vtype : Nat) (v : Word) : Bool := vtype ≠ 2 && decide (0x7F800000 < v.toNat % 2 ^ 31)

/-- R198: `a` is better than `b`. -/
def better (r : Rec) (a b : Word) : Bool :=
  if r.smallest then decide (selKey r.vtype a < selKey r.vtype b) else decide (selKey r.vtype b < selKey r.vtype a)

/-- Insert a candidate as the pseudocode of R204 does: from the last slot towards the front while it is better. -/
def selInsert (r : Rec) (k : Nat) (l : List (Word × Word)) (c : Word × Word) : List (Word × Word) :=
  let keep := if l.length < k then l else l.take (k - 1)
  let moved := (keep.reverse.takeWhile (fun x => better r c.1 x.1)).reverse
  keep.take (keep.length - moved.length) ++ [c] ++ moved

/-- A candidate: value, position, poisoned. -/
structure Cand where
  v : Word
  pos : Word
  poi : Bool

/-- Number of candidates that a payload holds (R201). -/
def selN (pairs : Bool) (vtype vlen : Nat) : Nat :=
  if pairs then 8 * (1 + vlen) else 64 * (1 + vlen) / (if vtype = 1 then 2 else 4)

/-- The candidates of an offer (R201). -/
def selCands (r : Req) (vtype : Nat) : List Cand :=
  let x := r.hdr
  (List.range (fld x.arg2 10 4)).map (fun i =>
    if r.kind == .selPairs then
      let v := r.pay.getD (2 * i) PWord.zero
      let p := r.pay.getD (2 * i + 1) PWord.zero
      ⟨if vtype = 1 then v.val <<< 16 else v.val, p.val, v.poi || p.poi⟩
    else
      let (v, p) := inElem r.pay (if vtype = 1 then 2 else 4) i
      ⟨BitVec.ofNat 32 (if vtype = 1 then v * 2 ^ 16 else v), x.arg0.setWidth 32 + BitVec.ofNat 32 i, p⟩)

/-- A record being merged: entries, OFFERS, NAN, candidates that entered. -/
structure Merge where
  ents : List (Word × Word)
  offers : Word
  nan : Bool
  ins : Nat

/-- One candidate of the pseudocode of R204. -/
def mergeOne (r : Rec) (m : Merge) (c : Cand) : Merge :=
  if c.poi then m else
  let m := { m with offers := satAdd m.offers 1 }
  if selNan r.vtype c.v then { m with nan := true } else
  let k := 2 ^ r.log2k
  if m.ents.length = k ∧ ¬ better r c.v ((m.ents.getD (k - 1) (0, 0)).1) then m
  else { m with ents := selInsert r k m.ents (c.v, c.pos), ins := m.ins + 1 }

/-- Word `n` of a record held in the buffer of an entry. -/
def recWord (e : Ent) (n : Nat) : PWord := bufWord e (n / 32) (n % 32)

/-- The record as read: its entries are taken as they are (R204). -/
def mergeOf (r : Rec) (e : Ent) : Merge :=
  let k := 2 ^ r.log2k
  let cnt := min (fld (recWord e 1).val 6 0) k
  { ents := (List.range cnt).map (fun j => ((recWord e (4 + 2 * j)).val, (recWord e (5 + 2 * j)).val))
    offers := (recWord e 2).val, nan := bit (recWord e 3).val 0, ins := 0 }

/-- The words of a record with these contents (R197). -/
def recWords (r : Rec) (m : Merge) : List PWord :=
  let es := m.ents.flatMap (fun p => [(⟨p.1, false⟩ : PWord), ⟨p.2, false⟩])
  let hd : List PWord := [⟨BitVec.ofNat 32 (r.log2k + 16 * r.vtype + 256 * b2n r.smallest), false⟩,
    ⟨BitVec.ofNat 32 m.ents.length, false⟩, ⟨m.offers, false⟩, ⟨BitVec.ofNat 32 (b2n m.nan), false⟩]
  let l := hd ++ es
  l ++ List.replicate (32 * recLines r.log2k - l.length) PWord.zero

/-- The kind is an offer. -/
def isOffer (k : Kind) : Bool := (k == .selOffer) || (k == .selPairs)

/-- The words of the header and of the valid entries, by number. -/
def recLive (r : Rec) (e : Ent) : List Nat :=
  List.range (4 + 2 * min (fld (recWord e 1).val 6 0) (2 ^ r.log2k))

/-- A selection request met poison (R208): one report for each line of the record with poisoned words, or one on the
record's first line where only candidates were poisoned. (DEDUCED, log entry 43) -/
def selPoison (c : Cells Word) (e : Ent) (ws : List Nat) (h : Hw) : Hw :=
  let h := cnt 13 0x5C 1 (err 13 1 h)
  let rep := fun (li mask : Nat) (h : Hw) =>
    report 7 false (lineSrc c h (lineOf e li)) 4 (BitVec.ofNat 32 mask) e.req.hdr.src h e.req.iseq
  if ws.isEmpty then rep 0 0 h else
  (List.range e.req.lines.length).foldl (fun h li =>
    let m := maskOf ((ws.filter (fun n => decide (n / 32 = li))).map (· % 32))
    if m = 0 then h else rep li m h) h

/-- The end of a selection request. -/
def selTail : List Act := [.commit, .respond, .sent, .free]

/-- Reads of every line of the record of an entry. -/
def selReads (e : Ent) : List Act :=
  (e.req.lines.zipIdx).map (fun p => match p.1 with | .loc w s => Act.rd w s 3 p.2 | .pa _ => .commit)

/-- Writes of the lines of the list. -/
def selWrites (e : Ent) (ls : List Nat) : List Act :=
  ls.filterMap (fun j => match lineOf e j with | .loc w s => some (Act.wr w s 0xFFFFFFFF j false) | .pa _ => none)

/-- The record of a request as it stands now; VTYPE of the request must be that of the table entry (R202). -/
def selLive (h : Hw) (r : Req) : Option Rec :=
  match recAt h r.par with
  | some t => if t.vtype = fld r.hdr.arg2 1 0 ∧ recKeys t = r.lines then some t else none
  | none => none

/-- A selection request that has become active and met neither ALB nor Jig (R202 to R206). -/
def selBegin (i : Nat) (e : Ent) (h : Hw) : Hw :=
  match e.req.kind, selLive h e.req with
  | .selReset, some _ => setTodo i [.go 2] h
  | _, some _ => setTodo i (selReads e ++ [.go 1]) h
  | _, none => setTodo i selTail (updEnt i (fun e => { e with code := 5 }) h)

/-- Write the empty record into the buffer and then into the array (R206). -/
def selClear (i : Nat) (e : Ent) (t : Rec) (tail : List Act) (h : Hw) : Hw :=
  let ws := recWords t { ents := [], offers := 0, nan := false, ins := 0 }
  setTodo i (selWrites e (List.range e.req.lines.length) ++ tail) (updEnt i (putWords · 0 0 ws) h)

/-- The lines of a record have been read: an offer goes on to its merge unless the record is poisoned; a SelReadReset keeps
what it returns and resets (R204, R206, R208). -/
def selGo (c : Cells Word) (i : Nat) (e : Ent) (h : Hw) : Hw :=
  match selLive h e.req with
  | none => setTodo i selTail (updEnt i (fun e => { e with code := 5 }) h)
  | some t =>
    match e.req.kind with
    | .selReadReset =>
      let all := (List.range (32 * e.req.lines.length)).filter (fun n => (recWord e n).poi)
      let h := if all.isEmpty then h else selPoison c e all h
      let h := updEnt i (fun e => { putWords e retLine 0 ((List.range (32 * e.req.lines.length)).map (recWord e)) with
        bad := e.bad || !all.isEmpty }) h
      selClear i e t selTail h
    | .selReset => selClear i e t selTail h
    | _ =>
      let live := recLive t e
      let bad := live.filter (fun n => (recWord e n).poi)
      let corr := live.any (fun n => e.errs.any (fun p => decide (p.1 = n / 32) && bitN p.2 (n % 32)))
      if bad.isEmpty then expand i [.merge] (updEnt i (fun e => { e with corr := corr }) h)
      else setTodo i selTail (updEnt i (fun e => { e with bad := true }) (selPoison c e bad h))

/-- CLK_A cycles that a merge unit spends on an offer (R205). -/
def mergeTime (t : Rec) (e : Ent) : Nat :=
  let cs := selCands e.req t.vtype
  let m := mergeOf t e
  let k := 2 ^ t.log2k
  let th := (m.ents.getD (k - 1) (0, 0)).1
  let live := cs.filter (fun c => !c.poi && !selNan t.vtype c.v && (decide (m.ents.length < k) || better t c.v th))
  (cs.length + 15) / 16 + live.length + 2

/-- Offers that wait for a merge unit, lowest intake number first (R205). -/
def mergeNext (h : Hw) : Option (Nat × Ent) :=
  leastBy (fun p => p.2.req.iseq) (h.core.tt.filter (fun p =>
    (p.2.todo.head? == some .merge) && !(h.units.merge.any (fun u => decide (u.2.1 = p.1)))))

/-- The result of a merge unit: the record's changed lines are written (R204). -/
def mergeDone (c : Cells Word) (u i : Nat) (h : Hw) : Hw :=
  let h := h.modUnits (fun it => { it with merge := cDel it.merge u })
  match ent h i with
  | none => h
  | some e =>
    match recAt h e.req.par with
    | none => setTodo i selTail (updEnt i (fun e => { e with code := 5 }) h)
    | some t =>
      let cs := selCands e.req t.vtype
      let m := cs.foldl (mergeOne t) (mergeOf t e)
      let h := if cs.any (fun c => !c.poi && selNan t.vtype c.v) then sticky (rg 13 0x58) 1 h else h
      let pois := cs.any (·.poi)
      let h := if pois then selPoison c e [] h else h
      let ws := recWords t m
      let old := (List.range (32 * e.req.lines.length)).map (recWord e)
      let ls := (List.range e.req.lines.length).filter (fun j =>
        decide ((ws.drop (32 * j)).take 32 ≠ (old.drop (32 * j)).take 32) || decide (j = 0))
      let h := updEnt i (fun e => { putWords e 0 0 ws with
        bad := e.bad || pois, aux := (cs.filter (fun c => !c.poi)).length, aux2 := m.ins }) h
      setTodo i (selWrites e ls ++ [.go 3] ++ selTail) h

/-- An offer has written its lines: it counts (R212). (DEDUCED, log entry 40) -/
def selCount (i : Nat) (e : Ent) (h : Hw) : Hw :=
  popAct i (ev 0x7F e.aux2 (ev 0x7E e.aux (ev 0x7D 1 (cntW 13 0x54 e.aux (cntW 13 0x50 1 h)))))

/-! ### Commands -/

/-- The table entry that SEL.REC_CFG describes (R212). -/
def recOfCfg (x : Word) : Rec :=
  { way := fld x 27 24, set := fld x 13 0, log2k := fld x 18 16, vtype := fld x 21 20, smallest := bit x 22 }

/-- A SEL command that has become active acts (R209). -/
def selCmdGo (i : Nat) (e : Ent) (code : Nat) (h : Hw) : Hw :=
  let n := e.req.par
  let recs := fun (f : Cells Rec → Cells Rec) (h : Hw) => h.modUnits (fun it => { it with recs := f it.recs })
  let fin : List Act := [.commit, .go 2, .free]
  if code = 1 then
    let t := recOfCfg e.req.hdr.arg2
    selClear i e t fin (recs (cIns · n t) h)
  else if code = 2 then setTodo i fin (recs (cUpd · n (fun r => { r with valid := false })) h)
  else match recAt h n with
    | some t => selClear i e t fin h
    | none => setTodo i fin (updEnt i (fun e => { e with aux := 5 }) h)

end Sys2Proof.Machine
end

