-- ==== Sys2Proof/Machine/Galop.lean ====
section
/-! DEFINITION. Engine requests (R214 to R218) and Galop: channels, descriptors, line operations, responses and ends
(R220 to R227), EngineEvents (R245). -/
namespace Sys2Proof.Machine

/-! ### Engine requests -/

/-- How an engine's request starts: local or remote and under way, answered at once with a code, or not yet, its section of the
admission buffer being full (R24, R214, R215, R325). -/
inductive Issue where
  | sent
  | code (v : BitVec 3)
  | full
deriving DecidableEq, Repr

/-- A request header of an engine (R214, R362). -/
def engHdr (type : Nat) (addr : Nat) (rid : Rid) (label : Label) (bmask : BitVec 128) (strm : Bool) : Hdr :=
  { type := BitVec.ofNat 6 type, dfl := if type = 3 then 0 else 2, src := rid, label := label,
    addr := BitVec.ofNat 52 addr, bmask := bmask, strm := strm }

/-- The kind of a local engine request by its type and target. -/
def engKind (type : Nat) (t : Target) : Kind :=
  match t with
  | .pin 0 _ _ => if type = 3 then .readNoSnoop else if type = 4 then .writeInv else .writePart
  | .pin a _ _ => if type = 3 then .readNoSnoop else .aliasW (decide (a = 2))
  | _ => if type = 3 then .readNoSnoop else if type = 4 then .writeInv else .writePart

/-- The home of a line that is not this slice's own: the slice named by the pinned window or an alias, or by the HMT. -/
def farHome (c : Cells Word) (pa : Nat) : Option Nat :=
  if inWin c 0x60 pa || inWin c 0x64 pa || inWin c 0x68 pa then some (bitsN pa 32 25) else homeOf c pa

/-- An engine issues one request: a local transaction enters the low-priority section while that has room, or is answered RETRY for a
bank under a destroying march pass (R215, R302); a line homed elsewhere is requested through MP (R214). (DEDUCED, log entry 114) -/
def engIssue (c : Cells Word) (eng : Eng) (x : Hdr) (pay : List PWord) (par : Nat) (h : Hw) : Hw × Issue :=
  let pa := x.addr.toNat
  let t := decodePa c h pa
  let g := groupOf c x.label
  let tc := max 1 (tcOf c g)
  let loc := fun (_ : Unit) =>
    let r : Req := { iseq := h.core.nextSeq, kind := engKind x.type.toNat t, hdr := x, pay := pay, lines := [lineKey t pa],
                     label := x.label, group := g, tc := tc, eng := some eng, par := par, sect := .lo }
    if marchedLine h (lineKey t pa) then (h, Issue.code 6)
    else if !(sectRoom h .lo) || decBefore h r then (h, Issue.full)
    else ((h.modCore (fun it => { it with nextSeq := it.nextSeq + 1, adm := it.adm ++ [r] })), Issue.sent)
  let far := fun (d : Nat) =>
    let tag := (cFreeFrom h.glp.remote 65536 h.glp.nextTag).getD h.glp.nextTag
    let m : OutMsg := { hdr := { x with
      dkind := 2, dst := BitVec.ofNat 16 d, rtag := BitVec.ofNat 16 tag, bmask := if x.type = 5 then x.bmask else 0 }, pay := pay }
    let rq : Remote := { eng := eng, read := decide (x.type = 3), comp := none, data := none }
    let gl : Glp := { h.glp with nextTag := (tag + 1) % 65536, remote := cIns h.glp.remote tag rq }
    (send .mp (vcOf 0 tc) m (h.setGlp gl), Issue.sent)
  match t with
  | .pin _ _ _ | .home => loc ()
  | .retry => (h, .code 6)
  | .cfg _ | .gate => (h, .code 3)
  | .bad | .nohome =>
    match farHome c pa with
    | some d => if d = h.rst.id.toNat then (h, .code 3) else far d
    | none => (h, .code 3)

/-- An EngineEvent is queued (R245, R365, R366). -/
def engEvent (c : Cells Word) (reel : Bool) (event num : Nat) (code : BitVec 3) (delivered : Nat) (label : Label) (rid : Rid)
    (h : Hw) : Hw :=
  send .mp (vcOf 3 (tcOf c (groupOf c label))) { hdr := fromSlice h {
    type := 0x3C, dst := rid, label := label, resp := code, arg2 := BitVec.ofNat 32 (b2n reel + event * 256)
    arg0 := BitVec.ofNat 64 num, arg1 := BitVec.ofNat 64 (delivered % 2 ^ 32) } } h

/-! ### Descriptors -/

/-- A channel at rest. -/
def Chan.idle : Chan :=
  { st := .idle, desc := 0, words := [], next := 0, ops := [], count := 0, stop := false, err := 0, pois := false,
    corr := false, result := 0 }

/-- Channel `n`. -/
def chanAt (h : Hw) (n : Nat) : Chan := cGet Chan.idle h.glp.chan n

/-- Store channel `n`. -/
def setChan (n : Nat) (k : Chan) (h : Hw) : Hw := h.modGlp (fun it => { it with chan := cPut Chan.idle it.chan n k })

/-- Word at byte offset `o` of the channel's descriptor. -/
def Chan.w (k : Chan) (o : Nat) : Word := k.words.getD (o / 4) 0

/-- A 52-bit address held in two words of the descriptor. -/
def Chan.pa (k : Chan) (o : Nat) : Nat := (k.w o).toNat + fld (k.w (o + 4)) 19 0 * 2 ^ 32

/-- Operation of the descriptor: 1 COPY, 2 FILL, 3 GATHER, 4 SCATTER. -/
def Chan.op (k : Chan) : Nat := fld (k.w 0) 3 0
/-- Element size in bytes. -/
def Chan.es (k : Chan) : Nat := (esize (fld (k.w 0) 6 4)).getD 128
/-- LEN. -/
def Chan.len (k : Chan) : Nat := (k.w 0x20).toNat
/-- LABEL. -/
def Chan.label (k : Chan) : Label := (k.w 4).setWidth 12
/-- PA of the next descriptor. -/
def Chan.nextPa (k : Chan) : Nat := (k.w 0x28).toNat / 64 * 64 + fld (k.w 0x2C) 19 0 * 2 ^ 32

/-- A 64 B aligned address in a PINNED way of this slice, through the pinned window (R221). -/
def descOk (c : Cells Word) (h : Hw) (pa : Nat) : Bool :=
  decide (pa % 64 = 0) && (match decodePa c h pa with | .pin 0 _ _ => true | _ => false)

/-- The checks of R224: the result of the first that fails. -/
def descCheck (c : Cells Word) (h : Hw) (k : Chan) : Option (BitVec 3) :=
  let op := k.op
  let src := k.pa 0x08
  let dst := k.pa 0x10
  let idx := k.pa 0x18
  let len := k.len
  let lin := decide (op = 1 ∨ op = 2)
  let e := k.es
  let bad :=
    decide (op = 0 ∨ 4 < op) || (!lin && (esize (fld (k.w 0) 6 4)).isNone) ||
    (lin && decide (src % 128 ≠ 0 ∨ dst % 128 ≠ 0 ∨ len = 0 ∨ len % 128 ≠ 0)) ||
    (!lin && decide (src % e ≠ 0 ∨ dst % e ≠ 0 ∨ idx % 4 ≠ 0 ∨ len = 0)) ||
    (lin && (decide (op = 1 ∧ 2 ^ 52 < src + len) || decide (2 ^ 52 < dst + len))) ||
    (!lin && (decide (2 ^ 52 < idx + 4 * len) || decide (op = 3 ∧ 2 ^ 52 < dst + len * e) ||
      decide (op = 4 ∧ 2 ^ 52 < src + len * e))) ||
    (decide (k.nextPa ≠ 0) && !descOk c h k.nextPa)
  if bad then some 3 else if tcOf c (groupOf c k.label) = 0 then some 5 else none

/-- Line operations of a descriptor (R223). -/
def Chan.total (k : Chan) : Nat :=
  if k.op ≤ 2 then k.len / 128
  else if k.op = 3 then ((k.pa 0x10) % 128 + k.len * k.es + 127) / 128
  else k.len

/-- Elements that line operation `n` moves: those of one destination line for GATHER, one for SCATTER. -/
def Chan.elems (k : Chan) (n : Nat) : List Nat :=
  if k.op = 3 then
    let d := k.pa 0x10
    let lo := (d / 128 + n) * 128
    let first := if lo ≤ d then 0 else (lo - d) / k.es
    let last := min k.len ((lo + 128 - d) / k.es)
    (List.range (last - first)).map (first + ·)
  else if k.op = 4 then [n] else []

/-- The request that line operation `g` makes next: type, address, payload, byte mask. -/
def gopReq (k : Chan) (g : GOp) : Nat × Nat × List PWord × BitVec 128 :=
  let e := k.es
  let i := g.elems.headD 0
  let buf := (List.range 32).map (cGet PWord.zero g.buf)
  let all := BitVec.allOnes 128
  if g.stage = 0 then (3, (k.pa 0x18 + 4 * i) / 128 * 128, [], 0)
  else if g.stage = 1 then
    let a := if k.op = 1 then k.pa 0x08 + 128 * g.n
      else if k.op = 3 then k.pa 0x08 + g.idx.getD 0 * e else k.pa 0x08 + i * e
    (3, a / 128 * 128 % 2 ^ 52, [], 0)
  else if k.op = 1 then (4, k.pa 0x10 + 128 * g.n, buf, all)
  else if k.op = 2 then (4, k.pa 0x10 + 128 * g.n, List.replicate 32 ⟨k.w 0x24, false⟩, all)
  else if k.op = 3 then
    let d := k.pa 0x10
    let es := k.elems g.n
    let m := BitVec.ofNat 128 (es.foldl (fun m j => m + (2 ^ e - 1) * 2 ^ ((d + j * e) % 128)) 0)
    (if es.length * e = 128 then 4 else 5, (d / 128 + g.n) * 128, buf, m)
  else
    let d := (k.pa 0x10 + g.idx.getD 0 * e) % 2 ^ 52
    (if e = 128 then 4 else 5, d / 128 * 128, buf, BitVec.ofNat 128 ((2 ^ e - 1) * 2 ^ (d % 128)))

/-- A line operation begins. -/
def Chan.start (k : Chan) : GOp :=
  { n := k.next, elems := k.elems k.next, idx := none, buf := [], busy := false,
    stage := if k.op = 1 then 1 else if k.op = 2 then 2 else 0 }

/-- The operation of a channel that may issue a request now: the STATUS write of a descriptor that has ended, else the first line
operation in flight that waits for none, with SCATTER writes in element order (R223), else a new one (R220). -/
def chanNext (c : Cells Word) (k : Chan) : Option GOp :=
  let ready := k.ops.find? (fun g => !g.busy && decide (g.stage ≤ 2) &&
    !(decide (k.op = 4 ∧ g.stage = 2) && k.ops.any (fun o => decide (o.n < g.n) && !(o.busy && decide (o.stage = 2)))))
  match k.ops.find? (fun g => decide (g.stage = 8)) with
  | some g => some g
  | none =>
  match k.st with
  | .loading =>
    if k.ops.isEmpty then some { n := 0, elems := [], idx := none, buf := [], busy := false, stage := 3 } else none
  | .running =>
    match ready with
    | some g => some g
    | none =>
      if k.ops.length < min 64 (max 1 (cf c 14 0x44 6 0)) ∧ k.next < k.total then some k.start else none
  | .draining => if k.err = 0 then ready else none
  | _ => none

/-- Replace or add a line operation of a channel, in order of its number. -/
def Chan.putOp (k : Chan) (g : GOp) : Chan :=
  if k.ops.any (fun o => decide (o.n = g.n)) then { k with ops := k.ops.map (fun o => if o.n = g.n then g else o) }
  else { k with ops := k.ops ++ [g] }

/-- Remove a line operation. -/
def Chan.dropOp (k : Chan) (n : Nat) : Chan := { k with ops := k.ops.filter (fun o => decide (o.n ≠ n)) }

/-- The first 16 words of half `s` of a line. -/
def halfWords (ws : List PWord) (pa : Nat) : List PWord := (ws.drop (16 * (pa / 64 % 2))).take 16

/-- The response to a request of a channel's line operation (R226): after an error what is in flight completes, and nothing is issued
again. (DESIGN CHOICE, log entry 33) -/
def glpResult (n opn : Nat) (desc : Bool) (code : BitVec 3) (ws : List PWord) (h : Hw) : Hw :=
  let k := chanAt h n
  match k.ops.find? (fun g => decide (g.n = opn)) with
  | none => h
  | some g =>
    if code = 6 then
      if !desc ∧ k.err ≠ 0 then setChan n (k.dropOp opn) h
      else setChan n (k.putOp { g with busy := false, again := true, stage := if g.stage = 6 then 8 else g.stage }) h
    else if desc then
      if g.stage = 3 then
        let l := halfWords ws k.desc
        let h := if code = 2 then err 14 2 (cnt 14 0x7C 1 h) else h
        let words := (l.zipIdx).map (fun p => if p.1.poi then Config.poisonWord (h.free + p.2) else p.1.val)
        setChan n { k with words := words, err := if 3 ≤ code.toNat then code else 0, pois := decide (code = 2)
                           corr := decide (code = 1), ops := [{ g with busy := false, stage := 4 }] }
          (h.setFree (h.free + 16))
      else setChan n (k.putOp { g with busy := false, stage := 7 }) h
    else if 3 ≤ code.toNat then
      let k := k.dropOp opn
      setChan n { k with err := if k.err = 0 then code else k.err, st := .draining,
                         ops := k.ops.filter (·.busy) } h
    else
      let rd := decide (g.stage ≤ 1)
      let pois := rd && decide (code = 2)
      let h := if pois then err 14 2 (cnt 14 0x7C 1 h) else h
      let k := { k with pois := k.pois || pois, corr := k.corr || (rd && decide (code = 1)) }
      if g.stage = 2 then
        setChan n { k.dropOp opn with count := k.count + 1 } (ev 0x81 1 (cntW 14 0x70 1 h))
      else if k.err.toNat ≠ 0 then setChan n (k.dropOp opn) h
      else if g.stage = 0 then
        let a := k.pa 0x18 + 4 * g.elems.headD 0
        let w := ws.getD (a % 128 / 4) PWord.zero
        let v := if w.poi then (Config.poisonWord h.free).toNat else w.val.toNat
        setChan n (k.putOp { g with busy := false, stage := 1, idx := some v }) (h.setFree (h.free + b2n w.poi))
      else if k.op = 1 then
        setChan n (k.putOp { g with busy := false, stage := 2, buf := (ws.zipIdx).foldl (fun b p => cPut PWord.zero b p.2 p.1) [] }) h
      else
        let e := k.es
        let i := g.elems.headD 0
        let src := if k.op = 3 then k.pa 0x08 + g.idx.getD 0 * e else k.pa 0x08 + i * e
        let dst := if k.op = 3 then k.pa 0x10 + i * e else k.pa 0x10 + g.idx.getD 0 * e
        let buf := (List.range (e / 4)).foldl (fun b j =>
          cPut PWord.zero b (dst % 128 / 4 + j) (ws.getD (src % 128 / 4 + j) PWord.zero)) g.buf
        let g := if k.op = 3 then { g with elems := g.elems.drop 1, idx := none, buf := buf } else { g with buf := buf }
        setChan n (k.putOp { g with busy := false, stage := if k.op = 3 ∧ !g.elems.isEmpty then 0 else 2 }) h

/-- RESULT of a descriptor (R226). -/
def Chan.res (k : Chan) : BitVec 3 := if k.err ≠ 0 then k.err else if k.pois then 2 else if k.corr then 1 else 0

/-- The STATUS word (R222). -/
def Chan.status (k : Chan) : Word :=
  BitVec.ofNat 32 ((if k.err ≠ 0 then 0 else if k.stop then 2 ^ 30 else 2 ^ 31) + k.res.toNat)

/-- The request that operation `g` of channel `k` makes: type, address, payload, byte mask, label; its own descriptor's read, the STATUS
write of that descriptor, or one of a line operation (R221 to R225). -/
def glpReq (k : Chan) (g : GOp) : Nat × Nat × List PWord × BitVec 128 × Label :=
  if g.stage = 3 then (3, k.desc / 128 * 128, [], 0, 0)
  else if g.stage = 8 then
    let lo := k.desc / 64 % 2 * 16
    let pay := (List.range 32).map (fun w => (⟨if w = lo + 12 then k.status
      else if w = lo + 13 then BitVec.ofNat 32 k.count else 0, false⟩ : PWord))
    (5, k.desc / 128 * 128, pay, BitVec.ofNat 128 (0xFF * 2 ^ (4 * lo + 48)), k.label)
  else
    let (type, addr, pay, m) := gopReq k g
    (type, addr, pay, m, k.label)

/-- Galop issues one line request, of the next channel in rotation that has one; none while the section is full that would take it
(R215, R220). -/
def glpIssue (c : Cells Word) (h : Hw) : Hw :=
  if h.glp.cyc = some (now h) ∨ gavBusy h then h else
  match ((List.range 32).map (fun j => (h.glp.rot + j) % 32)).find? (fun n => (chanNext c (chanAt h n)).isSome) with
  | none => h
  | some n =>
    let k := chanAt h n
    match chanNext c k with
    | none => h
    | some g =>
      let desc := decide (g.stage = 3 ∨ g.stage = 8)
      let (type, addr, pay, m, label) := glpReq k g
      let rid : Rid := BitVec.ofNat 16 (cf c 14 0x40 15 0)
      let strm := decide (g.stage = 2) && bit (k.w 0) 9
      let k := if !desc ∧ g.n = k.next then { k with next := k.next + 1 } else k
      let went := fun (h : Hw) =>
        let h := setChan n (k.putOp { g with busy := true, again := false, stage := if g.stage = 8 then 6 else g.stage }) h
        (if g.again then cntW 14 0x78 1 h else h).modGlp (fun it => { it with rot := (n + 1) % 32, cyc := some (now h) })
      match engIssue c (.glp n g.n desc) (engHdr type addr rid label m strm) pay 0 h with
      | (_, .full) => h
      | (h, .sent) => went h
      | (h, .code v) => glpResult n g.n desc v [] (went h)

/-- A descriptor has been read: it is checked (R224). (DEDUCED, log entry 37) -/
def glpLoaded (c : Cells Word) (n : Nat) (h : Hw) : Hw :=
  let k := chanAt h n
  match k.st, k.ops with
  | .loading, [g] =>
    if g.stage ≠ 4 then h else
    let bad := if k.err ≠ 0 then some k.err else descCheck c h k
    let k := { k with next := 0, count := 0 }
    match bad with
    | some r => setChan n { k with err := r, ops := [{ g with stage := 5 }] } h
    | none =>
      if k.stop then setChan n { k with ops := [{ g with stage := 5 }] } h
      else setChan n { k with st := .running, ops := [] } h
  | _, _ => h

/-- A descriptor ends: STATUS and LINES are to be written as one local WritePartialInvalidate, which goes out in the channel's turn
(R220, R225). -/
def glpEnd (_ : Cells Word) (n : Nat) (h : Hw) : Hw :=
  let k := chanAt h n
  let ends := match k.st with
    | .loading => (match k.ops with | [g] => decide (g.stage = 5) | _ => false)
    | .running => k.ops.isEmpty && decide (k.next = k.total)
    | .draining => k.ops.isEmpty
    | _ => false
  if !ends || gavBusy h then h else
  let h := if k.err ≠ 0 then err 14 1 h else h
  setChan n { k with result := k.res, ops := [{ n := k.next, elems := [], idx := none, buf := [], busy := false, stage := 8 }] } h

/-- The STATUS write has committed: the EngineEvent goes out, and the channel ends or loads the next descriptor (R225). -/
def glpCommit (c : Cells Word) (n : Nat) (h : Hw) : Hw :=
  let k := chanAt h n
  match k.ops with
  | [g] =>
    if g.stage ≠ 7 then h else
    let h := if bit (k.w 0) 8 then
        engEvent c false 0 n k.res 0 k.label (BitVec.ofNat 16 (fld (k.w 4) 31 16)) h else h
    if k.err ≠ 0 then setChan n { k with st := .error, ops := [] } h
    else if k.stop then setChan n { k with st := .stopped, ops := [] } h
    else if k.nextPa = 0 then setChan n { k with st := .done, ops := [] } h
    else setChan n { Chan.idle with st := .loading, desc := k.nextPa, result := k.result } h
  | _ => h

/-- INIT_FILL begins (R229): the beats of GLP.INIT_LINES lines wait at XP one after the other. -/
def fillStart (c : Cells Word) (boot : Bool) (h : Hw) : Hw :=
  h.modGlp (fun it => { it with fill := some { next := 0, total := 2 * cf c 14 0x68 27 0,
                                                         pattern := cfgGet c (rg 14 0x6C), boot := boot } })

/-- No channel is at work (R228). -/
def chansRest (h : Hw) : Bool :=
  (List.range 32).all (fun n => match (chanAt h n).st with | .loading | .running | .draining => false | _ => true)

end Sys2Proof.Machine
end

