-- ==== Sys2Proof/Machine/Reel.lean ====
section
/-! DEFINITION. Reel: contexts and groups (R230 to R232), chunks (R231, R233 to R235), messages, residuals and drops (R236 to
R239), leases and stopping (R240 to R243), poison (R246); and the delivery of a response to either engine. -/
namespace Sys2Proof.Machine

/-- A free context. -/
def Ctx.none_ : Ctx :=
  { st := .free, words := [], started := 0, delivered := 0, lease := 0, active := 0, resends := 0, pois := false, chunks := [],
    stop := false }

/-- Context `n`. -/
def ctxAt (h : Hw) (n : Nat) : Ctx := cGet Ctx.none_ h.reel.ctx n

/-- Store context `n`. -/
def setCtx (n : Nat) (x : Ctx) (h : Hw) : Hw := h.modReel (fun it => { it with ctx := cPut Ctx.none_ it.ctx n x })

/-- Word at byte offset `o` of the defined part of a context. -/
def Ctx.w (x : Ctx) (o : Nat) : Word := x.words.getD (o / 4) 0

/-- SRC. -/
def Ctx.src (x : Ctx) : Nat := (x.w 0).toNat / 4096 * 4096 + fld (x.w 4) 19 0 * 2 ^ 32
/-- TILE. -/
def Ctx.tile (x : Ctx) : Nat := fld (x.w 8) 8 0
/-- STRIDE. -/
def Ctx.stride (x : Ctx) : Nat := (x.w 0xC).toNat / 4096 * 4096
/-- TILES. -/
def Ctx.tiles (x : Ctx) : Nat := fld (x.w 0x10) 23 0
/-- GROUP. -/
def Ctx.group (x : Ctx) : Nat := fld (x.w 0x14) 3 0
/-- D. -/
def Ctx.depth (x : Ctx) : Nat := fld (x.w 0x14) 12 8
/-- SPILL. -/
def Ctx.spill (x : Ctx) : Bool := bit (x.w 0x14) 16
/-- NOTIFY. -/
def Ctx.notify (x : Ctx) : Bool := bit (x.w 0x14) 17
/-- LABEL. -/
def Ctx.label (x : Ctx) : Label := (x.w 0x18).setWidth 12
/-- NOTIFY_RID. -/
def Ctx.rid (x : Ctx) : Rid := BitVec.ofNat 16 (fld (x.w 0x18) 31 16)
/-- Number of chunks of the stream. -/
def Ctx.total (x : Ctx) : Nat := x.tile * x.tiles
/-- Address of chunk k (R231). -/
def Ctx.chunkPa (x : Ctx) (k : Nat) : Nat := x.src + k / x.tile * x.stride + k % x.tile * 4096

/-- PA of a line of the stream: 32 lines for each chunk. -/
def Ctx.linePa (x : Ctx) (line : Nat) : Nat := (x.chunkPa (line / 32) + line % 32 * 128) % 2 ^ 52

/-- The context holds its slots (R233, R242). -/
def Ctx.holds (x : Ctx) : Bool := match x.st with | .running | .expired | .stopping => true | _ => false

/-- REEL.SLOTS.FREE (R233). -/
def slotsFree (h : Hw) : Nat := 64 - (h.reel.ctx.map (fun p => if p.2.holds then p.2.depth else 0)).foldl (· + ·) 0

/-- The valid bits of a group. -/
def groupValid (h : Hw) (g : Nat) : BitVec 32 :=
  BitVec.ofNat 32 (maskOf ((List.range 32).filter (fun m => ((cFind h.reel.mem (32 * g + m)).join).isSome)))

/-- Stream ID of a context (R230). -/
def streamId (h : Hw) (n : Nat) : Nat := h.rst.id.toNat * 64 + n

/-- The EngineEvent of a context (R245). -/
def reelEvent (c : Cells Word) (n event : Nat) (h : Hw) : Hw :=
  let x := ctxAt h n
  if x.notify then engEvent c true event (streamId h n) 0 x.delivered x.label x.rid h else h

/-- A context becomes EXPIRED when its lease is spent and its started chunks are complete (R240): at START at once, else at the end of
the CLK_P cycle, so that a STOP of that cycle comes first (R243). -/
def leaseCheck (c : Cells Word) (n : Nat) (h : Hw) : Hw :=
  let x := ctxAt h n
  if (x.st == .running) && decide (x.lease < 4096) && decide (x.started < x.total) && x.chunks.isEmpty then
    reelEvent c n 1 (ev 0x86 1 (setCtx n { x with st := .expired } h))
  else h

/-- After a change of its chunks or of ACTIVE, a context ends or stops (R239, R241, R242). `fin` = its stream-end chunk is
complete. -/
def ctxSettle (c : Cells Word) (n : Nat) (fin : Bool) (h : Hw) : Hw :=
  let x := ctxAt h n
  if !x.holds then h
  else if fin then reelEvent c n 3 (setCtx n { x with st := .done, chunks := [] } h)
  else if x.stop && x.chunks.isEmpty && decide (x.started < x.total) then
    reelEvent c n 2 (setCtx n { x with st := .stopped } h)
  else h

/-- STOP is applied to a context (R241, R239). -/
def ctxStop (c : Cells Word) (n : Nat) (h : Hw) : Hw :=
  let x := ctxAt h n
  match x.st with
  | .running => ctxSettle c n false (setCtx n { x with stop := true, st := .stopping } h)
  | .expired => ctxSettle c n false (setCtx n { x with stop := true } h)
  | _ => h

/-- RENEW of `b` bytes (R240). -/
def ctxRenew (n b : Nat) (h : Hw) : Hw :=
  let x := ctxAt h n
  let l := min 0xFFFFFFFF (x.lease + b)
  setCtx n { x with lease := l, st := if x.st = .expired ∧ 4096 ≤ l then .running else x.st } h

/-- The chunk has reached every active member (R237). -/
def Chunk.complete (k : Chunk) (active : BitVec 32) : Bool :=
  k.ready && ((active == 0) || (decide (k.next = 32) && k.owed.isEmpty && k.flying.all (fun f => (f.2 &&& active) == 0)))

/-- Chunks that are complete leave, in order of k (R239). -/
def chunksDone (c : Cells Word) (n : Nat) : Nat → Hw → Hw
  | 0, h => h
  | f + 1, h =>
    let x := ctxAt h n
    match x.chunks with
    | k :: r =>
      if x.holds && k.complete x.active then
        let h := ev 0x84 1 (cntW 15 0x54 1 h)
        let h := setCtx n { x with chunks := r, delivered := x.delivered + 1 } h
        chunksDone c n f (ctxSettle c n (decide (k.k + 1 = x.total)) h)
      else h
    | [] => h

/-- Change chunk k of a context. -/
def Ctx.updChunk (x : Ctx) (k : Nat) (f : Chunk → Chunk) : Ctx :=
  { x with chunks := x.chunks.map (fun a => if a.k = k then f a else a) }

/-- A member is dropped from ACTIVE (R238). -/
def dropMember (c : Cells Word) (n k m : Nat) (h : Hw) : Hw :=
  let x := ctxAt h n
  let rid := cGet 0 h.reel.memRid (32 * x.group + m)
  let n5 := rf h 15 0x5C 15 0
  let h := err 15 1 (put 15 0x5C (min 0xFFFF (n5 + 1)) h)
  let h := report 0x11 false (streamId h n) 0 (BitVec.ofNat 32 k) rid h
  let x := { x with active := setBit x.active m false }
  let x := { x with chunks := x.chunks.map (fun a => { a with owed := a.owed.filter (fun o => decide (o.2.1 ≠ m)) }) }
  let h := reelEvent c n 4 (setCtx n x h)
  if x.active = 0 then ctxStop c n h else h

/-- The report of one send: message `m` of chunk `kn` of a context, with its residual mask (R238). One for a chunk that is complete has
no effect. -/
def reelReport (c : Cells Word) (n kn m : Nat) (resid : BitVec 32) (h : Hw) : Hw :=
  let x := ctxAt h n
  match x.chunks.find? (fun k => decide (k.k = kn)) with
  | none => h
  | some k =>
    match k.flying.find? (fun f => decide (f.1 = m)) with
    | none => h
    | some fl =>
      let maxF := max 1 (cf c 15 0x44 3 0)
      let bad := fl.2 &&& resid &&& x.active
      let fails := fun (j : Nat) => ((k.owed.find? (fun o => decide (o.1 = m ∧ o.2.1 = j))).map (·.2.2)).getD 0 + 1
      let rest := k.owed.filter (fun o => !(decide (o.1 = m) && bit fl.2 o.2.1))
      let owe := ((bitsOf bad.toNat 32).filter (fun j => decide (fails j < maxF))).map (fun j => (m, j, fails j))
      let drops := (bitsOf bad.toNat 32).filter (fun j => decide (maxF ≤ fails j))
      let h := setCtx n (x.updChunk k.k (fun a => { a with
        flying := a.flying.filter (· != fl), owed := rest ++ owe })) h
      let h := drops.foldl (fun h j => dropMember c n k.k j h) h
      chunksDone c n 64 h

/-- A response to a source read (R234, R235, R246): the words enter the slot. An error code, for which no rule states what Reel
does, leaves every word of the line poisoned. (DEDUCED, log entry 36) -/
def reelResult (n line : Nat) (code : BitVec 3) (ws : List PWord) (h : Hw) : Hw :=
  let x := ctxAt h n
  match x.chunks.find? (fun k => decide (k.k = line / 32)) with
  | none => h
  | some k =>
    let ws := if 3 ≤ code.toNat then List.replicate 32 PWord.poisoned else ws
    let base := k.slot * 1024 + line % 32 * 32
    let h := h.modReel (fun it => { it with
      sbuf := (ws.zipIdx).foldl (fun b p => cPut 0 b (base + p.2) (pwEnc p.1)) it.sbuf })
    setCtx n (x.updChunk k.k (fun a => { a with missing := a.missing.filter (· != line % 32) })) h

/-- The report of a send, applied after release where Gavotte holds the slice (R219). -/
def reelTell (c : Cells Word) (n k m : Nat) (resid : BitVec 32) (h : Hw) : Hw :=
  if gavBusy h then h.modReel (fun it => { it with late := it.late ++ [(n, k, m, resid)] })
  else reelReport c n k m resid h

/-- The read of a line of a chunk has been issued. -/
def lineAsked (n line : Nat) (h : Hw) : Hw :=
  setCtx n ((ctxAt h n).updChunk (line / 32) (fun a => { a with unread := a.unread.filter (· != line % 32) })) h

/-- The read of a line of a chunk is answered RETRY: it is issued again. -/
def lineAgain (n line : Nat) (h : Hw) : Hw :=
  setCtx n ((ctxAt h n).updChunk (line / 32) (fun a => { a with unread := a.unread ++ [line % 32] })) h

/-- Issue the read of one line of a chunk, where there is room for it; one answered RETRY at once waits for the next cycle (R215, R234,
R302). (DEDUCED, log entry 114) -/
def reelRead (c : Cells Word) (n line : Nat) (h : Hw) : Hw :=
  let x := ctxAt h n
  match engIssue c (.reel n line)
    (engHdr 3 (x.linePa line) (BitVec.ofNat 16 (cf c 15 0x40 15 0)) x.label 0 false) [] (b2n x.spill) h with
  | (h, .sent) => lineAsked n line h
  | (_, .full) => h
  | (h, .code v) => if v = 6 then h else reelResult n line v [] (lineAsked n line h)

/-- Reads that are still to be issued go out, in the order of contexts and chunks (R219, R234). -/
def reelFeed (c : Cells Word) (h : Hw) : Hw :=
  if gavBusy h then h else
  (h.reel.ctx.flatMap (fun p => p.2.chunks.flatMap (fun k => k.unread.map (fun l => (p.1, 32 * k.k + l))))).foldl
    (fun h p => reelRead c p.1 p.2 h) h

/-- A context may start its next chunk (R234). -/
def canStart (h : Hw) (n : Nat) : Bool :=
  let x := ctxAt h n
  (x.st == .running) && decide (x.chunks.length < x.depth) && decide (4096 ≤ x.lease) && decide (x.started < x.total) &&
    !gavBusy h

/-- The lowest slot that no chunk occupies. -/
def freeSlot (h : Hw) : Nat :=
  let used := h.reel.ctx.flatMap (fun p => p.2.chunks.map (·.slot))
  ((List.range 64).find? (fun s => !(used.contains s))).getD 0

/-- Reel starts one chunk, of the next context in rotation (R234). -/
def chunkStart (c : Cells Word) (h : Hw) : Hw :=
  if h.reel.cyc = some (now h) then h else
  match ((List.range 64).map (fun j => (h.reel.rot + j) % 64)).find? (canStart h) with
  | none => h
  | some n =>
    let x := ctxAt h n
    let k : Chunk := { k := x.started, slot := freeSlot h, missing := List.range 32, unread := List.range 32, ready := false
                       next := 0, owed := [], flying := [] }
    let h := setCtx n { x with started := x.started + 1, lease := x.lease - 4096, chunks := x.chunks ++ [k] } h
    let h := ev 0x83 1 (h.modReel (fun it => { it with rot := (n + 1) % 64, cyc := some (now h) }))
    (List.range 32).foldl (fun h l => reelRead c n (32 * k.k + l) h) h

/-- All lines of a chunk are in its slot: it is ready (R235). -/
def chunkReady (c : Cells Word) (n : Nat) (h : Hw) : Hw :=
  let x := ctxAt h n
  match x.chunks.find? (fun k => k.missing.isEmpty && !k.ready) with
  | none => h
  | some k => chunksDone c n 64 (setCtx n (x.updChunk k.k (fun a => { a with ready := true })) h)

/-- The message that a context sends next: a re-send before a new one, and one re-send of a message at a time (R237, R238): chunk,
message, member of a re-send. -/
def nextChunkMsg (x : Ctx) : Option (Chunk × Nat × Option Nat) :=
  match x.chunks with
  | [] => none
  | k :: _ =>
    if !k.ready then none else
    let due := k.owed.filter (fun o => !(k.flying.any (fun f => decide (f.1 = o.1) && bit f.2 o.2.1)))
    match due.find? (fun o => !(k.flying.any (fun f => decide (f.1 = o.1)))) with
    | some o => some (k, o.1, some o.2.1)
    | none => if !due.isEmpty then none else if k.next < 32 ∧ x.active ≠ 0 then some (k, k.next, none) else none

/-- The member that the report of a poisoned message names: the one of a re-send, else the lowest-numbered one that the message goes
to. (DESIGN CHOICE, log entry 118) -/
def chunkRid (h : Hw) (x : Ctx) (mask : BitVec 32) : Rid :=
  match (bitsOf mask.toNat 32).head? with
  | some m => cGet 0 h.reel.memRid (32 * x.group + m)
  | none => ownRid

/-- A context sends one StreamChunk (R236, R246). `upsets` are the code bits of the slot's words that have changed. -/
def chunkSend (c : Cells Word) (n : Nat) (upsets : List (Nat × Code)) (h : Hw) : Hw :=
  let x := ctxAt h n
  if !x.holds || gavBusy h || decide (cGet 0 h.reel.lists x.group ≠ 0) then h else
  match nextChunkMsg x with
  | none => h
  | some (k, m, re) =>
    let base := k.slot * 1024 + m * 32
    let rd := (List.range 32).map (fun w =>
      eccDec (cGet 0 h.reel.sbuf (base + w) ^^^ ((upsets.find? (fun u => decide (u.1 = w))).map (·.2)).getD 0))
    let ce := (rd.filter (fun p => p.1 == .corr)).length
    let pay := rd.map (·.2)
    let pois := pay.any (·.poi)
    let mask : BitVec 32 := match re with | some j => BitVec.ofNat 32 (2 ^ j) | none => x.active
    let h := cnt 15 0x68 ce h
    let h := if re.isSome then ev 0x85 1 (cntW 15 0x58 1 h) else h
    let h := if pois then
        report 0x11 false (streamId h n) 1 (BitVec.ofNat 32 k.k) (chunkRid h x mask) (cnt 15 0x60 1 (err 15 2 h)) else h
    let x := { x with pois := x.pois || pois, resends := if re.isSome then satAdd x.resends 1 else x.resends }
    let h := setCtx n (x.updChunk k.k (fun a => { a with
      next := if re.isSome then a.next else a.next + 1, flying := a.flying ++ [(m, mask)] })) h
    let tileEnd := decide ((k.k + 1) % x.tile = 0)
    let strEnd := decide (k.k + 1 = x.total)
    let hd := fromSlice h {
      type := 0x1C, dfl := 2, dkind := 3, dst := BitVec.ofNat 16 (2 ^ 14 + x.group), label := x.label
      bmask := mask.setWidth 128, arg2 := BitVec.ofNat 32 (streamId h n)
      arg0 := BitVec.ofNat 64 (k.k + m * 2 ^ 32 + b2n tileEnd * 2 ^ 40 + b2n strEnd * 2 ^ 41) }
    send .mp (vcOf 4 (max 1 (tcOf c (groupOf c x.label)))) { hdr := hd, pay := pay, note := .chunk n k.k m } h

/-- A write of REEL.GRP_DATA (R232, R370). -/
def groupWriteReg (c : Cells Word) (d : Word) (h : Hw) : Hw :=
  let g := cf c 15 0x4C 19 16
  let m := cf c 15 0x4C 4 0
  if h.reel.ctx.any (fun p => p.2.holds && decide (p.2.group = g)) then err 15 0 h
  else
    let rid : Rid := d.setWidth 16
    let v := bit d 31
    let h := h.modReel (fun it => { it with
      mem := if v then cIns it.mem (32 * g + m) (some rid) else cDel it.mem (32 * g + m)
      memRid := cPut 0 it.memRid (32 * g + m) rid
      lists := cPut 0 it.lists g (cGet 0 it.lists g + 1) })
    send .mp (vcOf 3 1) { hdr := fromSlice h {
      type := 0x2C, dkind := 2, dst := 0xFFFF, arg2 := BitVec.ofNat 32 (g + m * 256 + b2n v * 2 ^ 31)
      arg0 := BitVec.ofNat 64 rid.toNat } } h

/-- A response reaches the engine that issued the request (R226, R235); a Reel request answered RETRY is issued again, in the next
cycle. -/
def engResult (e : Eng) (code : BitVec 3) (ws : List PWord) (h : Hw) : Hw :=
  match e with
  | .glp ch op d => glpResult ch op d code ws h
  | .reel n l => if code = 6 then lineAgain n l h else reelResult n l code ws h

/-- A response reaches an engine, after release where Gavotte holds the slice. (DEDUCED, log entry 79) -/
def engDeliver (_ : Cells Word) (e : Eng) (code : BitVec 3) (ws : List PWord) (h : Hw) : Hw :=
  if gavBusy h then h.modGlp (fun it => { it with late := it.late ++ [(e, code, ws)] })
  else engResult e code ws h

end Sys2Proof.Machine
end

