-- ==== Sys2Proof/Machine/Protect.lean ====
section
/-! DEFINITION. Protection of the arrays: raw accesses, repair transactions (R282 to R284), the Line Remap Table (R286 to
R291), lasting errors and automatic way disable (R292 to R294), the scrubber (R296 to R299), and the checker (R300). -/
namespace Sys2Proof.Machine

/-! ### Row accesses of the slice's own transactions -/

/-- Buffer lines of a protection transaction: 0 first read, 1 XP data, 2 check read, 3 other row. The class of a word stands 8
lines further on, its stored data bits 16, its stored check bits 24. -/
def clsLine (li : Nat) : Nat := li + 8

/-- A class as a number: 0 clean, 1 correctable, 2 poison mark, 3 uncorrectable. -/
def clsNum (x : EccCls) : Nat := match x with | .clean => 0 | .corr => 1 | .mark => 2 | .unc => 3

/-- Stored bits that a read of entry `i`'s transaction returns, with words, classes and stored bits (R283, R300). -/
def rowRead (op : BankOp) (upsets : List (Nat × Code)) (h : Hw) (e : Ent) : Ent :=
  op.done.foldl (fun e sr => (List.range 16).foldl (fun e w =>
    let n := 16 * sr.1 + w
    let x := if op.bank < 32 ∧ (pwr h op.bank).dead then eccMark 0
      else wordAt h op.bank sr.2 w ^^^ ((upsets.find? (fun u => decide (u.1 = n))).map (·.2)).getD 0
    let d := eccDec x
    let num := fun (v : Nat) => (⟨BitVec.ofNat 32 v, false⟩ : PWord)
    putBuf (putBuf (putBuf (putBuf e op.li n d.2) (clsLine op.li) n (num (clsNum d.1)))
      (op.li + 16) n ⟨codeData x, false⟩) (op.li + 24) n (num (codeCheck x).toNat)) e) e

/-- Class number of a word read into buffer line `li`. -/
def clsAt (e : Ent) (li n : Nat) : Nat := (bufWord e (clsLine li) n).val.toNat

/-- A bank operation of entry `i` on the rows given, sector and row. -/
def rowOp (i : Nat) (e : Ent) (way set b : Nat) (rows : List (Nat × Nat)) (write : Bool) (data : List (Nat × Code))
    (li : Nat) (raw : Bool) : BankOp :=
  { own := .tt i, who := whoOf e.req, master := some .repair, line := lineOf e 0, way := way, set := set, bank := b,
    rows := rows, done := [], write := write, data := data, li := li, raw := raw, lin := false }

/-- Entry `i` asks for a bank operation and waits. -/
def askOp (i : Nat) (op : BankOp) (h : Hw) : Hw := enqOp op (setBusy i h)

/-- The lines on which work on a way and set is ordered (R282): the pinned-window or QUEUE line, or the line that the tag
entry names; none where a CACHE entry is invalid. -/
def placeLines (h : Hw) (way set : Nat) : List LineKey :=
  let m := wayMode h way
  if m = 0 then
    let t := tagAt h set way
    if t.valid then [.pa (lineAt set t.tag)] else []
  else if m = 3 then []
  else [.loc way set]

/-- A request of the slice's own work: no label, no requester of its own (R282). -/
def ownReq (h : Hw) (kind : Kind) (lines : List LineKey) (par : Nat) (rid : Rid) : Req :=
  let l := Config.workLabel h.free
  { iseq := h.core.nextSeq, kind := kind, hdr := { type := 0, src := rid }, lines := lines, label := l,
    group := l.toNat % 256, tc := l.toNat / 256 % 4, counted := false, par := par, sect := .int }

/-! ### The Line Remap Table -/

/-- Entries and spare lines taken by a remap in progress: kept by its transaction. -/
def lrtTaken (h : Hw) (tag : Nat) : List Nat :=
  h.core.tt.flatMap (fun p => (p.2.errs.filter (fun x => decide (x.1 = tag))).map (·.2))

/-- A spare line is marked bad. -/
def spareBad (h : Hw) (n : Nat) : Bool := bit (roGet h (rg 19 0x44)) n

/-- The lowest-numbered free entry. -/
def lrtFree (h : Hw) : Option Nat :=
  (List.range 32).find? (fun n => (cFind h.prot.lrt n).isNone && !((lrtTaken h 200).contains n))

/-- The lowest-numbered spare line that is neither in use nor bad. -/
def spareFree (h : Hw) : Option Nat :=
  (List.range 32).find? (fun n => !(spareBad h n) && !(h.prot.lrt.any (fun p => decide (p.2.2.2 = n))) &&
    !((lrtTaken h 201).contains n))

/-- The entry that maps a way and set. -/
def lrtEntry (h : Hw) (way set : Nat) : Option Nat :=
  (cSeek (fun _ e => decide (e.1 = way) && decide (e.2.1 = set)) h.prot.lrt).map (·.1)

/-- Operations of a line move with it: those that wait go to the line's new rows, and those under way store there. -/
def lrtMoved (way set : Nat) (old : Nat) (h : Hw) : Hw :=
  let mine := fun (op : BankOp) => decide (op.way = way ∧ op.set = set) && (op.own != .march) && (op.master != some .repair)
  let goes := fun (op : BankOp) =>
    let mv := fun (l : List (Nat × Nat)) => l.map (fun r => (r.1, (place h way set r.1).2))
    { op with bank := (place h way set 0).1, rows := mv op.rows, done := mv op.done }
  let k := bank h old
  let h := setBank old { k with
    pend := k.pend.filter (fun op => !mine op)
    cur := k.cur.map (fun op => if mine op then goes op else op)
    fly := k.fly.map (fun op => if mine op then goes op else op) } h
  (k.pend.filter mine).foldl (fun h op => enqOp (goes op) h) h

/-- Another entry than `n` maps the way and set already: a remap that comes second sets none (R286). (DEDUCED, log entry 116) -/
def lrtOther (h : Hw) (n way set : Nat) : Bool := match lrtEntry h way set with | some m => decide (m ≠ n) | none => false

/-- An entry is set: lookups of the way and set go to the spare line from now on (R287). -/
def lrtSet (n way set spare : Nat) (h : Hw) : Hw :=
  let old := (place h way set 0).1
  lrtMoved way set old (h.modProt (fun it => { it with lrt := cIns it.lrt n (way, set, spare) }))

/-- An entry is cleared (R291). -/
def lrtClear (way set : Nat) (h : Hw) : Hw :=
  match lrtEntry h way set with
  | some n => lrtMoved way set 32 (h.modProt (fun it => { it with lrt := cDel it.lrt n }))
  | none => h

/-- The log entry of a remap (R287): kind REMAP, place form, bit n for spare line n. -/
def remapReport (way set cls mask : Nat) (h : Hw) : Hw :=
  report 4 true (placeSrc way set) cls (BitVec.ofNat 32 mask) ownRid h

/-- Copy both rows of a way and set into spare line `n`, corrected, with poison marks kept. -/
def copyRows (way set n : Nat) (h : Hw) : Hw :=
  (List.range 32).foldl (fun h' w =>
    let p := place h way set (w / 16)
    storeWord 32 (2 * n + w / 16) (w % 16) (pwEnc (eccDec (wordAt h p.1 p.2 (w % 16))).2) h') h

/-- The stored bits of both rows of a line that is about to move, kept where the move is ordered on no line. -/
def rowSnap (h : Hw) (src : Nat → Nat × Nat) (e : Ent) : Ent :=
  (List.range 32).foldl (fun e w =>
    let x := wordAt h (src (w / 16)).1 (src (w / 16)).2 (w % 16)
    putBuf (putBuf e 20 w ⟨codeData x, false⟩) 28 w ⟨(codeCheck x).setWidth 32, false⟩) e

/-- No entry or no good spare line is free (R289). -/
def lrtFull (way set : Nat) (h : Hw) : Hw := err 19 1 (remapReport way set 2 0 h)

/-- Spare line `n` is marked bad (R288). (DEDUCED, log entry 49) -/
def markSpare (way set n : Nat) (h : Hw) : Hw :=
  err 19 2 (remapReport way set 1 (2 ^ n) (roPut (rg 19 0x44) (setBit (roGet h (rg 19 0x44)) n true) h))

/-! ### Lasting errors and way disable -/

/-- R294: a way at the threshold that is kept. -/
def wayKept (way : Nat) (h : Hw) : Hw :=
  let w := roGet h (rg 17 0x98)
  if bit w way then h else
  err 17 2 (report 5 false way 1 0 ownRid (roPut (rg 17 0x98) (setBit w way true) h))

/-- The way waits to be disabled (R293). -/
def disQueued (h : Hw) (way : Nat) : Bool := h.prot.disWait.any (fun d => decide (d.1 = way))

/-- A way is to be disabled: it waits from this CLK_C cycle on, in which a LOCK is still applied first (R293, R295). -/
def disAdd (way : Nat) (h : Hw) : Hw := h.modProt (fun it => { it with disWait := it.disWait ++ [(way, clkC h)] })

/-- A lasting error in a way: its count, and what the threshold asks for (R292 to R294). -/
def wayLasting (c : Cells Word) (way : Nat) (h : Hw) : Hw :=
  let o := 0xC0 + 4 * way
  let n := min 255 (rf h 17 o 7 0 + 1)
  let h := put 17 o n h
  let thr := cf c 17 0x44 7 0
  if thr = 0 ∨ n < thr then h
  else if h.prot.dis.any (fun d => decide (d.1 = way)) || disQueued h way then h
  else if wayMode h way = 0 ∧ ¬ h.home.locked.contains way then disAdd way h
  else if wayMode h way = 3 then h
  else wayKept way h

/-- The line of a repair, or the place where it is ordered on no line (R319). -/
def repairSrc (c : Cells Word) (h : Hw) (e : Ent) (way set : Nat) : Bool × Nat :=
  match e.req.lines with
  | k :: _ => (false, lineSrc c h k)
  | [] => (true, placeSrc way set)

/-- Reports of classified words, one for each CLASS (R283). -/
def classReports (c : Cells Word) (kind : Nat) (e : Ent) (way set : Nat) (zero one : List Nat) (h : Hw) : Hw :=
  let (form, src) := repairSrc c h e way set
  let rep := fun (cls : Nat) (l : List Nat) (h : Hw) => if l.isEmpty then h else
    report kind form src cls (BitVec.ofNat 32 (maskOf l)) e.req.hdr.src h e.req.iseq
  rep 1 one (rep 0 zero h)

/-! ### Repair transactions -/

/-- Bank of the row that a repair is for. -/
def repBank (e : Ent) : Nat := e.req.par / 16384
/-- Row of the row that a repair is for. -/
def repRow (e : Ent) : Nat := e.req.par % 16384
/-- Sector of the row. -/
def repSec (e : Ent) : Nat := repRow e % 2

/-- The way and set of a repair's row; for a spare line that maps no line, none. -/
def repPlace (h : Hw) (e : Ent) : Option (Nat × Nat) := rowPlace h (repBank e) (repRow e)

/-- The words that the first read found in error. -/
def repFirst (e : Ent) : List Nat := (List.range 32).filter (fun n => (e.req.pay.getD n PWord.zero).poi)

/-- The words that the fresh read found in error. -/
def repErrs (e : Ent) : List Nat :=
  (List.range 16).map (16 * repSec e + ·) |>.filter (fun n => clsAt e 0 n = 1 || clsAt e 0 n = 3)

/-- The words that step 2 writes, with what it writes: the whole sector from XP, or the erroneous words (R283, R284). -/
def repWritten (e : Ent) : List (Nat × PWord) :=
  if bitN e.aux2 1 then (List.range 16).map (fun w => (16 * repSec e + w, bufWord e 1 (16 * repSec e + w)))
  else (repErrs e).map (fun n => (n, bufWord e 0 n))

/-- A good copy of the row's sector lies outside the array (R284). -/
def repClean (h : Hw) (e : Ent) : Option Nat :=
  match e.req.lines, repPlace h e with
  | [.pa ln], some (way, set) =>
    let t := tagAt h set way
    if wayMode h way = 0 ∧ t.valid ∧ lineAt set t.tag = ln ∧ ¬ (if repSec e = 0 then t.d0 else t.d1) then some ln else none
  | _, _ => none

/-- The words of the failing row as step 2 wrote them or meant to. -/
def repRowWords (e : Ent) : List (Nat × PWord) :=
  (List.range 16).map (fun w =>
    let n := 16 * repSec e + w
    (n, ((repWritten e).find? (fun p => decide (p.1 = n))).map (·.2) |>.getD (bufWord e 0 n)))

/-- The pass in progress counts what its repair did: the erroneous words that it wrote corrected or from XP, and every word that it
marked (R298). -/
def scrubSum (e : Ent) (h : Hw) : Hw :=
  if !bitN e.aux2 0 ∨ h.prot.scrub.isNone then h else
  let marked := ((repWritten e).filter (·.2.poi)).map (·.1)
  cnt 17 0x5C marked.length (cnt 17 0x58 ((repErrs e).filter (fun n => !(marked.contains n))).length h)

/-- The end of a repair. -/
def repTail : List Act := [.commit, .free]

/-- A remap for entry `i`, whose line stands in this way and set, takes its entry and spare line (R287, R288): the acts that
move it. -/
def repMove (i : Nat) (way set : Nat) (n : Option Nat) (h : Hw) : Hw :=
  match n.orElse (fun _ => lrtFree h), spareFree h with
  | some k, some s =>
    setTodo i ([.go 4, .go 5, .go 6] ++ repTail) (updEnt i (fun e => { e with errs := [(200, k), (201, s)] }) h)
  | _, _ => setTodo i repTail (lrtFull way set h)

/-- A repair step decides (R283): after the fresh read, and after the check read. -/
def repairDecide (c : Cells Word) (i : Nat) (e : Ent) (h : Hw) : Hw :=
  let (way, set) := (repPlace h e).getD (0, 0)
  if e.aux = 0 then
    if (repErrs e).isEmpty then
      let f := repFirst e
      setTodo i repTail (classReports c 1 e way set f [] (cnt 17 0x88 f.length h))
    else
      let h := updEnt i (fun e => { e with aux := 1 }) h
      let rest : List Act := [.go 2, .go 3, .step]
      match repClean h e with
      | some ln =>
        if (repErrs e).any (fun n => decide (clsAt e 0 n = 3)) then
          setTodo i (.xrd (ln * 128) (2 ^ repSec e) 1 :: rest) (updEnt i (fun e => { e with aux2 := e.aux2 ||| 2 }) h)
        else setTodo i rest h
      | none => setTodo i rest h
  else
    let good := (repWritten e).all (fun p => decide (clsAt e 2 p.1 = 0) || (decide (clsAt e 2 p.1 = 2) && p.2.poi))
    let ws := repErrs e
    let isMark := fun (n : Nat) => (repWritten e).any (fun p => decide (p.1 = n) && p.2.poi)
    let one := ws.filter isMark
    let zero := ws.filter (fun n => !isMark n)
    let h := scrubSum e h
    if good then setTodo i repTail (classReports c 1 e way set zero one (cnt 17 0x88 ws.length h))
    else
      let h := classReports c 2 e way set zero one (cnt 17 0x8C ws.length h)
      if repBank e < 32 then
        let h := wayLasting c way h
        if (lrtSpare h way set).isSome then setTodo i repTail h else repMove i way set none h
      else
        let n := repRow e / 2
        match repPlace h e with
        | some _ => repMove i way set (lrtEntry h way set) (markSpare way set n (wayLasting c way h))
        | none =>
          setTodo i repTail (err 19 2 (roPut (rg 19 0x44) (setBit (roGet h (rg 19 0x44)) n true) h))

/-- Phase `n` of a repair: 1 the fresh read, 2 the repair write, 3 the check read, 4 the read of the other row, 5 the write of
the spare line, 6 the entry is set. -/
def repairGo (i : Nat) (e : Ent) (n : Nat) (h : Hw) : Hw :=
  let b := repBank e
  let (way, set) := (repPlace h e).getD (0, 0)
  let here := [(repSec e, repRow e)]
  let other := [(1 - repSec e, if repSec e = 0 then repRow e + 1 else repRow e - 1)]
  let get := fun (t : Nat) => ((e.errs.find? (fun p => decide (p.1 = t))).map (·.2)).getD 0
  let s := get 201
  if n = 1 then askOp i (rowOp i e way set b here false [] 0 true) h
  else if n = 2 then askOp i (rowOp i e way set b here true ((repWritten e).map (fun p => (p.1, pwEnc p.2))) 0 true) h
  else if n = 3 then askOp i (rowOp i e way set b here false [] 2 true) h
  else if n = 4 then askOp i (rowOp i e way set b other false [] 3 false) h
  else if n = 5 then
    let rest := (List.range 16).map (fun w => (16 * (1 - repSec e) + w, bufWord e 3 (16 * (1 - repSec e) + w)))
    let h := if e.req.lines.isEmpty then updEnt i (rowSnap h (fun sec => place h way set sec)) h else h
    askOp i (rowOp i e way set 32 [(0, 2 * s), (1, 2 * s + 1)] true
      ((repRowWords e ++ rest).map (fun p => (p.1, pwEnc p.2))) 0 true) h
  else if lrtOther h (get 200) way set then popAct i (updEnt i (fun e => { e with errs := [] }) h)
  else
    let h := lrtSet (get 200) way set s h
    let h := if bitN e.aux2 0 ∧ h.prot.scrub.isSome then put 17 0x68 (min 255 (rf h 17 0x68 7 0 + 1)) h else h
    popAct i (updEnt i (fun e => { e with errs := [] }) (ev 0x8F 1 (remapReport way set 0 (2 ^ s) h)))

/-- A repair has committed (R282, R297). -/
def repairEnd (e : Ent) (h : Hw) : Hw :=
  let h := ev 0x8E 1 h
  match h.prot.scrub with
  | some s => if bitN e.aux2 0 then (h.modProt (fun it => { it with scrub := some { s with left := s.left - 1 } })) else h
  | none => h

/-! ### The checker and the LRT commands -/

/-- Way, set, sector and word of ECC.CHK_ADDR (R309). -/
def chkPlace (x : Word) : Nat × Nat × Nat × Nat := (fld x 31 28, fld x 25 12, fld x 4 4, fld x 3 0)

/-- Phase `n` of a checker command (R300): 1 its access, 2 its results. -/
def chkGo (i : Nat) (e : Ent) (n : Nat) (h : Hw) : Hw :=
  match h.prot.chk with
  | none => popAct i h
  | some (a, d, p) =>
    let (way, set, sec, w) := chkPlace a
    let (b, row) := place h way set sec
    let k := 16 * sec + w
    if n = 1 then
      if e.req.kind == .chkWrite then
        askOp i (rowOp i e way set b [(sec, row)] true [(k, codeOf d (p.setWidth 7))] 0 true) h
      else askOp i (rowOp i e way set b [(sec, row)] false [] 0 true) h
    else
      let h := ((h.modUnits (fun it => { it with chkEnd := true })).modProt (fun it => { it with chk := none }))
      if e.req.kind == .chkWrite then popAct i h else
      let dat := (bufWord e 16 k).val
      let chk := (bufWord e 24 k).val
      let s := syndrome (codeOf dat (chk.setWidth 7))
      let cls := match clsAt e 0 k with
        | 0 => 0
        | 1 => if ones s.toNat 7 = 1 then 1 else 2
        | 2 => 3
        | _ => 4
      popAct i (put 17 0x78 (cls * 256 + s.toNat) (roSet (rg 17 0x74) chk (roSet (rg 17 0x70) dat h)))

/-- SET_MODE runs on a way, as its page shows it: a command, or the automatic disable of R293. (DEDUCED, log entry 117) -/
def setRuns (h : Hw) (w : Nat) : Bool := (setting h w).isSome || h.prot.dis.any (fun d => decide (d.1 = w))

/-- A march pass runs on bank `b`. -/
def bankMarched (h : Hw) (b : Nat) : Bool := match h.prot.march with | some m => bit m.banks b | none => false

/-- The conditions on the line that MAP and UNMAP share (R306). -/
def lrtWayBad (h : Hw) (w set : Nat) : Bool :=
  decide (wayMode h w = 3) || setRuns h w || bankMarched h (bankOf w set)

/-- Way and set of a line whose move is ordered on no line. -/
def moveOf (h : Hw) (e : Ent) : Option (Nat × Nat) :=
  if !e.req.lines.isEmpty then none
  else match e.req.kind with
    | .repair => repPlace h e
    | .lrtMap | .lrtUnmap => some (e.req.par / 16384, e.req.par % 16384)
    | _ => none

/-- A write of entry `e` has put a moving line into its new rows: words of the line that have been written since they were kept move
too, since no order holds such a write back from a move that is ordered on no line (R282). (DEDUCED, log entry 116) -/
def moveLate (e : Ent) (op : BankOp) (h : Hw) : Hw :=
  match moveOf h e with
  | none => h
  | some (way, set) =>
    if op.done.any (fun r => decide ((op.bank, r.2) = place h way set r.1)) then h
    else (List.range 32).foldl (fun h' w =>
      let p := place h way set (w / 16)
      let x := wordAt h p.1 p.2 (w % 16)
      if x = codeOf (bufWord e 20 w).val ((bufWord e 28 w).val.setWidth 7) then h'
      else match op.done.find? (fun r => decide (r.1 = w / 16)) with
        | some r => storeWord op.bank r.2 (w % 16) (pwEnc (eccDec x).2) h'
        | none => h') h

/-- Phase `n` of MAP or UNMAP (R291): 0 the second check, 1 the read of both rows, 2 their write, 3 the table. -/
def lrtGo (i : Nat) (e : Ent) (n : Nat) (h : Hw) : Hw :=
  let way := e.req.par / 16384
  let set := e.req.par % 16384
  let map := e.req.kind == .lrtMap
  let ends := fun (r : BitVec 3) (h : Hw) => (h.modUnits (fun it => { it with lrtEnd := some r }))
  let get := fun (t : Nat) => ((e.errs.find? (fun p => decide (p.1 = t))).map (·.2)).getD 0
  let rows := [(0, (place h way set 0).2), (1, (place h way set 1).2)]
  if n = 0 then
    let fail := setTodo i [.commit, .free] (ends 5 h)
    if lrtWayBad h way set then fail
    else if map then
      match lrtEntry h way set, lrtFree h, spareFree h with
      | none, some k, some s =>
        setTodo i [.go 1, .go 2, .go 3, .commit, .free] (updEnt i (fun e => { e with errs := [(200, k), (201, s)] }) h)
      | _, _, _ => fail
    else if (lrtEntry h way set).isSome then setTodo i [.go 1, .go 2, .go 3, .commit, .free] h
    else fail
  else if n = 1 then askOp i (rowOp i e way set (place h way set 0).1 rows false [] 0 false) h
  else if n = 2 then
    let data := (List.range 32).map (fun w => (w, pwEnc (bufWord e 0 w)))
    let s := get 201
    let h := if e.req.lines.isEmpty then updEnt i (rowSnap h (fun sec => place h way set sec)) h else h
    if map then askOp i (rowOp i e way set 32 [(0, 2 * s), (1, 2 * s + 1)] true data 0 true) h
    else askOp i (rowOp i e way set (bankOf way set) [(0, rowOf set 0), (1, rowOf set 1)] true data 0 true) h
  else if map ∧ lrtOther h (get 200) way set then popAct i (updEnt i (fun e => { e with errs := [] }) (ends 5 h))
  else
    let h := if map then ev 0x8F 1 (remapReport way set 0 (2 ^ get 201) (lrtSet (get 200) way set (get 201) h))
      else lrtClear way set h
    popAct i (updEnt i (fun e => { e with errs := [] }) (ends 0 h))

/-! ### The scrubber -/

/-- Rows of a bank in the pass. -/
def scrubRows (s : Scrub) (b : Nat) : Nat :=
  if !bit s.mask (b / 2) then 0
  else
    let first := if s.first % 2 = b % 2 then s.first else s.first + 1
    2 * ((s.first + s.count + 1 - first) / 2)

/-- Set and sector of row `n` of a bank in the pass. -/
def scrubAt (s : Scrub) (b n : Nat) : Nat × Nat :=
  ((if s.first % 2 = b % 2 then s.first else s.first + 1) + 2 * (n / 2), n % 2)

/-- Lines of the bank are skipped at present (R296). -/
def scrubSkips (h : Hw) (b : Nat) : Bool :=
  decide (wayMode h (b / 2) = 3) || (setting h (b / 2)).isSome || marchDestroys h b

/-- ECC.SCRUB_NEXT: the first set not yet begun (R299). -/
def scrubNext (s : Scrub) : Nat :=
  let at_ := fun (p : Nat) =>
    let m := ((List.range 32).filter (fun b => decide (b % 2 = p) && bit s.mask (b / 2))).foldl
      (fun m b => max m ((cGet 0 s.next b + 1) / 2)) 0
    (if s.first % 2 = p then s.first else s.first + 1) + 2 * m
  min (s.first + s.count) (min (at_ 0) (at_ 1))

/-- The scrubber's next read of a bank becomes pending, or its line is skipped (R296, R297). -/
def scrubIssue (b : Nat) (h : Hw) : Hw :=
  match h.prot.scrub with
  | none => h
  | some s =>
    let n := cGet 0 s.next b
    if s.stop || gavBusy h || s.pend.contains b || decide (scrubRows s b ≤ n) || decide (32 ≤ b) then h else
    let (set, sec) := scrubAt s b n
    let (pb, row) := place h (b / 2) set sec
    let k := bank h pb
    let upd := fun (s : Scrub) (h : Hw) =>
      put 17 0x50 (scrubNext s) (h.modProt (fun it => { it with scrub := some s }))
    if scrubSkips h b then upd { s with next := cPut 0 s.next b (2 * (n / 2) + 2) } h
    else if (k.pend ++ k.cur.toList ++ k.fly).any (fun op => op.own == .scrub) then h
    else
      let op : BankOp := {
        own := .scrub, who := { iseq := h.core.nextSeq, label := 0, group := 0, tc := 3, low := false, charge := false }
        master := some .scrub, line := ((placeLines h (b / 2) set).head?).getD (.loc (b / 2) set)
        way := b / 2, set := set, bank := pb, rows := [(sec, row)], done := [], write := false, data := [], li := b
        raw := false, lin := false }
      upd { s with next := cPut 0 s.next b (n + 1), pend := s.pend ++ [b] } (enqOp op h)

/-- A row found in error by the scrubber takes a place in the retry queue, or waits for one (R297). -/
def scrubRetry (r : Retry) (h : Hw) : Hw :=
  let bump := fun (h : Hw) => match h.prot.scrub with
    | some s => (h.modProt (fun it => { it with scrub := some { s with left := s.left + 1 } }))
    | none => h
  match h.prot.retry.find? (fun x => decide (x.bank = r.bank ∧ x.row = r.row)) with
  | some x =>
    let h := if x.scrub then h else bump h
    (h.modProt (fun it => { it with retry := it.retry.map (fun y =>
        if y.bank = r.bank ∧ y.row = r.row then
          { y with words := y.words ++ r.words.filter (fun w => !(y.words.any (fun v => decide (v.1 = w.1)))), scrub := true }
        else y) }))
  | none =>
    if h.prot.retry.length < 16 then
      bump (ev 0x8D 1 (h.modProt (fun it => { it with retry := it.retry ++ [r] })))
    else match h.prot.scrub with
      | some s => (h.modProt (fun it => { it with scrub := some { s with wait := s.wait ++ [r] } }))
      | none => h

/-- The scrubber's read of a row is done (R297, R298). -/
def scrubDone (op : BankOp) (rd : List (Nat × EccCls × PWord)) (h : Hw) : Hw :=
  match h.prot.scrub with
  | none => h
  | some s =>
    let h := h.modProt (fun it => { it with scrub := some { s with pend := s.pend.filter (· != op.li) } })
    let h := ev 0x90 1 (cnt 17 0x60 (rd.filter (fun x => x.2.1 == .mark)).length (cnt 17 0x54 16 (countErrs rd h)))
    let ws := errWords rd
    if ws.isEmpty then h
    else scrubRetry { bank := op.bank, row := (op.done.headD (0, 0)).2, words := ws, rid := ownRid, scrub := true } h

/-- Rows that wait take places that have come free. -/
def scrubDrain (h : Hw) : Hw :=
  match h.prot.scrub with
  | some s =>
    match s.wait with
    | r :: rest =>
      if h.prot.retry.length < 16 then scrubRetry r (h.modProt (fun it => { it with scrub := some { s with wait := rest } }))
      else h
    | [] => h
  | none => h

/-- The pass has read every line, and what it queued is done (R297). -/
def scrubOver (h : Hw) (s : Scrub) : Bool :=
  s.pend.isEmpty && s.wait.isEmpty && decide (s.left = 0) &&
    (s.stop || (List.range 32).all (fun b => decide (scrubRows s b ≤ cGet 0 s.next b) || scrubSkips h b))

end Sys2Proof.Machine
end

