-- ==== Sys2Proof/Machine/Flow.lean ====
section
/-! DEFINITION. What an active entry of the transaction table does, act by act: lookup and its outcomes (R29, R143, R172, R173),
snoop-filter allocation (R81), request flows (R83, R84, R86), maintenance flows (R118 to R121, R125 to R127), and home data,
fills and writes (R49 to R51, R83). -/
namespace Sys2Proof.Machine

/-- All words of a line. -/
def fullMask : Nat := 0xFFFFFFFF

/-- The end of a request that answers and is done. -/
def answerTail : List Act := [.respond, .sent, .free]

/-- Entry `i` answers with this code and has no effect. -/
def answerCode (i : Nat) (code : BitVec 3) (h : Hw) : Hw :=
  setTodo i answerTail (updEnt i (fun e => { e with code := code }) h)

/-- Transactions that act on the array copy and leave the ALB alone (R282, R291, R300). -/
def isProt (k : Kind) : Bool :=
  match k with | .repair | .chkWrite | .chkRead | .lrtMap | .lrtUnmap => true | _ => false

/-! ### The ALB and Jig rows of R29 -/

/-- The ALB entry of line `li` does not stand in the way of the transaction. -/
def albFits (r : Req) (li : Nat) (a : AlbEnt) : Bool := !a.wb && (isProt r.kind || (needFmt r li == some a.fmt))

/-- Neither Jig nor an ALB entry holds a line of the request in a way that must first be written (R120, R143, R172). -/
def linesClear (h : Hw) (r : Req) : Bool :=
  (r.lines.zipIdx).all (fun p => !(jigHolds h p.1) &&
    (match albFind h p.1 with | none => true | some (_, a) => albFits r p.2 a))

/-- A ReadNoSnoop from the last updater of a line in the ALB (R143). -/
def albServes (h : Hw) (r : Req) : Option AlbEnt :=
  match r.kind, r.lines with
  | .readNoSnoop, [k] =>
    match albFind h k with
    | some (_, a) => if !a.wb && (a.upd == some r.hdr.src) then some a else none
    | none => none
  | _, _ => none

/-- Jig entries end their hold and ALB entries begin their write-back; the transaction then looks up again. -/
def clearLines (i : Nat) (e : Ent) (h : Hw) : Hw :=
  let r := e.req
  let alb := (r.lines.zipIdx).filter (fun p => match albFind h p.1 with | some (_, a) => !albFits r p.2 a | none => false)
  let h := outcome (if alb.isEmpty then 2 else 1) r.iseq h
  let h := alb.foldl (fun h p =>
    match albFind h p.1 with
    | some (n, a) => if a.wb then h else albWb (whoOf r) n (ev 0x71 1 h)
    | none => h) h
  let h := r.lines.foldl (fun h k => jigEndLine k h) h
  setTodo i [.clear, .lookup] h

/-! ### Tags and the snoop filter at lookup -/

/-- Types whose lookup updates the snoop filter's pseudo-LRU bits (R78). -/
def sfTouches (k : Kind) : Bool :=
  match k with
  | .readShared | .readOwn | .readNoSnoop | .writeInv | .writePart | .atomic | .acc | .tangoRead | .aliasW _ => true
  | _ => false

/-- The lookup of the lines of a request in the tag array and in the snoop filter's sets: errors, a way that SET_MODE leaves, hits and
misses (R44, R82, R279, R280, R458). -/
def lookTags (r : Req) (h : Hw) : Hw :=
  r.lines.foldl (fun h k =>
    match k with
    | .pa ln =>
      let h := dropLeaving k (tagErrs ln r.hdr.src (sfRead ln r.hdr.src h))
      if (whereIs h k).isSome then ev 0x43 1 h else ev 0x44 1 h
    | .loc w _ => if wayMode h w = 1 then ev 0x48 1 h else h) h

/-- The snoop-filter lookup of line `li`; an owner lost to a fence leaves the line to be poisoned (R98). -/
def lookSf (c : Cells Word) (i : Nat) (r : Req) (ln li : Nat) (h : Hw) : SfLook × Hw :=
  let (l, h) := sfLook c ln r.hdr.src (sfTouches r.kind) h
  (l, if l.lost.isSome then updEnt i (fun e => { e with toPoison := e.toPoison ||| 2 ^ li }) h else h)

/-- The snoops that recall a line from whoever may hold it (R82). (DEDUCED, log entry 45) -/
def recallAll (c : Cells Word) (i li : Nat) (h : Hw) : Hw := sendSnoops c i li .recall (everyCai c h) [] false h

/-- The snoops of a request that takes the line away from every agent (R84): SnpInv, or SnpRecall from an owner. -/
def takeAway (c : Cells Word) (i li : Nat) (k : SnpKind) (l : SfLook) (h : Hw) : Hw :=
  if l.all then recallAll c i li h
  else match l.ent with
    | none => h
    | some se =>
      if se.dir = .doo ∧ k = .recall then sendSnoops c i li .recall [se.ptr] [] true h
      else snoopCopies c i li .inv se none true h

/-- Lookup of a ReadShared or ReadOwn: an entry is allocated where there is none, and the snoops of R84 go out; a requester that the
entry records counts as holding no copy. -/
def readStart (c : Cells Word) (i : Nat) (e : Ent) (ln : Nat) (h : Hw) : Hw :=
  let r := e.req
  let x := caiOf r.hdr
  let (l, h) := lookSf c i r ln 0 h
  let se := (l.ent.map (fun s => s.remove x)).filter (fun s => s.dir != .di)
  let h :=
    if l.all then recallAll c i 0 h
    else match se with
      | none => h
      | some s =>
        match r.kind, s.dir with
        | .readShared, .dsf => sendSnoops c i 0 .shared [s.ptr] [] false h
        | .readShared, .doo => sendSnoops c i 0 .shared [s.ptr] [] true h
        | .readOwn, .doo => sendSnoops c i 0 .own [s.ptr] [] true h
        | .readOwn, .dsf => snoopCopies c i 0 .inv s (some x) false (sendSnoops c i 0 .own [s.ptr] [] false h)
        | .readOwn, .ds => snoopCopies c i 0 .inv s (some x) false h
        | _, _ => h
  let h := if ((ent h i).map (fun e => e.snp.isEmpty)).getD true then h else outcome 6 r.iseq h
  let rsv := l.ent.isNone && (sfRsv h ln).isNone
  setTodo i ((if rsv then [.sf] else []) ++ [.snp, .resolve]) h

/-- Lookup of any other request to a cached line or to a pinned one: its snoops, then what the responses say. -/
def requestStart (c : Cells Word) (i : Nat) (e : Ent) (h : Hw) : Hw :=
  let r := e.req
  let near := match r.kind with | .atomic | .aliasW _ | .acc | .tangoRead => true | _ => false
  let h := if near then outcome 3 r.iseq h else h
  let h := (r.lines.zipIdx).foldl (fun h p =>
    match p.1 with
    | .loc _ _ => h
    | .pa ln =>
      if near && (albFind h p.1).isSome then h else
      let (l, h) := lookSf c i r ln p.2 h
      match r.kind with
      | .readNoSnoop =>
        if l.all then recallAll c i 0 h
        else match l.ent with
          | some s => if s.dir = .doo then sendSnoops c i 0 .copy [s.ptr] [] true h else h
          | none => h
      | .writeInv => takeAway c i p.2 .inv l h
      | _ => takeAway c i p.2 .recall l h) h
  let h := if ((ent h i).map (fun e => e.snp.isEmpty)).getD true then h else outcome 6 r.iseq h
  setTodo i [.snp, .resolve] h

/-! ### Maintenance (R118, R119, R125 to R127) -/

/-- A maintenance transaction of a command that SET_MODE has cut short has no effect (R126). -/
def mntCutEnt (i : Nat) (h : Hw) : Hw :=
  setTodo i [.commit, .free] (updEnt i (fun e => { e with aux := 1 }) (cntW 9 0x58 1 h 28))

/-- Lookup of a by-address transaction (R118). -/
def mntStart (c : Cells Word) (i : Nat) (e : Ent) (code : Nat) (h : Hw) : Hw :=
  match e.req.lines with
  | [.pa ln] =>
    if code ≤ 3 then
      let (l, h) := lookSf c i e.req ln 0 h
      let h :=
        if code = 1 then
          if l.all then recallAll c i 0 h
          else match l.ent with
            | some s => if s.dir = .doo then sendSnoops c i 0 .copy [s.ptr] [] true h else h
            | none => h
        else takeAway c i 0 (if code = 2 then .inv else .recall) l h
      setTodo i [.snp, .resolve] h
    else if h.units.mntCut then mntCutEnt i h
    else
      let way := e.req.par / 16384
      let set := e.req.par % 16384
      let t := tagAt h set way
      if ¬ (wayMode h way = 0 ∧ t.valid ∧ lineAt set t.tag = ln) then setTodo i [.commit, .free] h
      else
        let clean : List Act := if !(t.d0 || t.d1) then [] else [.rd way set 3 0, .xwr (ln * 128) 3 0, .go 7, .go 6]
        if code = 4 then setTodo i (clean ++ [.commit, .free]) h
        else if code = 5 then setTodo i [.go 8, .commit, .free] h
        else setTodo i (clean ++ [.go 8, .commit, .free]) h
  | _ => setTodo i [.commit, .free] h

/-- A by-address transaction has every response (R118). The data of a WriteBack that answers CLEAN_PA's snoop is used as forwarded data
is. (DEDUCED, log entry 44) (DESIGN CHOICE, log entry 108) -/
def mntResolve (i : Nat) (e : Ent) (code ln : Nat) (h : Hw) : Hw :=
  let held := bitN e.held 0
  let dirty := bitN e.dirty 0
  let pre : List Act := if bitN e.toPoison 0 ∧ ¬ held then [.poison 0] else []
  if !pre.isEmpty then setTodo i (pre ++ [.resolve]) h
  else
    let place := whereIs h (.pa ln)
    let arr : List Act := match place with
      | some (w, s) =>
        let t := tagAt h s w
        if !(t.d0 || t.d1) then [] else [.rd w s 3 0, .xwr (ln * 128) 3 0, .go 7, .go 6]
      | none => []
    let fin : List Act := [.wbDone, .commit, .free]
    if code = 1 then
      if held then
        let wr : List Act := match place with | some (w, s) => [.wr w s fullMask 0 false] | none => []
        setTodo i (wr ++ [.xwr (ln * 128) 3 0, .go 7, .go 6] ++ fin) h
      else setTodo i (arr ++ fin) h
    else if code = 2 then setTodo i (.go 8 :: fin) h
    else if held && dirty then setTodo i ([.xwr (ln * 128) 3 0, .go 7, .go 8] ++ fin) h
    else setTodo i (arr ++ [.go 8] ++ fin) h

/-- A line has been written to XP by a maintenance transaction (R121, R131). -/
def mntWrote (i : Nat) (e : Ent) (h : Hw) : Hw :=
  let h := cntW 9 0x5C 1 h 28
  popAct i (if (lineWords e 0).any (·.poi) then err 9 1 (cntW 9 0x60 1 h 28) else h)

/-- Its dirty bits are cleared. -/
def mntClean (i : Nat) (e : Ent) (h : Hw) : Hw :=
  popAct i (match lineOf e 0, whereIs h (lineOf e 0) with
    | .pa _, some (w, s) => setTag s w { tagAt h s w with d0 := false, d1 := false } h
    | _, _ => h)

/-- Its line leaves the array; by-address, the directory too (R118, R119). -/
def mntDrop (i : Nat) (e : Ent) (h : Hw) : Hw :=
  let bySw := match e.req.kind with | .maint code => decide (4 ≤ code) | _ => true
  popAct i (match lineOf e 0 with
    | .pa ln =>
      let h := match whereIs h (.pa ln) with | some (w, s) => dropTag s w h | none => h
      if bySw then h else sfDrop ln h
    | .loc _ _ => h)

/-- A maintenance transaction commits (R122). `aux` 1 marks one that is not counted as done. -/
def mntCommit (e : Ent) (h : Hw) : Hw :=
  let h := if e.aux = 1 then h else cntW 9 0x54 1 h 28
  ev 0x88 1 (h.modUnits (fun it => { it with mntFly := it.mntFly - 1 }))

/-- The entry of the way of a PRELOAD_LOCK may take the line now: what it holds is held by no transaction (R47, R48). -/
def preloadFree (h : Hw) (e : Ent) : Bool :=
  match lineOf e 0 with
  | .pa ln =>
    let t := tagAt h (setOf ln) e.req.par
    !t.valid || t.pre || decide (t.tag = tagOf ln) || h.units.mntCut ||
      (!(lineHeld h (.pa (lineAt (setOf ln) t.tag))) && (!(t.d0 || t.d1) || (pickPool h false true).isSome))
  | .loc _ _ => true

/-- PRELOAD_LOCK places its line (R47, R125). -/
def preloadGo (i : Nat) (e : Ent) (h : Hw) : Hw :=
  match lineOf e 0 with
  | .loc _ _ => popAct i h
  | .pa ln =>
    let w := e.req.par
    let s := setOf ln
    let t := tagAt h s w
    let fin : List Act := [.commit, .free]
    if h.units.mntCut then mntCutEnt i h
    else if t.valid ∧ t.tag = tagOf ln then setTodo i fin (setTag s w { t with pre := true } h)
    else if t.valid ∧ t.pre then
      setTodo i fin (updEnt i (fun e => { e with aux := 1 }) (cntW 9 0x68 1 h 28))
    else
      let (vic, h) := if t.valid && (t.d0 || t.d1) then
          (match newVictim e.req s w h with | some (j, h) => (some j, h) | none => (none, h)) else (none, h)
      let wait : List Act := match vic with | some j => [.vic j] | none => []
      let tag : Tag := { tag := tagOf ln, valid := true, d0 := false, d1 := false, pre := true, err := 0 }
      match wayOf h ln with
      | some v =>
        let o := tagAt h s v
        setTodo i ([.rd v s 3 0] ++ wait ++ [.wr w s fullMask 0 false] ++ fin)
          (setTag s w { tag with d0 := o.d0, d1 := o.d1 } (dropTag s v h))
      | none =>
        setTodo i ([.xrd (ln * 128) 3 0] ++ wait ++ [.wr w s fullMask 0 false] ++ fin) (ev 0x45 1 (setTag s w tag h))

/-- A transaction of the walk of an automatic way disable (R293); in a failed bank a dirty line is written poisoned (R339). -/
def wayDisStart (i : Nat) (e : Ent) (h : Hw) : Hw :=
  let way := e.req.par / 16384
  let set := e.req.par % 16384
  let t := tagAt h set way
  match lineOf e 0 with
  | .pa ln =>
    if ¬ (t.valid ∧ lineAt set t.tag = ln) then setTodo i [.commit, .free] h
    else
      let failed := (pwr h (bankOf way set)).dead
      let secs := if failed && (t.d0 || t.d1) then 3 else b2n t.d0 + 2 * b2n t.d1
      let clean : List Act := if secs = 0 then [] else [.rd way set secs 0, .xwr (ln * 128) secs 0]
      let h := if secs = 0 then h else ev 0x46 1 h
      setTodo i (clean ++ [.go 8, .commit, .free]) (if failed && decide (secs ≠ 0) then
        recLoss ln 2 0xFFFFFFFF e.req.iseq h else h)
  | .loc _ _ => setTodo i [.commit, .free] h

/-! ### Back-invalidation (R81, R82) -/

/-- A back-invalidation sends its snoops: SnpInv to every copy, SnpRecall to an owner, or to every agent when the entry's payload
is lost. (DEDUCED, log entry 52) -/
def backStart (c : Cells Word) (i : Nat) (se : SfEnt) (h : Hw) : Hw :=
  let h :=
    if 2 ≤ se.errP then recallAll c i 0 h
    else
      let (s, lost) := se.unfence c h
      let h := match lost, (ent h i).map (fun e => lineOf e 0) with
        | some x, some (.pa ln) => updEnt i (fun e => { e with toPoison := 1 }) (fenceLoss ln x h)
        | _, _ => h
      if s.dir = .di then h
      else if s.dir = .doo then sendSnoops c i 0 .recall [s.ptr] [] true h
      else snoopCopies c i 0 .inv s none true h
  setTodo i [.snp, .resolve] h

/-- A back-invalidation of the slice itself takes its place behind whatever is under way on a line: for an entry that the snoop filter
lost, or to poison the line; none while no TT entry is free (R82, R98). (DEDUCED, log entry 47) -/
def ownBack (ln : Nat) (se : SfEnt) (pois : Nat) (h : Hw) : Option Hw :=
  match pickPool h false true, freeIdx h with
  | some p, some j =>
    let r := { ownReq h .backInv [.pa ln] 0 0 with counted := false }
    let e : Ent := { req := r, pool := p, arr := 0, sfe := some se, toPoison := pois }
    some (newEnt j e (drew (h.modCore (fun it => { it with nextSeq := it.nextSeq + 1 }))))
  | _, _ => none

/-- Entry `n` of a set as a reader finds it that sends no snoops itself, the sweep for one agent or a repair: R82 and R98 are applied,
and what they ask for is left to a transaction of its own; none while that has no TT entry. -/
def sfTend (c : Cells Word) (set : Nat) (only : Option (BitVec 12)) (h : Hw) (n : Nat) : Option Hw :=
  let e := sfAt h set n
  let ln := lineAt set e.tag
  if (e.dir == .di) || e.rsv then some h
  else if 2 ≤ e.errP then (ownBack ln e 0 (setSf set n SfEnt.free_ h)).map (sfKeep ln)
  else
    let (e', out) := e.unfence c h only
    let h := sfKeep ln (setSf set n e' h)
    match out.filter (fun x => !(snooped h ln x)) with
    | some y => ownBack ln SfEnt.free_ 1 (fenceLoss ln y h)
    | none => some h

/-- A repair reads the entry of its line (R78, R82, R98). -/
def repairSf (c : Cells Word) (r : Req) (h : Hw) : Hw :=
  match r.lines with
  | (.pa ln) :: _ =>
    (match sfFind h ln with
    | some (n, _) => (sfTend c (setOf ln) none h n).getD h
    | none => h)
  | _ => h

/-- Entries of a snoop-filter set that an allocation may take: not reserved, and free or of a line without TT entry (R81). -/
def sfEligible (h : Hw) (set : Nat) : Nat :=
  maskOf ((List.range 16).filter (fun n =>
    let e := sfAt h set n
    !e.rsv && ((e.dir == .di) || !(h.core.tt.any (fun p => p.2.req.lines.contains (.pa (lineAt set e.tag)))))))

/-- Entry `i` allocates a snoop-filter entry for its line, or waits (R81). -/
def sfTake (c : Cells Word) (i : Nat) (e : Ent) (ln : Nat) (h : Hw) : Hw :=
  let s := setOf ln
  let used := maskOf ((List.range 16).filter (fun n => sfAt h s n != SfEnt.free_))
  match victimOf (cGet 0 h.home.sfPlru s) (sfEligible h s) used with
  | none => setBusy i h
  | some n =>
    let v := sfAt h s n
    if v.dir = .di then popAct i (sfReserve ln n h)
    else
      match pickPool h false true, freeIdx h with
      | some p, some j =>
        let line := lineAt s v.tag
        let req : Req := { e.req with kind := .backInv, port := none, eng := none, pay := [], lines := [.pa line], elig := false,
                                      units := 0, counted := false }
        let b : Ent := { req := req, pool := p, arr := 0, active := true, sfe := some v }
        let h := ev 0x52 1 (drew (newEnt j b (sfReserve ln n h)))
        backStart c j v (lookTags req (popAct i h))
      | _, _ => setBusy i h

/-! ### Data -/

/-- Home data of line `li` is asked for (R83): from the array, or from XP with a fill (R48 to R51, R235). -/
def homeStart (i : Nat) (e : Ent) (li secs : Nat) (h : Hw) : Hw :=
  let k := lineOf e li
  if bitN e.held li then popAct i h else
  let h := dropLeaving k (updEnt i (fun e => { e with held := e.held ||| 2 ^ li }) h)
  match k, whereIs h k with
  | _, some (w, s) => expand i [.rd w s secs li] (outcome 7 e.req.iseq (hitTouch e.req k w h))
  | .loc _ _, none => popAct i h
  | .pa ln, none =>
    let h := outcome 8 e.req.iseq h
    let noFill := match e.req.eng with | some (.reel ..) => decide (e.req.par ≠ 1) | _ => false
    if noFill then expand i [.xrd (ln * 128) secs li] h
    else match allocLine e.req ln false h with
      | (.none, h) => expand i [.xrd (ln * 128) secs li] h
      | (.way w vic, h) =>
        let wait : List Act := match vic with | some j => [.vic j] | none => []
        expand i ([.xrd (ln * 128) 3 li] ++ wait ++ [.wr w (setOf ln) fullMask li false]) (fillTouch e.req ln w h)
      | (.notYet, _) => h

/-- A whole line goes from the buffer into the array as dirty, or to XP when no way is eligible (R84, R86, R88). `lin` marks a
write that commits the transaction. -/
def putStart (i : Nat) (e : Ent) (li : Nat) (h : Hw) : Hw :=
  let k := lineOf e li
  let lin := (e.req.kind == .writeInv) && !(e.todo.contains .resolve)
  let h := dropLeaving k h
  match k, whereIs h k with
  | _, some (w, s) =>
    let h := if lin then outcome 7 e.req.iseq (hitTouch e.req k w h) else h
    expand i [.wr w s fullMask li lin] (markDirty k w 3 h)
  | .loc _ _, none => popAct i h
  | .pa ln, none =>
    match e.req.kind, e.aux with
    | .backInv, 0 => expand i [.xwr (ln * 128) 3 li] h
    | _, _ =>
      let h := if lin then outcome 8 e.req.iseq h else h
      match allocLine e.req ln true h with
      | (.none, h) => expand i [.xwr (ln * 128) 3 li] h
      | (.way w vic, h) =>
        let wait : List Act := match vic with | some j => [.vic j] | none => []
        expand i (wait ++ [.wr w (setOf ln) fullMask li lin]) (fillTouch e.req ln w h)
      | (.notYet, _) => h

/-- An allocation that needs a victim's write-back finds an entry for it. -/
def allocOk (e : Ent) (k : LineKey) (h : Hw) : Bool :=
  match k with
  | .loc _ _ => true
  | .pa ln => (whereIs h k).isSome || (allocLine e.req ln false h).1 != .notYet

/-- Every word of line `li` is poisoned and written: into the array, into a way that R49 chooses, or to XP (R96, R98). `aux` 1
lets a back-invalidation choose a way for it. (DESIGN CHOICE, log entry 56) -/
def poisonLine (i li : Nat) (h : Hw) : Hw :=
  expand i [.putLine li] (updEnt i (fun e =>
    { putWords e li 0 (List.replicate 32 PWord.poisoned) with
      held := e.held ||| 2 ^ li, aux := if e.req.kind = .backInv then 1 else e.aux, toPoison := e.toPoison &&& (2 ^ 16 - 1 - 2 ^ li) }) h)

/-- The payload's words over those in the buffer, by the byte mask. -/
def partMerge (e : Ent) : Ent :=
  let m := e.req.hdr.bmask
  putWords e 0 0 ((List.range 32).map (fun w => mergeWord (bufWord e 0 w) (e.req.pay.getD w PWord.zero) (nib m w)))

/-- A partial write finds its line, or a way for it, or none; without a way a narrow one is merged by Jig into what XP returns (R36,
R37, R51, R61, R84). -/
def partStart (i : Nat) (e : Ent) (h : Hw) : Hw :=
  let r := e.req
  let m := r.hdr.bmask
  let k := lineOf e 0
  let ws := touched m 32
  let h := dropLeaving k h
  match k, whereIs h k with
  | _, some (w, s) =>
    let h := hitTouch r k w h
    if isNarrow m then expand i [.jig] (outcome 9 r.iseq h)
    else
      expand i [.wr w s ws 0 true] (updEnt i partMerge (markDirty k w (secsOf ws) (outcome 7 r.iseq h)))
  | .loc _ _, none => popAct i h
  | .pa ln, none =>
    let h := outcome 8 r.iseq h
    match allocLine r ln false h with
    | (.notYet, _) => h
    | (.way w vic, h) =>
      let wait : List Act := match vic with | some j => [.vic j] | none => []
      expand i ([.xrd (ln * 128) 3 0] ++ wait ++ [.wr w (setOf ln) fullMask 0 false, .part]) (fillTouch r ln w h)
    | (.none, h) =>
      let secs := secsOf ws
      let whole := (List.range 2).all (fun s => !bitN secs s || decide (bitsN (covered m 32) (16 * s + 15) (16 * s) = 0xFFFF))
      if whole then expand i [.xwr (ln * 128) secs 0] (updEnt i partMerge h)
      else expand i [.xrd (ln * 128) secs 0, .jig] (updEnt i (fun e => { e with aux := 1 }) (outcome 9 r.iseq h))

/-! ### After the snoop responses (R84, R86, R87) -/

/-- Lines of the span that were returned dirty, or lost their owner, are written first. -/
def fixLines (e : Ent) (put : Bool) : List Act :=
  (List.range e.req.lines.length).flatMap (fun li =>
    if bitN e.toPoison li && !bitN e.held li then [Act.poison li]
    else if put && bitN e.dirty li then [Act.putLine li] else [])

/-- The sender of an EVT-class message. -/
def evtCai (e : Ent) : BitVec 12 := e.req.hdr.src.setWidth 12

/-- The WriteBack is one that the recovery gave up as lost (R337). -/
def lateWb (h : Hw) (e : Ent) : Bool :=
  (e.req.kind == .writeBack) && h.home.gaveUp.any (fun p => decide (p.1 = evtCai e ∧ lineOf e 0 = .pa p.2))

/-- A WriteBack of this agent for this line has come, late or anew. -/
def wbCame (x : BitVec 12) (k : LineKey) (h : Hw) : Hw :=
  h.modHome (fun it => { it with gaveUp := it.gaveUp.filter (fun p => decide (¬ (p.1 = x ∧ k = .pa p.2))) })

/-- How an EVT-class message ends: without a completion where its sender is fenced by then, or where the recovery has completed it
already (R88, R337). -/
def evtTail (h : Hw) (e : Ent) : List Act :=
  if fenced h (evtCai e) || lateWb h e then [.free]
  else if e.req.kind == .evict then answerTail else .commit :: answerTail

/-- A WriteBack from an agent that is not the owner: its data is discarded, and it is reported (R88), unless it is one that the
recovery gave up (R337). (DEDUCED, log entry 75) -/
def evtStray (e : Ent) (h : Hw) : Hw :=
  let x := evtCai e
  if fenced h x then h else if lateWb h e then wbCame x (lineOf e 0) h else report 0xA false x.toNat 0 0 (x.setWidth 16) (err 8 3 h) e.req.iseq

/-- Every response of entry `i` is in. -/
def resolve (i : Nat) (e : Ent) (h : Hw) : Hw :=
  let dirty : List Act := if bitN e.dirty 0 then [.putLine 0] else []
  match e.req.kind, lineOf e 0 with
  | .readShared, .pa ln | .readOwn, .pa ln =>
    let own := e.req.kind == .readOwn
    let se := (sfHere h ln).map (·.2)
    let left := match se with
      | some s => (goneList e ++ [caiOf e.req.hdr]).foldl (fun (a : SfEnt) x => a.remove x) s
      | none => SfEnt.free_
    let copies := (left.dir == .dsf) || (left.dir == .doo) || !left.noShare
    let g := if own ∨ (¬ forwarded e ∧ ¬ copies) then 3 else 2
    let h := updEnt i (fun e => { e with aux := g }) h
    let fin : List Act := [.respond] ++ dirty ++ [.wbDone, .sent, .ack, .free]
    if forwarded e then setTodo i fin h
    else setTodo i (fixLines e false ++ (if bitN e.held 0 then [] else [.home 0 3]) ++ fin) h
  | .readNoSnoop, _ =>
    let fin : List Act := [.respond] ++ dirty ++ [.wbDone, .sent, .free]
    if forwarded e then setTodo i fin h
    else
      let secs := if e.req.elig then secOf e.req.hdr else 3
      setTodo i (fixLines e false ++ (if bitN e.held 0 then [] else [.home 0 secs]) ++ fin) h
  | .writeInv, _ =>
    if bitN e.toPoison 0 then setTodo i [.poison 0, .resolve] h
    else
      setTodo i [.putLine 0, .commit, .respond, .wbDone, .sent, .free] (updEnt i (fun e => putWords e 0 0 e.req.pay) h)
  | .evict, _ => setTodo i (fixLines e true ++ [.wbDone] ++ evtTail h e) h
  | .writeBack, _ =>
    setTodo i (fixLines e true ++ [.wbDone] ++ evtTail h e)
      (if e.aux2 = 1 then wbCame (evtCai e) (lineOf e 0) h else evtStray e h)
  | .writePart, _ =>
    setTodo i (fixLines e true ++ [.wbDone, .part, .commit] ++ answerTail) h
  | .backInv, _ => setTodo i (fixLines e true ++ [.wbDone, .commit, .free]) h
  | .maint code, .pa ln => mntResolve i e code ln h
  | _, _ =>
    let homes := (List.range e.req.lines.length).filterMap (fun li =>
      if (albFind h (lineOf e li)).isSome then none else some (Act.home li 3))
    let serve : List Act := if e.req.kind == .tangoRead then [.alb, .go 0] else [.alb, .cell]
    setTodo i (fixLines e true ++ [.wbDone] ++ homes ++ serve ++ answerTail) h

/-! ### EVT-class messages (R88) -/

/-- An Evict or a WriteBack looks up its line and acts as the entry records its sender (R88, R90). Its lookup removes fenced agents
from the entry, and where the entry's payload is lost it recalls the line first (R82, R98). (DEDUCED, log entry 106) -/
def evtApply (c : Cells Word) (i : Nat) (e : Ent) (h : Hw) : Hw :=
  let x := evtCai e
  match lineOf e 0 with
  | .loc _ _ => setTodo i answerTail h
  | .pa ln =>
    if fenced h x then setTodo i [.free] h
    else
      let (l, h) := lookSf c i e.req ln 0 (lookTags e.req h)
      let pois : List Act := if l.lost.isSome then [.poison 0] else []
      if l.all then setTodo i [.snp, .resolve] (recallAll c i 0 (sfKeep ln h))
      else if e.req.kind == .evict then
        setTodo i (pois ++ answerTail) (sfKeep ln (sfChange ln (fun s => s.remove x) h))
      else match l.ent with
        | some s =>
          if s.dir = .doo ∧ s.ptr = x then
            setTodo i ([.putLine 0, .commit] ++ answerTail)
              (updEnt i (fun e => putWords e 0 0 e.req.pay) (sfKeep ln (sfChange ln (fun _ => SfEnt.free_) (wbCame x (.pa ln) h))))
          else setTodo i (pois ++ evtTail h e) (evtStray e h)
        | none => setTodo i (pois ++ evtTail h e) (evtStray e (sfKeep ln h))

/-- The WriteBacks that wait for the data of entry `i` to be written complete, with POISON where a failed bank could not take it (R93,
R339). -/
def wbRelease (i : Nat) (h : Hw) : Hw :=
  let bad := ((ent h i).map (·.bad)).getD false
  h.core.tt.foldl (fun h p =>
    if p.2.joined = some i ∧ p.2.todo.head? = some .ack then
      setTodo p.1 (.commit :: answerTail) (updEnt p.1 (fun e => { e with bad := e.bad || bad }) h) else h) h

/-! ### Lookup -/

/-- The answer to a request for a line of a way whose mode has left it since decode (R45): RETRY where SET_MODE brings that mode,
DECERR otherwise; STATE to a selection request whose record is no longer valid, whatever became of the way (R202, R210). Transactions of
the slice itself are not requests. (DEDUCED, log entry 57) -/
def wayGone (h : Hw) (r : Req) : Option (BitVec 3) :=
  let sel : Bool := match r.kind with | .selOffer | .selPairs | .selReadReset | .selReset => true | _ => false
  if r.port.isNone ∧ r.eng.isNone then none
  else if sel && (selLive h r).isNone then some 5 else
  let m := match r.kind with | .enq | .deq | .enqB | .deqB => 2 | _ => 1
  r.lines.findSome? (fun k =>
    match k with
    | .pa _ => none
    | .loc w _ =>
      match setting h w with
      | some s => some (if s.mode = m then 6 else 3)
      | none => if wayMode h w = m then none else some 3)

/-- The lookup of entry `i` (R29). An entry that looks up again after it sent its snoops keeps them (R341). -/
def lookup (c : Cells Word) (i : Nat) (e : Ent) (h : Hw) : Hw :=
  let r := e.req
  match (if e.passed then none else wayGone h r) with
  | some v => answerCode i v h
  | none =>
  let h := updEnt i (fun e => { e with passed := true }) h
  match r.kind with
  | .evict | .writeBack => setTodo i (if e.snp.isEmpty then [.evt] else [.snp, .resolve]) h
  | .backInv =>
    if e.snp.isEmpty then backStart c i (e.sfe.getD SfEnt.free_) (lookTags r h) else setTodo i [.snp, .resolve] h
  | .readShared | .readOwn =>
    if fenced h (caiOf r.hdr) then answerCode i 5 h
    else
      let h := lookTags r (stamp 5 r.iseq h)
      if !linesClear h r then clearLines i e h
      else match r.lines with
        | [.pa ln] =>
          if e.snp.isEmpty then readStart c i e ln h
          else setTodo i ((if (sfHere h ln).isNone then [.sf] else []) ++ [.snp, .resolve]) h
        | _ => answerCode i 3 h
  | _ =>
    let h := match r.kind with
      | .repair => repairSf c r (lookTags r h)
      | _ => if isProt r.kind then h else lookTags r (stamp 5 r.iseq h)
    match albServes h r with
    | some a => setTodo i answerTail (updEnt i (fun e => putWords e 0 0 a.data) (outcome 1 r.iseq h))
    | none =>
      if !linesClear h r then clearLines i e h
      else
        let served := r.lines.all (fun k => (albFind h k).isSome)
        let h := if served ∧ ¬ r.lines.isEmpty ∧ ¬ isProt r.kind then outcome 1 r.iseq h else h
        match r.kind with
        | .enq | .deq | .enqB | .deqB => setTodo i (queTodo r.par) (stamp 6 r.iseq (outcome 4 r.iseq h))
        | .queCmd _ | .evtClear _ => setTodo i (queTodo r.par) h
        | .selOffer | .selPairs | .selReadReset | .selReset => selBegin i e (stamp 6 r.iseq (outcome 5 r.iseq h))
        | .selCmd _ => setTodo i [.go 1] h
        | .repair => setTodo i [.go 1, .step] h
        | .chkWrite | .chkRead => setTodo i [.go 1, .go 2, .commit, .free] h
        | .lrtMap | .lrtUnmap => setTodo i [.go 0] h
        | .maint code => if e.snp.isEmpty then mntStart c i e code h else setTodo i [.snp, .resolve] h
        | .preload => setTodo i [.go 0] h
        | .flush => setTodo i [.commit, .free] h
        | .wayDis => wayDisStart i e h
        | _ => if e.snp.isEmpty then requestStart c i e h else setTodo i [.snp, .resolve] h

end Sys2Proof.Machine
end

