-- ==== Sys2Proof/Machine/Tt.lean ====
section
/-! DEFINITION. The transaction table at work: which act of an entry may go on, what it does, activation and joining (R28, R92,
R93), and `settle`, which after every command lets each entry go on as far as it can without a further event. -/
namespace Sys2Proof.Machine

/-! ### Joining (R92, R93) -/

/-- Every response of the transaction is in; data forwarded to the slice itself has arrived too (R118, R217). -/
def snpDone (e : Ent) : Bool :=
  e.snp.all (fun s => match s.st with | .done _ => true | _ => false) &&
    (!(forwarded e) || bitN e.held 0 || (match e.req.kind with | .maint _ => false | _ => e.req.eng.isNone))

/-- An EVT-class message from `x` joins transaction `t` on the line (R92). -/
def joins (h : Hw) (t : Ent) (ln : Nat) (x : BitVec 12) : Bool :=
  t.snp.any (fun s => (s.cai == x) && (lineOf t s.li == .pa ln)) ||
    (match sfFind h ln with
      | some (_, s) => (s.dir == .dsf || s.dir == .doo) && (s.ptr == x) && decide (s.errP < 2)
      | none => false)

/-- A waiting EVT-class message that may join, with the transaction it joins; in a Gavotte sequence a WriteBack only (R335). -/
def nextJoin (h : Hw) : Option (Nat × Ent × Nat × Ent) :=
  h.core.tt.findSome? (fun p =>
    match p.2.req.kind, lineOf p.2 0 with
    | .evict, .pa ln | .writeBack, .pa ln =>
      if p.2.active ∨ p.2.joined.isSome ∨ ¬ ttClean p.2 ∨ (gavBusy h ∧ p.2.req.kind = .evict) then none
      else match activeEnt h (.pa ln) with
        | some (i, t) => if joins h t ln (p.2.req.hdr.src.setWidth 12) then some (p.1, p.2, i, t) else none
        | none => none
    | _, _ => none)

/-- The data of the WriteBack in entry `j` becomes home data of line `li` of transaction `i` (R93); one that discards it lets it
complete at once. -/
def wbDeliver (i j : Nat) (pay : List PWord) (x : BitVec 12) (li : Nat) (h : Hw) : Hw :=
  match ent h i with
  | none => h
  | some t =>
    let drop := match t.req.kind with | .writeInv => true | .maint 2 => true | _ => false
    let h := updEnt i (fun t =>
      let t := { t with snp := t.snp.map (fun s =>
        if s.cai = x ∧ s.st = .wb ∧ s.li = li then { s with st := .done false, gone := true } else s) }
      if drop then t else { putWords t li 0 pay with held := t.held ||| 2 ^ li, dirty := t.dirty ||| 2 ^ li }) h
    let h := wbCame x (lineOf t li) h
    if drop then setTodo j (.commit :: answerTail) h else h

/-- An EVT-class message joins: an Evict and a WriteBack that no snoop asks for act at once, another WriteBack is held until its
sender answers. (DEDUCED, log entry 20) -/
def joinEvt (c : Cells Word) (j : Nat) (e : Ent) (i : Nat) (t : Ent) (h : Hw) : Hw :=
  let x : BitVec 12 := e.req.hdr.src.setWidth 12
  let h := updEnt j (fun e => { e with joined := some i }) h
  match t.snp.find? (fun s => (s.cai == x) && (lineOf t s.li == lineOf e 0) &&
    (match s.st with | .done _ => false | _ => true)), e.req.kind with
  | some s, .writeBack =>
    let h := setTodo j [.ack] h
    if s.st = .wb then wbDeliver i j e.req.pay x s.li h else h
  | _, _ => evtApply c j e h

/-- The WriteBack that entry `i` waits for from `x` for line `k`, where it is held already. -/
def wbHeld (h : Hw) (i : Nat) (k : LineKey) (x : BitVec 12) : Option (Nat × Ent) :=
  cSeek (fun _ e => decide (e.joined = some i) && (e.req.kind == .writeBack) && (e.req.hdr.src.setWidth 12 == x) &&
    (lineOf e 0 == k) && (e.todo.head? == some .ack)) h.core.tt

/-- A WriteBack held for the answer to snoop `s` of entry `i` is applied at once: the answer was another, or its sender is
fenced (R88, R92, R97). -/
def applyHeld (c : Cells Word) (i : Nat) (s : Snp) (h : Hw) : Hw :=
  match ent h i with
  | none => h
  | some t =>
    match wbHeld h i (lineOf t s.li) s.cai with
    | some (j, e) => evtApply c j e h
    | none => h

/-! ### Acts -/

/-- XP owes nothing to entry `i` (R30, R374). -/
def xpQuiet (h : Hw) (i : Nat) : Bool :=
  !(h.xp.wait.any (fun w => decide (w.1 = i))) && !(h.xp.rds.any (fun p => decide (p.2.tt = i))) &&
    !((h.xp.wrs ++ h.xp.wrUp.toList).any (fun w => w.own == some (.tt i)))

/-- The XP read of line `li` of entry `i` has been asked for and has not ended. -/
def xpOwed (h : Hw) (i li : Nat) : Bool :=
  h.xp.wait.any (fun w => decide (w.1 = i ∧ w.2.1 = li)) ||
    h.xp.rds.any (fun p => decide (p.2.tt = i ∧ p.2.li = li ∧ p.2.owed ≠ 0))

/-- Entry `i` reads a line from XP: at once where the data came while it did something else, else in the place that its request
has or now takes (R30, R341). -/
def xrdAct (i : Nat) (e : Ent) (addr secs li : Nat) (h : Hw) : Hw :=
  if bitN e.xgot li then popAct i (updEnt i (fun e => { e with xgot := e.xgot - 2 ^ li }) h)
  else if xpOwed h i li then setBusy i h
  else xpAsk i li addr secs (setBusy i h)

/-- The head act of an entry may go on now. Acts that wait for a command never may. -/
def ready (h : Hw) (i : Nat) (e : Ent) (a : Act) : Bool :=
  match a with
  | .snp => snpDone e
  | .vic j => match ent h j with
    | some v => !((v.req.kind == .victimWb) && (match v.todo.head? with | some (.rd ..) => true | _ => false))
    | none => true
  | .clear => linesClear h e.req
  | .home li _ => bitN e.held li || allocOk e (lineOf e li) h
  | .putLine li => ((e.req.kind == .backInv) && decide (e.aux = 0)) || allocOk e (lineOf e li) h
  | .part => allocOk e (lineOf e 0) h
  | .sent => e.compSent || e.req.port.isNone
  | .go 0 => (match e.req.kind with | .preload => preloadFree h e | _ => true)
  | .free => xpQuiet h i
  | .ack => decide (e.aux2 = 1) && ((e.req.kind == .readShared) || (e.req.kind == .readOwn))
  | .merge | .step | .alb => false
  | _ => true

/-- The response of a request goes to its requester, or to the engine that made it (R87, R226, R235). -/
def respondAct (c : Cells Word) (i : Nat) (e : Ent) (h : Hw) : Hw :=
  match e.req.eng with
  | some g =>
    let ws := readWordsOf e
    let code := match e.req.kind with
      | .readNoSnoop => if e.code ≠ 0 then e.code else if ws.any (·.poi) then 2 else if e.corr then 1 else 0
      | _ => dataCode e
    engDeliver c g code ws (dirUpdate e (popAct i (updEnt i (fun e => { e with compSent := true, committed := true }) h)))
  | none => respond i (popAct i h)

/-- Entry `i` commits. -/
def commitAct (i : Nat) (e : Ent) (h : Hw) : Hw :=
  let h := popAct i (updEnt i (fun e => { e with committed := true }) h)
  match e.req.kind with
  | .maint code =>
    let h := mntCommit e h
    (match lineOf e 0 with
    | .pa ln => if code = 1 then (goneList e).foldl (fun h x => sfChange ln (fun s => s.remove x) h) h else h
    | .loc _ _ => h)
  | .preload | .flush => mntCommit e h
  | .repair => repairEnd e h
  | _ => h

/-- Entry `i` is freed. -/
def freeAct (i : Nat) (e : Ent) (h : Hw) : Hw :=
  let h := freeEnt i h
  match e.req.kind, h.prot.dis with
  | .wayDis, some (w, .walk set fly cyc) =>
    h.modProt (fun it => { it with dis := some (w, .walk set (fly - 1) cyc) })
  | _, _ => h

/-- Phase `n` of what the kind of entry `i` does. -/
def goAct (c : Cells Word) (i : Nat) (e : Ent) (n : Nat) (h : Hw) : Hw :=
  match e.req.kind with
  | .enq | .deq | .enqB | .deqB => if n = 1 then queDecide c i e h else queCollect i e h
  | .queCmd code =>
    if n = 1 then queCmdGo i e code h
    else popAct i (h.modUnits (fun it => { it with queEnd := some (BitVec.ofNat 3 e.aux) }))
  | .evtClear b => evtClearGo i e b h
  | .selOffer | .selPairs | .selReadReset | .selReset => if n = 3 then selCount i e h else selGo c i e h
  | .selCmd code =>
    if n = 1 then selCmdGo i e code h
    else popAct i (h.modUnits (fun it => { it with selEnd := some (BitVec.ofNat 3 e.aux) }))
  | .repair => repairGo i e n h
  | .chkWrite | .chkRead => chkGo i e n h
  | .lrtMap | .lrtUnmap => lrtGo i e n h
  | .tangoRead => tangoServe c i e h
  | .maint _ => if n = 6 then mntClean i e h else if n = 7 then mntWrote i e h else mntDrop i e h
  | .wayDis => mntDrop i e h
  | .preload => preloadGo i e h
  | _ => popAct i h

/-- The lookup, which notes when it sets a bit of ECC.PG_ERR or COH.PG_ERR (R111). -/
def lookupAct (c : Cells Word) (i : Nat) (e : Ent) (h : Hw) : Hw :=
  let h' := lookup c i e h
  if [8, 17].all (fun p => roGet h' (rg p 0x10) == roGet h (rg p 0x10)) then h' else updEnt i (fun e => { e with cause := true }) h'

/-- The head act of entry `i` goes on. -/
def runAct (c : Cells Word) (i : Nat) (e : Ent) (a : Act) (h : Hw) : Hw :=
  match a with
  | .lookup => lookupAct c i e h
  | .sf => (match lineOf e 0 with | .pa ln => sfTake c i e ln h | .loc _ _ => popAct i h)
  | .snp | .vic _ | .clear | .sent | .ack => popAct i h
  | .resolve => resolve i e h
  | .home li secs => homeStart i e li secs h
  | .putLine li => putStart i e li h
  | .poison li => poisonLine i li h
  | .rd way set secs li =>
    let first := fld e.req.hdr.addr 6 6
    askOp i (lineOp h (.tt i) (whoOf e.req) (masterOf e.req) (lineOf e (if li < 4 then li else 0)) way set (secList secs first)
      false [] li false false) h
  | .wr way set mask li lin =>
    if mask = 0 then popAct i h else
    askOp i (lineOp h (.tt i) (whoOf e.req) (masterOf e.req) (lineOf e (if li < 4 then li else 0)) way set
      (secList (secsOf mask) 0) true (codeWords e li mask) li false lin) h
  | .xrd addr secs li => xrdAct i e addr secs li h
  | .xwr addr secs li => if secs = 0 then popAct i h else xpWrite (xpBeats (some (.tt i)) addr secs (lineWords e li)) (setBusy i h)
  | .part => partStart i e h
  | .jig =>
    if jigCan h i e then jigPass c i e h else setBusy i h
  | .cell => dispatchCells i e h
  | .go n => goAct c i e n h
  | .wbDone => popAct i (wbRelease i h)
  | .commit => commitAct i e h
  | .respond => respondAct c i e h
  | .evt => evtApply c i e h
  | .free => freeAct i e h
  | .alb | .merge | .step => h

/-- The entry is at work, and what holds the slice lets it go on: from the hold step on only the writes that finish a begun
commit (R335). -/
def mayRun (h : Hw) (e : Ent) : Bool :=
  (e.active || e.joined.isSome) && !e.busy && ttClean e && (!(gavHolds h) || (e.wrote && !e.committed))

/-- The oldest entry whose next act may go on. -/
def nextAct (h : Hw) : Option (Nat × Ent × Act) :=
  (leastBy (fun p => p.2.1.arr) (h.core.tt.filterMap (fun p =>
    if mayRun h p.2 then
      match p.2.todo with
      | a :: _ => if ready h p.1 p.2 a then some (p.1, p.2, a) else none
      | [] => none
    else none)))

/-- Write-backs of the ALB that waited for room for a victim begin (R144). -/
def albRetry (h : Hw) : Hw :=
  h.near.alb.foldl (fun h p => if p.2.wb && !p.2.started then albStart p.1 h else h) h

/-- Entries go on, one act at a time, oldest first, until none can. -/
def settleLoop (c : Cells Word) : Nat → Hw → Hw
  | 0, h => h
  | f + 1, h =>
    match nextJoin h with
    | some (j, e, i, t) => settleLoop c f (joinEvt c j e i t h)
    | none =>
      match nextAct h with
      | some (i, e, a) => settleLoop c f (runAct c i e a h)
      | none => h

/-- What follows a command at once. (DESIGN CHOICE, log entry 12) -/
def settle (c : Cells Word) (h : Hw) : Hw := settleLoop c 4096 (if gavHolds h then h else albRetry h)

/-! ### Activation (R28) -/

/-- Entry `i` may become active: on each of its lines no entry is active and none that waits is older. A message that has joined a
transaction has left the order. -/
def mayActivate (h : Hw) (i : Nat) (e : Ent) : Bool :=
  !e.active && e.joined.isNone && !(gavHolds h) &&
    e.req.lines.all (fun k => h.core.tt.all (fun p =>
      decide (p.1 = i) || !(p.2.req.lines.contains k) || p.2.joined.isSome || (!p.2.active && decide (e.arr < p.2.arr))))

/-- The event of an activation (R458). -/
def actEvent (k : Kind) : Option Nat :=
  match k with
  | .readShared => some 0x3B
  | .readOwn => some 0x3C
  | .readNoSnoop => some 0x3D
  | .writeInv => some 0x3E
  | .writePart => some 0x3F
  | .aliasW _ => some 0x3E
  | .atomic | .acc | .tangoRead => some 0x40
  | .evict => some 0x41
  | .writeBack => some 0x42
  | _ => none

/-- Entry `i` becomes active (R28, R469). -/
def activate (i : Nat) (e : Ent) (h : Hw) : Hw :=
  let h := updEnt i (fun e => { e with active := true }) h
  let h := match actEvent e.req.kind with
    | some x =>
      let x := match e.req.kind with | .aliasW _ => if e.req.hdr.type = 0x05 then 0x3F else 0x3E | _ => x
      ev x 1 h
    | none => h
  stamp 4 e.req.iseq h

/-! ### Commands -/

/-- The slice is out of reset: it takes commands (R412). -/
def running (h : Hw) : Bool := h.rst.mode == .run

/-- A command that changes the hardware only, taken out of reset, with what follows at once.
(DESIGN CHOICE, log entry 11) -/
def act (f : Cells Word → Hw → Hw) (s : State) : State :=
  if running s.hw then { s with hw := settle s.cfg (f s.cfg s.hw) } else s

end Sys2Proof.Machine
end

