-- ==== Sys2Proof/Machine/Coh.lean ====
section
/-! DEFINITION. Henit at the home: the commands that bring a snoop response, a CompAck, forwarded data, a residual report or a
fence, and the walk and the timeout of the snoop filter (R86, R89, R93 to R102, R118, R369, R370). -/
namespace Sys2Proof.Machine

/-- What a command answers. -/
abbrev Out : Type := Host.Outcome State Fault Refusal

/-- The message at the head of a VC, when its type is `t` and it is well formed (R368); before READY only requests count as
such (R423). -/
def headOf (h : Hw) (p : Port) (vc t : Nat) : Option (Hdr × List PWord) :=
  match headMsg h p vc with
  | some (x, pay, _) =>
    if x.type.toNat = t ∧ wellFormed vc x ∧ (vc / 2 = 0 ∨ h.rst.boot = .ready) then some (x, pay) else none
  | none => none

/-- A command that consumes the message at the head of a VC, where `f` has a use for it. -/
def actMsg (p : Port) (vc t : Nat) (f : Cells Word → Hdr → List PWord → Hw → Option Hw) (s : State) : State :=
  if !running s.hw then s else
  match headOf s.hw p vc t with
  | some (x, pay) =>
    match f s.cfg x pay s.hw with
    | some h => { s with hw := settle s.cfg (popMsg p vc h) }
    | none => s
  | none => s

/-! ### Snoop responses (R86) -/

/-- The sender of a message as a caching agent (R362). -/
def senderCai (x : Hdr) : BitVec 12 := x.src.setWidth 12

/-- The snoop that a response answers: sent, not yet answered, to this agent, for the line of ADDR. -/
def snpFor (c : Cells Word) (h : Hw) (e : Ent) (x : Hdr) : Option Snp :=
  e.snp.find? (fun s => (s.cai == senderCai x) && (s.st == .out) &&
    (decide (e.req.lines.length = 1) || decide (lineByte c h (lineOf e s.li) / 128 = x.addr.toNat / 128)))

/-- The entry and the snoop for which a message is a response; none from a fenced agent (R97). -/
def awaited (c : Cells Word) (h : Hw) (x : Hdr) : Option (Nat × Ent × Snp) :=
  if fenced h (senderCai x) then none else
  match ent h x.tti.toNat with
  | some e => (snpFor c h e x).map (fun s => (x.tti.toNat, e, s))
  | none => none

/-- Change one snoop of entry `i`. -/
def updSnp (i : Nat) (s : Snp) (f : Snp → Snp) (h : Hw) : Hw :=
  updEnt i (fun e => { e with snp := e.snp.map (fun x => if x = s then f x else x) }) h

/-- Data that an agent returned for line `li`: home data from now on, to be written when dirty (R86, R91). -/
def takeData (i li : Nat) (pay : List PWord) (dirty : Bool) (h : Hw) : Hw :=
  updEnt i (fun e => { putWords e li 0 pay with
    held := e.held ||| 2 ^ li, dirty := if dirty then e.dirty ||| 2 ^ li else e.dirty }) h

/-- The recovery poisons a line (R337): log entry, counter, and the line is written poisoned before anything else. -/
def recoverPoison (c : Cells Word) (i li cls : Nat) (h : Hw) : Hw :=
  match ent h i with
  | none => h
  | some e =>
    let h := recLoss (lineSrc c h (lineOf e li)) cls 0xFFFFFFFF e.req.iseq h
    updEnt i (fun e => { e with toPoison := e.toPoison ||| 2 ^ li }) h

/-- The sender of a WriteBack whose own transaction recalls the line from every agent has answered WbInFlight: the data is the
WriteBack's own (R82, R93). -/
def wbOwn (i : Nat) (t : Ent) (s : Snp) (h : Hw) : Hw :=
  updEnt i (fun e => { e with aux2 := 1 })
    (takeData i 0 t.req.pay true (updEnt i (fun e => { e with snp := e.snp.map (fun x =>
      if x.cai = s.cai ∧ x.st = .wb then { x with st := .done false } else x) }) h))

/-- The forms of response that R85 allows to each snoop, by TYPE. (DEDUCED, log entry 10) -/
def respAllowed (k : SnpKind) (t : Nat) : Bool :=
  match k with
  | .shared => t == 0x30 || t == 0x31 || t == 0x32 || t == 0x35 || t == 0x19
  | .own => t == 0x30 || t == 0x33 || t == 0x35
  | .copy => t == 0x30 || t == 0x31 || t == 0x34 || t == 0x35
  | .inv => t == 0x30 || t == 0x35
  | .recall => t == 0x30 || t == 0x35 || t == 0x1A

/-- What a response of this TYPE does (R86, R93, R337). -/
def respEffect (c : Cells Word) (x : Hdr) (pay : List PWord) (i : Nat) (s : Snp) (h : Hw) : Hw :=
  let t := x.type.toNat
  let close := fun (fwd gone : Bool) (h : Hw) =>
    applyHeld c i s (updSnp i s (fun s => { s with st := .done fwd, gone := gone }) h)
  if t = 0x30 then
    let h := close false true h
    if s.lost && (s.kind == .recall) && s.own then recoverPoison c i s.li 0 h else h
  else if t = 0x31 then close false false h
  else if t = 0x32 then ev 0x4F 1 (close true false h)
  else if t = 0x33 then ev 0x4F 1 (close true true h)
  else if t = 0x34 then ev 0x4F 1 (close true false h)
  else if t = 0x19 then ev 0x4F 1 (takeData i s.li pay true (close true false h))
  else if t = 0x1A then takeData i s.li pay (bit x.arg2 0) (close false true h)
  else
    let h := ev 0x50 1 (updSnp i s (fun s => { s with st := .wb, gone := true, cyc := now h, tmo := false }) h)
    match ent h i with
    | none => h
    | some t =>
      if (t.req.kind == .writeBack) && (senderCai t.req.hdr == s.cai) then wbOwn i t s h
      else match wbHeld h i (lineOf t s.li) s.cai with
        | some (j, e) => wbDeliver i j e.req.pay s.cai s.li h
        | none => h

/-- A snoop response of TYPE `t` at the head of a VC reaches its transaction, whose entry is read (R333). A form that R85 does not give to the snoop breaks
R71, and no rule says what follows. -/
def respCmd (t : Nat) (p : Port) (vc : Nat) (s : State) : Out :=
  if !running s.hw then .next s else
  match headOf s.hw p vc t with
  | none => .next s
  | some (x, pay) =>
    match awaited s.cfg s.hw x with
    | none => .next s
    | some (i, _, sn) =>
      if respAllowed sn.kind t then
        .next { s with hw := settle s.cfg (ttSee s.cfg i (respEffect s.cfg x pay i sn (popMsg p vc s.hw))) }
      else .fault .assumptionBroken

/-- NO_COPY (R86). -/
def execNoCopy (p : Port) (vc : Nat) (s : State) : Out := respCmd 0x30 p vc s
/-- KEPT_SHARED (R86). -/
def execKeptShared (p : Port) (vc : Nat) (s : State) : Out := respCmd 0x31 p vc s
/-- PASSED_SHARED (R86). -/
def execPassedShared (p : Port) (vc : Nat) (s : State) : Out := respCmd 0x32 p vc s
/-- PASSED_GONE (R86). -/
def execPassedGone (p : Port) (vc : Nat) (s : State) : Out := respCmd 0x33 p vc s
/-- PASSED_KEPT (R86). -/
def execPassedKept (p : Port) (vc : Nat) (s : State) : Out := respCmd 0x34 p vc s
/-- WB_IN_FLIGHT (R93). -/
def execWbInFlight (p : Port) (vc : Nat) (s : State) : Out := respCmd 0x35 p vc s
/-- PASSED_DIRTY (R86). -/
def execPassedDirty (p : Port) (vc : Nat) (s : State) : Out := respCmd 0x19 p vc s
/-- LINE_BACK (R86). -/
def execLineBack (p : Port) (vc : Nat) (s : State) : Out := respCmd 0x1A p vc s

/-! ### Forwarded data to the home, and CompAck -/

/-- Entry `i` awaits data forwarded to the slice itself: a maintenance transaction as the home, with DKIND 2, or an engine's request
as its requester, with DKIND 0 and its tag (R118, R217, R362). -/
def awaitsFwd (h : Hw) (i : Nat) (x : Hdr) : Bool :=
  match ent h i with
  | some e =>
    (match e.req.kind with
      | .maint _ => decide (x.dkind = 2)
      | _ => e.req.eng.isSome && decide (x.dkind = 0) && (e.req.hdr.rtag == x.rtag)) && !(bitN e.held 0) &&
      !(fenced h (senderCai x)) &&
      e.snp.any (fun s => (s.cai == senderCai x) && ((s.st == .out) || (s.st == .done true)))
  | none => false

/-- FwdData reaches the transaction of the home that it was forwarded to. -/
def fwdHome (c : Cells Word) (x : Hdr) (pay : List PWord) (h : Hw) : Option Hw :=
  if awaitsFwd h x.tti.toNat x then some (ttSee c x.tti.toNat (takeData x.tti.toNat 0 pay false h)) else none

/-- FWD_DATA_TO_HOME (R118). -/
def execFwdDataToHome (p : Port) (vc : Nat) (s : State) : Out := .next (actMsg p vc 0x18 fwdHome s)

/-- Entry `i` awaits the CompAck of this agent (R89). -/
def awaitsAck (h : Hw) (i : Nat) (x : BitVec 12) : Bool :=
  match ent h i with
  | some e =>
    ((e.req.kind == .readShared) || (e.req.kind == .readOwn)) && e.compSent && decide (e.code = 0) &&
      decide (e.aux2 = 0) && (caiOf e.req.hdr == x)
  | none => false

/-- The CompAck of entry `i` has arrived. -/
def acked (i : Nat) (h : Hw) : Hw := updEnt i (fun e => { e with aux2 := 1 }) h

/-- CompAck frees its transaction once nothing else keeps it (R89). -/
def compAck (c : Cells Word) (x : Hdr) (_ : List PWord) (h : Hw) : Option Hw :=
  if awaitsAck h x.tti.toNat (senderCai x) ∧ ¬ fenced h (senderCai x) then some (ttSee c x.tti.toNat (acked x.tti.toNat h)) else none

/-- COMP_ACK (R89). -/
def execCompAck (p : Port) (vc : Nat) (s : State) : Out := .next (actMsg p vc 0x39 compAck s)

/-! ### Fences (R95 to R99) -/

/-- A fence takes effect: no further snoop goes to the agent, and a new fence clears the swept bit (R95, R99).
(DEDUCED, log entry 54) -/
def fenceCai (x : BitVec 12) (h : Hw) : Hw :=
  if fenced h x then h else
  dropSnoops x (h.modHome (fun it => { it with fenced := it.fenced ++ [x], swept := it.swept.filter (· != x) }))

/-- AGENT_FENCE (R95). A message that names no caching agent is discarded. -/
def execAgentFence (p : Port) (vc : Nat) (s : State) : Out :=
  .next (actMsg p vc 0x3A (fun c x _ h =>
    let y : BitVec 12 := x.arg2.setWidth 12
    some (if caiOk c y then fenceCai y h else h)) s)

/-- The fence completes what entry `i` awaits from the fenced agent (R96). -/
def fenceSnoop (c : Cells Word) (i : Nat) (x : BitVec 12) (h : Hw) : Hw :=
  if !(fenced h x) then h else
  match ent h i with
  | none => h
  | some e =>
    match e.snp.find? (fun s => (s.cai == x) && (match s.st with | .done _ => false | _ => true)) with
    | some s =>
      let lose := (s.st == .wb) || (s.own && (match s.kind with | .inv => false | _ => true))
      let h := applyHeld c i s (ev 0x54 1 (updSnp i s (fun s => { s with st := .done false, gone := true }) h))
      if lose then
        match lineOf e s.li with
        | .pa ln => updEnt i (fun e => { e with toPoison := e.toPoison ||| 2 ^ s.li }) (fenceLoss ln x h)
        | .loc _ _ => h
      else h
    | none => if awaitsAck h i x then acked i h else h

/-- FENCE_SNOOP_COMPLETE (R96). -/
def execFenceSnoopComplete (tt : Nat) (cai : BitVec 12) (s : State) : Out :=
  .next (act (fun c h => fenceSnoop c tt cai h) s)

/-- The sweep ends: BUSY clears, and the CAI is swept (R99, R102). -/
def sweepDone (x : BitVec 12) (h : Hw) : Hw :=
  let h := put 8 0x44 ((roGet h (rg 8 0x44)).toNat % 2 ^ 31) h
  (h.modHome (fun it => { it with sweep := none, swept := if it.swept.contains x then it.swept else it.swept ++ [x] }))

/-- The sweep reads its next set, in a CLK_P cycle in which no lookup reads the snoop filter (R99); not in a Gavotte sequence, since
what it finds may need a TT entry (R344). -/
def sweepSet (c : Cells Word) (h : Hw) : Hw :=
  match h.home.sweep with
  | none => h
  | some (x, set) =>
    if gavBusy h ∨ h.home.sfCyc = some (now h) ∨ h.home.sweepCyc = some (now h) then h else
    match (List.range 16).foldl (fun (o : Option Hw) n => o.bind (fun h => sfTend c set (some x) h n))
        (some (sfFix set ownRid h)) with
    | none => h
    | some h =>
      let h := h.modHome (fun it => { it with sweep := some (x, set + 1), sweepCyc := some (now h) })
      if set + 1 = 16384 then sweepDone x h else h

/-- SWEEP_SET (R99). -/
def execSweepSet (s : State) : Out := .next (act sweepSet s)

/-- A snoop of entry `i` to `x` has had no response for COH.SNP_TMO CLK_C cycles (R100); after WbInFlight, no WriteBack (R337).
(DEDUCED, log entry 51) -/
def snpTmo (c : Cells Word) (i : Nat) (x : BitVec 12) (h : Hw) : Hw :=
  let lim := cf c 8 0x5C 15 0
  match ent h i with
  | none => h
  | some e =>
    match e.snp.find? (fun s => (s.cai == x) && !s.tmo && ((s.st == .out) || (s.st == .wb))) with
    | none => h
    | some s =>
      if lim = 0 ∨ now h / 4 < s.cyc / 4 + lim then h else
      let rid := if e.req.port.isSome ∨ e.req.eng.isSome then e.req.hdr.src else ownRid
      let h := updSnp i s (fun s => { s with tmo := true }) h
      let h := report 9 false x.toNat (b2n (s.st == .wb)) 0 rid h e.req.iseq
      if s.st = .wb then h else put 8 0x6C (2 ^ 31 + x.toNat) (err 8 1 h)

/-- SNOOP_TMO (R100). -/
def execSnoopTmo (tt : Nat) (cai : BitVec 12) (s : State) : Out := .next (act (fun c h => snpTmo c tt cai h) s)

/-! ### COH.FENCE (R101, R102) -/

/-- The result of a COH.FENCE operation, or none where it is refused because a sweep runs (R102). -/
def fenceOp (c : Cells Word) (op : Nat) (x : BitVec 12) (h : Hw) : Hw :=
  let busy := h.home.sweep.isSome
  let stat := fun (b : Bool) (r : Nat) (h : Hw) =>
    if busy then h else put 8 0x44 ((if b then 2 ^ 31 else 0) + r * 2 ^ 16 + op * 2 ^ 12 + x.toNat) h
  if !caiOk c x ∧ op ≠ 0 then stat false 3 h
  else if op = 0 then stat false 0 h
  else if op = 1 then stat false 0 (fenceCai x h)
  else if busy then err 8 0 h
  else if op = 2 then
    if h.home.swept.contains x then
      stat false 0 (h.modHome (fun it => { it with
        fenced := it.fenced.filter (· != x) }))
    else stat false 5 (err 8 0 h)
  else if fenced h x then stat true 0 (h.modHome (fun it => { it with sweep := some (x, 0) }))
  else stat false 5 (err 8 0 h)

/-- COH_FENCE (R95). -/
def execCohFence (cai : BitVec 12) (s : State) : Out := .next (act (fun c h => fenceOp c 1 cai h) s)
/-- COH_UNFENCE (R99). -/
def execCohUnfence (cai : BitVec 12) (s : State) : Out := .next (act (fun c h => fenceOp c 2 cai h) s)
/-- COH_SWEEP (R99). -/
def execCohSweep (cai : BitVec 12) (s : State) : Out := .next (act (fun c h => fenceOp c 3 cai h) s)
/-- COH_FENCE_NOP (R102). -/
def execCohFenceNop (cai : BitVec 12) (s : State) : Out := .next (act (fun c h => fenceOp c 0 cai h) s)

/-! ### Multicast reports and lists (R369, R370) -/

/-- The residual targets of a coarse-group snoop are snooped again by unicast, but for those fenced meanwhile (R80, R95). -/
def resnoop (c : Cells Word) (i g : Nat) (mask : BitVec 64) (h : Hw) : Hw :=
  match ent h i with
  | none => h
  | some e =>
    (bitsOf mask.toNat 64).foldl (fun h j =>
      match e.snp.find? (fun s => decide (s.cai.toNat = 64 * g + j) && (s.st == .out)) with
      | some s => if fenced h s.cai then h else sendSnp c i e s h
      | none => h) h

/-- A residual report frees its tag and reaches whoever sent the multicast (R369). -/
def mcastResidual (c : Cells Word) (x : Hdr) (_ : List PWord) (h : Hw) : Option Hw :=
  let tag := fld x.arg2 11 0
  let h := ev 0x2D (ones x.arg0.toNat 64) h
  let free := h.modPorts (fun it => { it with mtags := cDel it.mtags tag })
  match cFind h.ports.mtags tag with
  | none => some (err 2 2 h)
  | some (.chunk n k m) => some (reelTell c n k m (x.arg0.setWidth 32) free)
  | some (.snpGroup i g) => some (resnoop c i g x.arg0 free)
  | some _ => some free

/-- MCAST_RESIDUAL (R369). -/
def execMcastResidual (p : Port) (vc : Nat) (s : State) : Out := .next (actMsg p vc 0x3E mcastResidual s)

/-- MCAST_LIST_ACK (R370): one McastList of the list is answered. One that nothing awaits is stale. -/
def execMcastListAck (p : Port) (vc : Nat) (s : State) : Out :=
  .next (actMsg p vc 0x2D (fun _ x _ h =>
    let g := fld x.arg2 3 0
    let n := cGet 0 h.reel.lists g
    if n = 0 then none else some (h.modReel (fun it => { it with lists := cPut 0 it.lists g (n - 1) }))) s)

/-! ### Responses to an engine's remote requests (R87, R217, R219) -/

/-- A Comp, CompData or FwdData for a remote request: it is done with CompData, or with Comp and, for a read that completes with
OK, the data forwarded to the requester (R362). -/
def remoteResp (c : Cells Word) (x : Hdr) (pay : List PWord) (h : Hw) : Option Hw :=
  let tag := x.rtag.toNat
  let set := fun (r : Remote) => (h.modGlp (fun it => { it with remote := cIns it.remote tag r }))
  let fin := h.modGlp (fun it => { it with remote := cDel it.remote tag })
  match cFind h.glp.remote tag with
  | none => none
  | some r =>
    let t := x.type.toNat
    if t = 0x1B then some (engDeliver c r.eng x.resp pay fin)
    else if t = 0x36 then
      if !r.read || decide (3 ≤ x.resp.toNat) then some (engDeliver c r.eng x.resp [] fin)
      else match r.data with
        | some ws => some (engDeliver c r.eng (if ws.any (·.poi) then 2 else 0) ws fin)
        | none => if r.comp.isSome then none else some (set { r with comp := some x.resp })
    else if t = 0x18 then
      if !r.read || r.data.isSome || decide (x.dkind ≠ 0) then none
      else match r.comp with
        | some _ => some (engDeliver c r.eng (if pay.any (·.poi) then 2 else 0) pay fin)
        | none => some (set { r with data := some pay })
    else none

/-- ENGINE_COMP (R226): the response of another slice to a request of an engine, at the head of a VC. -/
def execEngineComp (p : Port) (vc : Nat) (s : State) : Out :=
  .next (match (headMsg s.hw p vc).map (·.1.type.toNat) with
    | some t => if t = 0x36 ∨ t = 0x1B ∨ t = 0x18 then actMsg p vc t remoteResp s else s
    | none => s)

/-! ### Messages that nothing awaits (R493) -/

/-- A well-formed message of a response class that nothing awaits. -/
def isStale (c : Cells Word) (h : Hw) (x : Hdr) (pay : List PWord) : Bool :=
  let t := x.type.toNat
  if (0x30 ≤ t ∧ t ≤ 0x35) ∨ t = 0x19 ∨ t = 0x1A then (awaited c h x).isNone
  else if t = 0x39 then (compAck c x pay h).isNone
  else if t = 0x18 then (fwdHome c x pay h).isNone && (remoteResp c x pay h).isNone
  else if t = 0x36 ∨ t = 0x1B then (remoteResp c x pay h).isNone
  else if t = 0x2D then decide (cGet 0 h.reel.lists (fld x.arg2 3 0) = 0)
  else decide (t = 0x37 ∨ t = 0x38 ∨ t = 0x3B ∨ t = 0x3C ∨ t = 0x3D ∨ t = 0x1C ∨ t = 0x2C)

/-- STALE_MSG (R493). -/
def execStaleMsg (p : Port) (vc : Nat) (s : State) : Out :=
  .next (match (headMsg s.hw p vc).map (·.1.type.toNat) with
    | some t => actMsg p vc t (fun c x pay h => if isStale c h x pay then some (cnt 22 0x5C 1 h) else none) s
    | none => s)

end Sys2Proof.Machine
end

