-- ==== Sys2Proof/Machine/Requests.lean ====
section
/-! DEFINITION. The commands that bring a request or an EVT-class message: intake (R18, R19), samples (R467, R468), decode and
its checks (R16, R22, R53, R77, R112, R135, R156, R170, R202, R243, R325, R364, R423, R448 to R451), classes (R255, R264, R265,
R492), the admission buffer (R24, R27), admission (R25, R26, R257), activation (R28, R334), FENCE (R112 to R114) and the
malformed messages (R368). -/
namespace Sys2Proof.Machine

/-! ### Intake -/

/-- A port has delivered a request in this CLK_P cycle. -/
def inDone (h : Hw) (p : Port) : Bool := (match p with | .mp => h.core.inMp | .vp => h.core.inVp) == some (now h)

/-- A port holds a complete, well-formed request or EVT-class message that has not passed intake (R18, R24). -/
def inHas (h : Hw) (p : Port) : Bool :=
  [0, 1, 4, 5].any (fun vc =>
    (cFind h.core.dec (portKey p vc)).isNone && (match headMsg h p vc with
      | some (x, _, _) => wellFormed vc x && (decide (vc / 2 = 0) || (h.rst.boot == .ready))
      | none => false))

/-- Port `p` may deliver to intake now: once a cycle, and not before the port that R18 puts first. A message that waits past
intake delivers nothing. -/
def mayIntake (h : Hw) (p : Port) : Bool :=
  let first : Port := if now h % 2 = 0 then .vp else .mp
  !(inDone h p) && (decide (p = first) || inDone h first || !(inHas h first))

/-- The step of the 23-bit LFSR, x^23 + x^18 + 1 (R467). -/
def lfsrStep (x : BitVec 23) : BitVec 23 := (x <<< 1) ||| (BitVec.ofBool (x.getLsbD 22 != x.getLsbD 17)).setWidth 23

/-- A candidate for sampling: the LFSR steps; a selected request is tagged or dropped (R467, R468).
(DEDUCED, log entry 72) -/
def sampleStart (c : Cells Word) (p : Port) (n acc : Nat) (x : Hdr) (label : Label) (tc : Nat) (h : Hw) : Hw :=
  if cf c 25 0x40 31 31 = 0 ∨ (cf c 25 0x40 24 24 = 1 ∧ cf c 25 0x40 23 12 ≠ x.label.toNat) then h else
  let l := lfsrStep h.perf.lfsr
  let h := h.modPerf (fun it => { it with lfsr := l })
  if l.toNat % 2 ^ (min 20 (cf c 25 0x40 4 0)) ≠ 0 then h
  else if h.perf.fly.length < 4 ∧ smpOcc h + h.perf.fly.length < 16 then
    let num := (roGet h (rg 25 0x58)).toNat
    let s : Sample := { num := num, iseq := n, rid := x.src, label := label, tc := tc, vp := decide (p = .vp),
                        type := x.type.toNat, lost := false, replayed := false, outcome := 0, resp := 0, addr := x.addr,
                        stamps := [], valid := 0 }
    let h := ev 0x9E 1 (cntW 25 0x58 1 (h.modPerf (fun it => { it with fly := it.fly ++ [s] })))
    stampAt 2 n (now h) (stampAt 1 n acc h)
  else ev 0x9F 1 (err 25 1 (cnt 25 0x5C 1 h))

/-- A message passes intake at a port in this CLK_P cycle: the next number is given (R18, R19). -/
def passIntake (p : Port) (h : Hw) : Hw :=
  let co := { h.core with nextSeq := h.core.nextSeq + 1 }
  h.setCore (match p with | .mp => { co with inMp := some (now h) } | .vp => { co with inVp := some (now h) })

/-- A request is at intake: it takes the next number, which is the answer, and its completion is owed (R18, R19, R113).
(DEDUCED, log entry 70) -/
def intake (c : Cells Word) (p : Port) (acc : Nat) (x : Hdr) (label : Label) (tc : Nat) (h : Hw) : Hw × Nat :=
  let n := h.core.nextSeq
  let other : Port := match p with | .mp => .vp | .vp => .mp
  let h := if inDone h other then ev 0x30 1 h else h
  let h := ev (match p with | .mp => 0x2E | .vp => 0x2F) 1 h
  let h := h.modCore (fun it => { it with owing := it.owing ++ [(n, x.src)] })
  (sampleStart c p n acc x label tc (passIntake p h), n)

/-! ### Decode -/

/-- What decode answers: a response code with ARG2, or the transaction that the request becomes: kind, lines and parameter. -/
inductive Dec where
  | code (v : BitVec 3) (arg2 : BitVec 32)
  | go (kind : Kind) (lines : List LineKey) (par : Nat)
deriving DecidableEq, Repr

/-- DECERR without a fault record. -/
def decErr : Dec := .code 3 0

/-- Access type of a fault (R326). -/
def accType (t : Nat) : Nat := if t ≤ 3 then 0 else if t ≤ 5 then 1 else if t = 6 then 2 else 3

/-- A failed decode or window check: FAULT with a record number while its enable is 1 (R325). `win` = the window and the code of
the failure. -/
def decFault (c : Cells Word) (x : Hdr) (win : Option (Nat × Nat)) (h : Hw) : Hw × Dec :=
  let plain : BitVec 3 := match win with | some (1, _) => 4 | _ => 3
  if cf c 21 0x40 (if win.isSome then 1 else 0) (if win.isSome then 1 else 0) = 0 then (h, .code plain 0)
  else
    let (k, w) := win.getD (0, 0)
    let (h, n) := faultRec k (accType x.type.toNat) (x.addr.toNat / 4096) w x.src x.label h
    (h, .code 7 (BitVec.ofNat 32 n))

/-- The line of an address in a way that SET_MODE turns into PINNED, decoded as if it were one. -/
def asPinned (c : Cells Word) (t : Target) (pa : Nat) : Target :=
  match t with
  | .retry => .pin (if inWin c 0x60 pa then 0 else if inWin c 0x64 pa then 1 else 2) (bitsN pa 24 21) (bitsN pa 20 7)
  | t => t

/-- A line of the span is served here: in HMT space with this slice as home, or in a PINNED way (R170). -/
def servedHere (c : Cells Word) (h : Hw) (pa : Nat) : Bool :=
  match decodePa c h pa with
  | .home => true
  | .pin 0 _ _ | .retry => true
  | _ => false

/-- Field checks of an accumulation (R168 to R170); TANGO_READ carries no input. -/
def accFieldsOk (x : Hdr) : Bool :=
  let op := opOf x
  let f := fld x.arg2 11 8
  let n := accN x
  let a := x.addr.toNat
  let fmtOk := if op = 0x14 then f = 5 ∨ f = 6 else f ≤ 4 ∨ (7 ≤ f ∧ f ≤ 9)
  let nOk :=
    if op = 0x10 ∨ op = 0x14 then a % (4 * n) = 0
    else if op = 0x11 then (if n = 16 then a % 64 = 0 ∧ ¬ bitN a 7 else a % (8 * n) = 0)
    else (n = 32 ∨ n = 64) ∧ fld x.arg2 14 13 + n / 32 ≤ 3 ∧ a % 128 = 0
  let raw := if fld x.arg2 15 15 = 1 then a % 64 = 0 ∧ ¬ bitN a 7 else a % 256 = 0
  decide (fld x.arg2 6 5 = 0) && (if op = 0x18 then decide raw else decide fmtOk && decide nOk)

/-- The lines of an accumulation, or none where one is not served here. -/
def accLines (c : Cells Word) (h : Hw) (x : Hdr) (pa : Nat) : Option (List LineKey) :=
  let l := (List.range (spanLines x)).map (fun j => (pa / 128 + j) * 128)
  if l.all (servedHere c h) then some (l.map (fun a => lineKey (asPinned c (decodePa c h a) a) a)) else none

/-- An Atomic request at its target (R135, R170). -/
def decAtomic (c : Cells Word) (h : Hw) (x : Hdr) (pa : Nat) (t : Target) : Dec :=
  let op := opOf x
  let two := decide (fld x.arg2 5 5 = 1)
  let alias_ := match t with | .pin a _ _ => decide (a ≠ 0) | _ => false
  if op ≤ 0x0D then
    if (decide (op = 0x0D) && !two) || decide (x.addr.toNat % (if two then 8 else 4) ≠ 0) || alias_ then decErr
    else .go .atomic [lineKey t pa] 0
  else if op ≤ 0x0F ∨ (0x15 ≤ op ∧ op ≠ 0x18) ∨ alias_ ∨ !accFieldsOk x then decErr
  else match accLines c h x pa with
    | some l => .go (if op = 0x18 then .tangoRead else .acc) l 0
    | none => decErr

/-- A request of the types 0x01 to 0x06 whose address leads to a line here (R54, R77, R135). -/
def decLine (c : Cells Word) (h : Hw) (x : Hdr) (pa : Nat) (t : Target) : Dec :=
  let ty := x.type.toNat
  let k := [lineKey t pa]
  let alias_ := match t with | .pin a _ _ => a | _ => 0
  let pinned := match t with | .pin .. => true | _ => false
  if ty ≤ 2 then (if pinned then decErr else .go (if ty = 1 then .readShared else .readOwn) k 0)
  else if ty = 3 then .go .readNoSnoop k 0
  else if ty ≤ 5 then
    if alias_ ≠ 0 then .go (.aliasW (decide (alias_ = 2))) k 0
    else .go (if ty = 4 then .writeInv else .writePart) k 0
  else decAtomic c h x pa t

/-- A queue operation (R45, R156); one answered here shows level 0 in its status word. (DESIGN CHOICE, log entry 110) -/
def decQueue (h : Hw) (x : Hdr) : Dec :=
  let ty := x.type.toNat
  let q := fld x.addr 13 0
  let w := queWay q
  let n := fld x.arg2 13 8
  let top := if ty ≤ 9 then 1 else 32
  match esize (fld x.arg2 2 0) with
  | none => decErr
  | some e =>
    if fld x.addr 21 14 ≠ h.rst.id.toNat ∨ n = 0 ∨ top < n ∨ 256 < n * e then decErr
    else
      let k : Kind := if ty = 8 then .enq else if ty = 9 then .deq else if ty = 0xA then .enqB else .deqB
      match setting h w with
      | some s => if s.mode = 2 then .code 6 0 else decErr
      | none => if wayMode h w = 2 then .go k [.loc w (queSet q)] q else decErr

/-- A selection request (R202). -/
def decSel (h : Hw) (x : Hdr) : Dec :=
  let ty := x.type.toNat
  let r := fld x.addr 9 0
  let vt := fld x.arg2 1 0
  let vc := fld x.arg2 10 4
  let offer := decide (ty ≤ 0xD)
  match recAt h r with
  | none => decErr
  | some t =>
    if fld x.addr 17 10 ≠ h.rst.id.toNat ∨ vt = 3 then decErr
    else if offer && (decide (vc = 0) || decide (selN (decide (ty = 0xD)) vt (fld x.arg2 2 2) < vc)) then decErr
    else
      let k : Kind := if ty = 0xC then .selOffer else if ty = 0xD then .selPairs else if ty = 0xE then .selReadReset else .selReset
      .go k (recKeys t) r

/-- FENCE: some range of R53 names this slice (R112). -/
def fenceHere (c : Cells Word) (h : Hw) (pa : Nat) : Bool :=
  if inCfg c pa then decide (bitsN pa 25 18 = h.rst.id.toNat)
  else if inWin c 0x60 pa || inWin c 0x64 pa || inWin c 0x68 pa then decide (bitsN pa 32 25 = h.rst.id.toNat)
  else decodePa c h pa == .home

/-- A configuration request: its address leads to this slice's configuration space and is aligned (R10, R364). -/
def decCfg (c : Cells Word) (h : Hw) (x : Hdr) : Dec :=
  match decodePa c h x.addr.toNat with
  | .cfg o => if o % 4 = 0 then .go (if x.type = 0x11 then .cfgRead else .cfgWrite) [] o else decErr
  | _ => decErr

/-- A StreamCtl addresses a context of this slice that is not FREE, with a defined operation (R243). -/
def decStream (h : Hw) (x : Hdr) : Dec :=
  let id := fld x.addr 13 0
  let op := fld x.arg2 1 0
  if id / 64 ≠ h.rst.id.toNat ∨ (ctxAt h (id % 64)).st = .free ∨ op = 0 ∨ op = 3 then decErr
  else .go .streamCtl [] (id % 64)

/-- RETRY before READY and for lines under a destroying march, STATE for a caching read that R77 refuses. -/
def decState (c : Cells Word) (h : Hw) (x : Hdr) (d : Dec) : Dec :=
  match d with
  | .code .. => d
  | .go k l _ =>
    let cfg := (k == .cfgRead) || (k == .cfgWrite)
    if !cfg && (h.rst.boot != .ready) then .code 6 0
    else if l.any (marchedLine h) then .code 6 0
    else if (k == .readShared || k == .readOwn) &&
      (!(bit x.arg2 31) || !(caiOk c (caiOf x)) || fenced h (caiOf x)) then .code 5 0
    else d

/-- A failed address decode is counted and answered (R325, R453). -/
def decBad (c : Cells Word) (x : Hdr) (t : Target) (h : Hw) : Hw × Dec :=
  let h := countTarget t h
  match t with
  | .bad | .nohome => decFault c x none h
  | _ => (h, decErr)

/-- Decode of a request that names a line by its address, `pa` once a window has translated it. -/
def decAddr (c : Cells Word) (x : Hdr) (pa : Nat) (h : Hw) : Hw × Dec :=
  match decodePa c h pa with
  | .home => (h, decLine c h x pa .home)
  | .pin a w s => (h, decLine c h x pa (.pin a w s))
  | .retry =>
    (h, match decLine c h x pa (asPinned c .retry pa) with | .code v a => .code v a | .go .. => .code 6 0)
  | t => decBad c x t h

/-- A request that comes through an inbound window (R448 to R451). -/
def decWin (c : Cells Word) (x : Hdr) (h : Hw) : Hw × Label × Dec :=
  let w := fld x.label 9 0
  let span := if x.type = 6 then spanLines x else 1
  let o := 0x2C000 + 64 * w
  let refused := fun (h : Hw) =>
    let h := if fld x.label 11 10 = 0 then roPut (o + 0x1C) (satAdd (roGet h (o + 0x1C)) 1) h else h
    err 23 0 (cnt 23 0x58 1 h)
  match winCheck c h x span with
  | .ok pa label =>
    let (h, d) := decAddr c x pa (roPut (o + 0x18) (roGet h (o + 0x18) + 1) h)
    (h, label, d)
  | .gate => (countTarget .gate (refused h), x.label, decErr)
  | .decode t =>
    let h := match t with | some t => countTarget t (refused h) | none => refused h
    let (h, d) := decFault c x (some (2, w)) h
    (h, x.label, d)
  | .perm =>
    let (h, d) := decFault c x (some (1, w)) (refused h)
    (h, x.label, d)

/-- Decode of a request (R16, R22, R53): its label from here on, and the answer or the transaction. -/
def decodeReq (c : Cells Word) (x : Hdr) (h : Hw) : Hw × Label × Dec :=
  let ty := x.type.toNat
  let (h, l, d) :=
    if ty ≤ 6 then
      if isBridge c x.src then decWin c x h
      else
        let (h, d) := decAddr c x x.addr.toNat h
        (h, x.label, d)
    else if ty = 7 then
      if fenceHere c h x.addr.toNat then (h, x.label, .go .fence [] 0)
      else
        let t := decodePa c h x.addr.toNat
        let (h, d) := decBad c x t h
        (h, x.label, d)
    else if ty ≤ 0xB then (h, x.label, decQueue h x)
    else if ty ≤ 0xF then (h, x.label, decSel h x)
    else if ty = 0x10 then (h, x.label, decStream h x)
    else (h, x.label, decCfg c h x)
  (h, l, decState c h x d)

/-! ### Classes -/

/-- The address of a request as decode sees it: that of its header, or what its inbound window makes of it (R449). -/
def reqPa (c : Cells Word) (h : Hw) (x : Hdr) : Option Nat :=
  if isBridge c x.src then
    match winCheck c h x (if x.type = 6 then spanLines x else 1) with | .ok pa _ => some pa | _ => none
  else some x.addr.toNat

/-- The window, pinned or an alias, through which a request addresses a PINNED way of this slice, whatever decode answers. -/
def reqPinned (c : Cells Word) (h : Hw) (x : Hdr) : Option Nat :=
  (reqPa c h x).bind (fun pa => match decodePa c h pa with | .pin a _ _ => some a | _ => none)

/-- Type and target that R264 admits. -/
def tc0Fits (c : Cells Word) (h : Hw) (x : Hdr) : Bool :=
  decide (x.type = 3 ∨ x.type = 4 ∨ x.type = 5 ∨ (x.type = 6 ∧ opOf x ≤ 0xD)) && (reqPinned c h x).isSome

/-- TC0 units of a request (R265). -/
def tc0Units (c : Cells Word) (h : Hw) (x : Hdr) : Nat :=
  let secs := ones (secsOf (touched x.bmask 32)) 2
  if x.type = 3 then (if secOf x = 3 then 2 else 1)
  else if x.type = 6 ∨ reqPinned c h x ≠ some 0 then 4
  else if x.type = 4 then 2
  else if isNarrow x.bmask then 2 * secs else secs

/-- What decode fixes for the life of a request: group, class, TC0 eligibility and demotion (R255, R264). -/
structure Cls where
  group : Nat
  tc : Nat
  elig : Bool
  demoted : Bool
  reason : Nat

/-- The class of a request. (DEDUCED, log entry 71) -/
def classOf (c : Cells Word) (h : Hw) (vc : Nat) (x : Hdr) (label : Label) : Cls :=
  let g := groupOf c label
  let tc := tcOf c g
  if tc ≠ 0 then ⟨g, tc, false, false, 0⟩
  else match tc0Reason c h vc x.src (tc0Fits c h x) (tc0Units c h x) with
    | some r => ⟨g, 1, false, true, r⟩
    | none => ⟨g, 0, true, false, 0⟩

/-- What a class leaves in the QOS registers and the events: a demotion, an eligible request, a VC mismatch (R255, R264, R270).
(DEDUCED, log entry 115) -/
def noteClass (c : Cells Word) (vc : Nat) (x : Hdr) (k : Cls) (h : Hw) : Hw :=
  let n := if qosCleared h then 0 else 1
  let h := if k.demoted then
      ev 0x67 1 (put 16 0x68 (2 ^ 31 + k.reason * 2 ^ 16 + x.src.toNat) (err 16 0 (cnt 16 0x5C n h)))
    else if k.elig then ev 0x68 1 h else h
  if (vc % 2 = 0 ∧ k.tc ≠ 0) ∨ (vc % 2 = 1 ∧ tcOf c k.group = 0) then err 16 1 (cnt 16 0x60 n h) else h

/-! ### Taking a request -/

/-- The access of a configuration request. -/
def meshAccess (r : Req) (t : Nat) : Access :=
  { carrier := .mesh (r.port.getD .mp) r.hdr r.iseq r.tc, write := r.kind == .cfgWrite, off := r.par, data := r.hdr.arg2, at_ := t }

/-- The kind is a configuration access. -/
def isCfg (k : Kind) : Bool := (k == .cfgRead) || (k == .cfgWrite)

/-- A configuration request enters the register queue, at the end of this CLK_C cycle behind SP's accesses of it, unless the queue is
full or an earlier one waits (R23). -/
def cfgEnter (r : Req) (h : Hw) : Option Hw :=
  let waits := (decoded h).any (fun x => isCfg x.kind && decide (x.iseq < r.iseq))
  if h.path.queue.length + h.path.mesh.length < 16 ∧ ¬ waits then
    some (h.modPath (fun it => { it with mesh := it.mesh ++ [meshAccess r (clkC h)] }))
  else none

/-- A FENCE enters the fence table (R114). -/
def fenceEnter (p : Port) (x : Hdr) (n tc : Nat) (h : Hw) : Option Hw :=
  if h.core.fences.length < 64 then
    some (h.modCore (fun it => { it with fences := it.fences ++ [{ iseq := n, hdr := x, port := p, tc := tc }] }))
  else none

/-- A decoded request goes where its kind leads: to the register queue, to the fence table, or into its section of the admission
buffer; nowhere while there is no room (R23, R24, R27, R114). -/
def placeReq (r : Req) (h : Hw) : Option Hw :=
  let direct :=
    if isCfg r.kind then cfgEnter r h
    else if r.kind = .fence then fenceEnter (r.port.getD .mp) r.hdr r.iseq r.tc h else none
  match direct with
  | some h => some h
  | none => if sectRoom h r.sect && !(decBefore h r) then some (h.modCore (fun it => { it with adm := it.adm ++ [r] })) else none

/-- The message at the head of a VC that has passed intake leaves its buffer. -/
def leaveDec (p : Port) (vc : Nat) (h : Hw) : Hw :=
  popMsg p vc (h.modCore (fun it => { it with dec := cDel it.dec (portKey p vc) }))

/-- A StreamCtl is applied at decode, or refused with STATE (R243, R244). -/
def streamApply (c : Cells Word) (p : Port) (x : Hdr) (n tc ctx : Nat) (h : Hw) : Hw :=
  match (ctxAt h ctx).st with
  | .running | .expired =>
    let h := ev 0x8A 1 h
    let h := if fld x.arg2 1 0 = 2 then ctxStop c ctx h else ctxRenew ctx (fld x.arg0 31 0) h
    refuse p x tc n 0 0 h
  | _ => refuse p x tc n 5 0 h

/-- The header as the slice uses it: the streaming hint only on the types that honour it (R367). -/
def hintOf (x : Hdr) : Hdr := if x.type.toNat ≤ 5 then x else { x with strm := false }

/-- The header of a request that passes its window's checks has the translated address from then on (R451). -/
def atDecode (c : Cells Word) (h : Hw) (x : Hdr) : Hdr :=
  if x.type.toNat ≤ 6 then { x with addr := BitVec.ofNat 52 ((reqPa c h x).getD x.addr.toNat) } else x

/-- A well-formed request at the head of a REQ VC goes through intake and decode, once. It stays where it is while intake takes the
other port first; past intake it keeps its number, and its flits stay in the ingress buffer while its section is full (R18, R19, R27). -/
def takeReq (p : Port) (vc t : Nat) (sel : Hdr → Bool) (s : State) : State :=
  if !running s.hw then s else
  match headOf s.hw p vc t, headMsg s.hw p vc with
  | some (x0, pay), some (_, _, acc) =>
    if !(sel x0) then s else
    let c := s.cfg
    match cFind s.hw.core.dec (portKey p vc) with
    | some r =>
      (match placeReq r s.hw with
      | some h => { s with hw := settle c (leaveDec p vc h) }
      | none => s)
    | none =>
    if !(mayIntake s.hw p) then s else
    let x := hintOf x0
    let (h, label, d) := decodeReq c x s.hw
    let k := classOf c s.hw vc x label
    let sect : Sect := if k.elig then .hi else .lo
    let (h, n) := intake c p acc (atDecode c s.hw x) label k.tc (noteClass c vc x k h)
    let done := fun (h : Hw) => { s with hw := settle c (popMsg p vc h) }
    match d with
    | .code v a => done (refuse p x k.tc n v a h)
    | .go kind lines par =>
      let r : Req := { iseq := n, kind := kind, port := some p, hdr := x, pay := pay, lines := lines, label := label,
                       group := k.group, tc := k.tc, elig := k.elig, demoted := k.demoted
                       units := if k.elig then tc0Units c s.hw x else 0, par := par, sect := sect }
      if kind = .streamCtl then done (streamApply c p x n k.tc par h)
      else match placeReq r h with
        | some h => done h
        | none => { s with hw := settle c (h.modCore (fun it => { it with dec := cIns it.dec (portKey p vc) r })) }
  | _, _ => s

/-- READ_SHARED (R84). -/
def execReadShared (p : Port) (vc : Nat) (s : State) : Out := .next (takeReq p vc 1 (fun _ => true) s)
/-- READ_OWN (R84). -/
def execReadOwn (p : Port) (vc : Nat) (s : State) : Out := .next (takeReq p vc 2 (fun _ => true) s)
/-- READ_NO_SNOOP (R84). -/
def execReadNoSnoop (p : Port) (vc : Nat) (s : State) : Out := .next (takeReq p vc 3 (fun _ => true) s)
/-- WRITE_INVALIDATE (R84). -/
def execWriteInvalidate (p : Port) (vc : Nat) (s : State) : Out := .next (takeReq p vc 4 (fun _ => true) s)
/-- WRITE_PARTIAL_INVALIDATE (R84). -/
def execWritePartialInvalidate (p : Port) (vc : Nat) (s : State) : Out := .next (takeReq p vc 5 (fun _ => true) s)

/-- The opcode is an accumulation (R166). -/
def isAcc (x : Hdr) : Bool := decide (0x10 ≤ opOf x) && decide (opOf x ≤ 0x14)

/-- ATOMIC (R134): opcodes 0x00 to 0x0F and the undefined ones. -/
def execAtomic (p : Port) (vc : Nat) (s : State) : Out :=
  .next (takeReq p vc 6 (fun x => !(isAcc x) && decide (opOf x ≠ 0x18)) s)
/-- ACCUMULATE (R171). -/
def execAccumulate (p : Port) (vc : Nat) (s : State) : Out := .next (takeReq p vc 6 isAcc s)
/-- TANGO_READ (R184). -/
def execTangoRead (p : Port) (vc : Nat) (s : State) : Out := .next (takeReq p vc 6 (fun x => decide (opOf x = 0x18)) s)
/-- FENCE (R113). -/
def execFence (p : Port) (vc : Nat) (s : State) : Out := .next (takeReq p vc 7 (fun _ => true) s)
/-- ENQUEUE (R158). -/
def execEnqueue (p : Port) (vc : Nat) (s : State) : Out := .next (takeReq p vc 8 (fun _ => true) s)
/-- DEQUEUE (R158). -/
def execDequeue (p : Port) (vc : Nat) (s : State) : Out := .next (takeReq p vc 9 (fun _ => true) s)
/-- ENQUEUE_BATCH (R158). -/
def execEnqueueBatch (p : Port) (vc : Nat) (s : State) : Out := .next (takeReq p vc 0xA (fun _ => true) s)
/-- DEQUEUE_BATCH (R158). -/
def execDequeueBatch (p : Port) (vc : Nat) (s : State) : Out := .next (takeReq p vc 0xB (fun _ => true) s)
/-- SEL_OFFER (R204). -/
def execSelOffer (p : Port) (vc : Nat) (s : State) : Out := .next (takeReq p vc 0xC (fun _ => true) s)
/-- SEL_OFFER_PAIRS (R204). -/
def execSelOfferPairs (p : Port) (vc : Nat) (s : State) : Out := .next (takeReq p vc 0xD (fun _ => true) s)
/-- SEL_READ_RESET (R206). -/
def execSelReadReset (p : Port) (vc : Nat) (s : State) : Out := .next (takeReq p vc 0xE (fun _ => true) s)
/-- SEL_RESET (R206). -/
def execSelReset (p : Port) (vc : Nat) (s : State) : Out := .next (takeReq p vc 0xF (fun _ => true) s)
/-- STREAMCTL_RENEW (R240), and a StreamCtl of an undefined operation. -/
def execStreamctlRenew (p : Port) (vc : Nat) (s : State) : Out :=
  .next (takeReq p vc 0x10 (fun x => decide (fld x.arg2 1 0 ≠ 2)) s)
/-- STREAMCTL_STOP (R241). -/
def execStreamctlStop (p : Port) (vc : Nat) (s : State) : Out :=
  .next (takeReq p vc 0x10 (fun x => decide (fld x.arg2 1 0 = 2)) s)
/-- CFG_READ (R364). -/
def execCfgRead (p : Port) (vc : Nat) (s : State) : Out := .next (takeReq p vc 0x11 (fun _ => true) s)
/-- CFG_WRITE (R364). -/
def execCfgWrite (p : Port) (vc : Nat) (s : State) : Out := .next (takeReq p vc 0x12 (fun _ => true) s)

/-! ### FENCE (R113, R114) -/

/-- FENCE requests that waited for the fence table enter it. -/
def fenceDrain (h : Hw) : Hw :=
  match h.core.adm.find? (fun r => r.kind == .fence) with
  | some r =>
    (match fenceEnter (r.port.getD .mp) r.hdr r.iseq r.tc h with
    | some h => (h.modCore (fun it => { it with adm := it.adm.filter (fun x => decide (x.iseq ≠ r.iseq)) }))
    | none => h)
  | none => h

/-- Every request of the requester with a lower intake number has sent its completion. -/
def fenceReady (h : Hw) (f : FenceEnt) : Bool :=
  h.core.owing.all (fun o => !(o.2 == f.hdr.src) || decide (f.iseq ≤ o.1))

/-- The Comp of a FENCE is queued. -/
def fenceDone (n : Nat) (h : Hw) : Hw :=
  match h.core.fences.find? (fun f => decide (f.iseq = n) && !f.done) with
  | none => h
  | some f =>
    if !(fenceReady h f) then h else
    let h := h.modCore (fun it => { it with fences := it.fences.map (fun g =>
      if g.iseq = n then { g with done := true } else g) })
    send f.port (vcOf 3 f.tc) { hdr := compHdr h f.hdr f.hdr.tti 0x36 0, note := .fence n, iseq := n } (ev 0x87 1 h)

/-- FENCE_COMPLETE (R113): the FENCE with intake number `n`. -/
def execFenceComplete (n : Nat) (s : State) : Out := .next (act (fun _ h => fenceDone n h) s)

/-! ### Admission (R25, R26, R257) -/

/-- The request is one that the transaction table takes. -/
def needsTt (r : Req) : Bool := match r.kind with | .fence | .cfgRead | .cfgWrite => false | _ => true

/-- The request's label is below its cap (R257). -/
def capOk (c : Cells Word) (h : Hw) (r : Req) : Bool :=
  let g := groupOf c r.label
  !r.counted || decide (tcOf c g = 0) || decide (outOf h r.label < capOf c g)

/-- An earlier request of the same requester to the same line waits, in the admission buffer or at decode (R19, R25).
(DEDUCED, log entry 98) -/
def earlierWaits (h : Hw) (r : Req) : Bool :=
  (decoded h).any (fun x => decide (x.iseq < r.iseq) && (x.hdr.src == r.hdr.src) && needsTt x && !(isEvt x.kind) &&
    x.lines.any (fun k => r.lines.contains k))

/-- The pool from which a request or an EVT-class message would take its entry now. In a Gavotte sequence only an EVT-class message
takes one, from the dependent-work reserve (R25, R26, R335). -/
def poolFor (h : Hw) (r : Req) : Option Pool :=
  if gavBusy h then (if isEvt r.kind ∧ poolUse h .dep < poolCap .dep then some .dep else none)
  else pickPool h r.elig (isEvt r.kind)

/-- A request may be admitted now (R25). Two in a CLK_P cycle, the slice's own work aside. -/
def admReady (c : Cells Word) (h : Hw) (r : Req) : Bool :=
  needsTt r && (poolFor h r).isSome && capOk c h r && !(earlierWaits h r) &&
    ((r.sect == .int) || !(decide (h.core.admCyc = now h) && decide (2 ≤ h.core.admNum)))

/-- What waits for a TT entry: the admission buffer, and the EVT-class messages in their ingress buffers (R24). -/
def waitsTt (h : Hw) : List Req := h.core.adm ++ (h.core.dec.map (·.2)).filter (fun r => isEvt r.kind)

/-- What is admitted next: of those that are ready the one with the lowest intake number (R24, R25). -/
def admNext (c : Cells Word) (h : Hw) : Option Req := leastBy (·.iseq) ((waitsTt h).filter (admReady c h))

/-- One more admission in this CLK_P cycle. -/
def countAdm (h : Hw) : Hw :=
  let n := if h.core.admCyc = now h then h.core.admNum + 1 else 1
  (h.modCore (fun it => { it with admCyc := now h, admNum := n }))

/-- Errors that an injection puts into the entry admitted next (R352). -/
def injEnt (h : Hw) (e : Ent) : Ent :=
  match h.prot.injTt with
  | 1 => { e with err1 := 1 }
  | 2 => { e with err1 := 2 }
  | 3 => { e with err1 := 2, err2 := 2 }
  | _ => e

/-- A request becomes entry `i`. -/
def admitEnt (i : Nat) (r : Req) (p : Pool) (h : Hw) : Hw :=
  let e := injEnt h { req := r, pool := p, arr := 0 }
  let h := h.modProt (fun it => { it with injTt := 0 })
  let h := if r.lines.any (fun k => (activeEnt h k).isSome) then ev 0x38 1 h else h
  let asked := r.port.isSome || r.eng.isSome
  stamp 3 r.iseq (newEnt i e (ev 0x37 (b2n asked) h))

/-- What is admitted leaves the admission buffer, or its ingress buffer. -/
def leaveWait (r : Req) (h : Hw) : Hw :=
  if isEvt r.kind then
    match cSeek (fun _ x => decide (x.iseq = r.iseq)) h.core.dec with
    | some (k, _) => leaveDec (r.port.getD .mp) (k % 16) h
    | none => h
  else h.modCore (fun it => { it with adm := dropFirst (fun x => decide (x.iseq = r.iseq)) it.adm })

/-- The next one that may be admitted takes entry `i`; an EVT-class message whose sender has been fenced meanwhile is discarded (R25,
R88). (DESIGN CHOICE, log entry 6) -/
def admitReq (c : Cells Word) (i : Nat) (h : Hw) : Hw :=
  if 16384 ≤ i ∨ (ent h i).isSome then h else
  match admNext c h with
  | none => h
  | some r =>
    if isEvt r.kind && fenced h (senderCai r.hdr) then leaveWait r h else
    match poolFor h r with
    | none => h
    | some p =>
      let h := leaveWait r h
      admitEnt i r p (if r.sect = .int then h else countAdm h)

/-- ADMIT (R25). -/
def execAdmitReq (tt : Nat) (s : State) : Out := .next (act (fun c h => admitReq c tt h) s)

/-! ### EVT-class messages (R24, R77, R88, R492) -/

/-- The class of an EVT-class message. -/
def evtClass (c : Cells Word) (l : Label) : Nat × Nat :=
  let g := groupOf c l
  (g, max 1 (tcOf c g))

/-- What decode answers to an EVT-class message. -/
def decEvt (c : Cells Word) (x : Hdr) (h : Hw) : Hw × Dec :=
  match decodePa c h x.addr.toNat with
  | .home =>
    if caiOk c (senderCai x) then (h, .go (if x.type = 0x28 then .evict else .writeBack) [.pa (x.addr.toNat / 128)] 0)
    else (h, .code 5 0)
  | .cfg _ | .pin .. | .retry => (h, decErr)
  | t => decBad c x t h

/-- An EVT-class message that has passed decode. -/
def evtReq (c : Cells Word) (p : Port) (n : Nat) (x : Hdr) (pay : List PWord) (kind : Kind) (lines : List LineKey) : Req :=
  let (g, tc) := evtClass c x.label
  { iseq := n, kind := kind, port := some p, hdr := { x with strm := false }, pay := pay, lines := lines, label := x.label
    group := g, tc := tc }

/-- The message with number `n` is admitted as entry `i`, if it is the next one (R24). -/
def admitThis (c : Cells Word) (n i : Nat) (h : Hw) : Hw :=
  if (admNext c h).map (·.iseq) = some n then admitReq c i h else h

/-- An Evict or a WriteBack at the head of an EVT VC goes through intake and decode, once: answered there, discarded when its sender
is fenced, or admitted as entry `i` when its turn has come; until then it waits in its buffer (R24, R88).
(DEDUCED, log entries 98 and 99) (DEDUCED, log entry 99) -/
def takeEvt (t : Nat) (p : Port) (vc i : Nat) (s : State) : State :=
  if !running s.hw then s else
  match headOf s.hw p vc t with
  | none => s
  | some (x, pay) =>
    let c := s.cfg
    match cFind s.hw.core.dec (portKey p vc) with
    | some r => { s with hw := settle c (admitThis c r.iseq i s.hw) }
    | none =>
    if !(mayIntake s.hw p) then s else
    let n := s.hw.core.nextSeq
    let done := fun (h : Hw) => { s with hw := settle c (popMsg p vc h) }
    if fenced s.hw (senderCai x) then done (passIntake p s.hw) else
    let (h, d) := decEvt c x (passIntake p s.hw)
    match d with
    | .code v a =>
      let y := { compHdr h x x.tti (if t = 0x28 then 0x37 else 0x38) v with dkind := 1, dst := x.src &&& 0xFFF, arg2 := a }
      done (send p (vcOf 3 (evtClass c x.label).2) { hdr := y, note := .req n, iseq := n } h)
    | .go kind lines _ =>
      let r := evtReq c p n x pay kind lines
      { s with hw := settle c (admitThis c n i (h.modCore (fun it => { it with dec := cIns it.dec (portKey p vc) r }))) }

/-- EVICT (R88). -/
def execEvict (p : Port) (vc : Nat) (tt : Nat) (s : State) : Out := .next (takeEvt 0x28 p vc tt s)
/-- WRITE_BACK (R88). -/
def execWriteBack (p : Port) (vc : Nat) (tt : Nat) (s : State) : Out := .next (takeEvt 0x29 p vc tt s)

/-! ### Activation (R28, R334, R338) -/

/-- Entry `i` is read: an error in one of its copies is found (R333). One without becomes active, where the per-line order and Gavotte let
it. -/
def lineActivate (c : Cells Word) (i : Nat) (h : Hw) : Hw :=
  match ent h i with
  | none => h
  | some e =>
    if !(ttClean e) then ttCheck c i e h
    else if !(mayActivate h i e) || e.busy then h
    else activate i e h

/-- LINE_ACTIVATE (R28). -/
def execLineActivate (tt : Nat) (s : State) : Out := .next (act (fun c h => lineActivate c tt h) s)

/-- SF_ALLOC_RETRY (R81): entry `tt`, which waits for a snoop-filter entry, tries again. -/
def execSfAllocRetry (tt : Nat) (s : State) : Out :=
  .next (act (fun _ h => updEnt tt (fun e => if e.todo.head? = some .sf then { e with busy := false } else e) h) s)

/-! ### Malformed messages (R368) -/

/-- A malformed message is answered DECERR: in a REQ VC, of an undefined TYPE or a request of a wrong length (R368).
(DEDUCED, log entry 100) -/
def answersBad (vc : Nat) (x : Hdr) : Bool :=
  decide (vc / 2 = 0) && (match typeClass x.type.toNat with | none => true | some k => decide (k = 0))

/-- A malformed message leaves its buffer; before READY so does every message that is no request (R423). -/
def malformed (p : Port) (vc : Nat) (s : State) : State :=
  if !running s.hw then s else
  match headMsg s.hw p vc with
  | none => s
  | some (x, _, _) =>
    if wellFormed vc x ∧ (vc / 2 = 0 ∨ s.hw.rst.boot = .ready) then s else
    let h := err 2 1 (cnt 2 0x50 1 s.hw)
    let n := h.core.nextSeq
    let tc := tcOf s.cfg (groupOf s.cfg x.label)
    let h := if answersBad vc x then
        refuse p x (if tc = 0 then 1 else tc) n 3 0 (h.modCore (fun it => { it with nextSeq := n + 1 }))
      else h
    { s with hw := settle s.cfg (popMsg p vc h) }

/-- MALFORMED_MSG (R368). -/
def execMalformedMsg (p : Port) (vc : Nat) (s : State) : Out := .next (malformed p vc s)

end Sys2Proof.Machine
end

