-- ==== Sys2Proof/Machine/Datapath.lean ====
section
/-! DEFINITION. The commands of the banks (R32, R36, R55 to R60), of Jig (R63, R66), of the ALB and the cells (R142, R145, R175),
of Quadrille's merge units (R205) and of XP (R30, R373 to R375). -/
namespace Sys2Proof.Machine

/-! ### Banks -/

/-- A write of the entry's commit point (R335): a write that commits, or any array write of a kind that commits by writing. -/
def commitWrite (e : Ent) (op : BankOp) : Bool :=
  op.write && (op.lin || (match e.req.kind with
    | .enq | .enqB | .deq | .deqB | .selOffer | .selPairs | .selReadReset | .selReset | .selCmd _ | .queCmd _ | .evtClear _
    | .writeBack | .backInv | .repair | .chkWrite | .lrtMap | .lrtUnmap => true
    | _ => false))

/-- The operation may issue a row now: in a Gavotte sequence that holds the banks only the rest of a begun commit (R335). -/
def mayIssue (h : Hw) (op : BankOp) : Bool :=
  !(gavHolds h) || (match op.own with
    | .tt i => (match ent h i with | some e => e.wrote | none => false)
    | _ => false)

/-- What a transaction learns when a row of its operation issues: T6 of its sample, and its commit has begun (R335, R469). -/
def noteIssue (op : BankOp) (h : Hw) : Hw :=
  match op.own with
  | .tt i =>
    (match ent h i with
    | some e => stamp 6 e.req.iseq (if commitWrite e op then updEnt i (fun e => { e with wrote := true }) h else h)
    | none => h)
  | _ => h

/-- The linearization of a queue operation as its descriptor write issues (R157). -/
def linOp (op : BankOp) (h : Hw) : Hw × BankOp :=
  match op.own with
  | .tt i =>
    (match (ent h i).map (fun e => e.req.kind) with
    | some k => if op.lin && (k == .enq || k == .deq || k == .enqB || k == .deqB) then queLin i op h else (h, op)
    | none => (h, op))
  | _ => (h, op)

/-- The scheduler of bank `b` issues one row in this CLK_M cycle (R31, R32). -/
def bankGrant (c : Cells Word) (b : Nat) (h : Hw) : Hw :=
  let k := bank h b
  let h := windowStart c h
  if 33 ≤ b ∨ k.last = some (clkM h) ∨ !(bankUp h b) ∨ marchDestroys h b then h else
  match k.cur with
  | some op => noteIssue op (issueRow c b op ((demandOf c h k.rot op).map (·.1)) h)
  | none =>
    match chooseOp c h b (mayIssue h) with
    | none => h
    | some (op, dem) =>
      let (h, op') := linOp op h
      let k := bank h b
      let h := setBank b { k with pend := k.pend.map (fun x => if x == op then op' else x) } h
      jigIssued op' (noteIssue op' (startOp c b op' dem h))

/-- BANK_GRANT (R32). -/
def execBankGrant (bank : Nat) (s : State) : Out := .next (act (fun c h => bankGrant c bank h) s)

/-- A read of entry `i` is done: its words are held, errors counted and a retry asked for (R16, R278, R281).
(DEDUCED, log entry 96) -/
def ttRead (i : Nat) (op : BankOp) (upsets : List (Nat × Code)) (h : Hw) : Hw :=
  match ent h i with
  | none => h
  | some e =>
    let rd := readWords h op upsets
    if isProt e.req.kind then
      popAct i (updEnt i (rowRead op upsets h) (if op.raw then h else countErrs rd h))
    else
      let used := rd.filter (fun x => bitN (consumedBy e op.li) x.1)
      let corr := used.any (fun x => x.2.1 == .corr)
      let bad := used.any (fun x => x.2.2.poi)
      let h := retryOp op rd e.req.hdr.src (countErrs rd h)
      let fixed := maskOf ((rd.filter (fun x => x.2.1 == .corr)).map (·.1))
      popAct i (updEnt i (fun e =>
        let e := rd.foldl (fun e x => putBuf e op.li x.1 x.2.2) e
        let e := { e with did := e.did ++ e.todo.take 1 }
        let e := if isOffer e.req.kind then { e with errs := e.errs ++ [(op.li, fixed)] } else e
        { e with corr := e.corr || corr, bad := e.bad || bad, cause := e.cause || !(errWords rd).isEmpty }) h)

/-- The oldest operation of a bank whose rows have all issued is done. `upsets` are the stored bits that have changed, by word of
the line (R273). An operation of the march engine ends with MARCH_ROW_OP. (DEDUCED, log entry 4) -/
def bankDone (c : Cells Word) (b : Nat) (upsets : List (Nat × Code)) (h : Hw) : Hw :=
  let k := bank h b
  match k.fly with
  | [] => h
  | op :: rest =>
    let h' := setBank b { k with fly := rest } h
    let dead := decide (b < 32) && (pwr h b).dead
    match op.own with
    | .march => h
    | .scrub => scrubDone op (readWords h op upsets) h'
    | .tt i =>
      if op.write then
        let h' := writeWords op h'
        let h' := match ent h i with | some e => if dead then h' else moveLate e op h' | none => h'
        popAct i (updEnt i (fun e => { e with bad := e.bad || dead }) h')
      else ttRead i op upsets h'
    | .jig n =>
      if op.write then writeWords op h'
      else
        let rd := readWords h op upsets
        let rid := ((cFind h.near.jig n).map (·.rid)).getD ownRid
        jigRead c n rd (retryOp op rd rid (countErrs rd h'))
    | .alb n => albDone n (writeWords op h')

/-- BANK_OP_COMPLETE (R36). -/
def execBankOpComplete (bank : Nat) (upsets : List (Nat × BitVec 39)) (s : State) : Out :=
  .next (act (fun c h => bankDone c bank upsets h) s)

/-! ### Bank power -/

/-- pwr_ack of a bank rises, as the slice sees it (R57, R380). Of a failed bank only the level is kept, for the next power-on reset
(R417). -/
def ackRise (b : Nat) (h : Hw) : Hw :=
  let p := pwr h b
  if 32 ≤ b then h
  else if !p.req || p.dead then setPwr b { p with ack := true } h
  else
    let p := { p with ack := true, req := false, tmo := false }
    match p.want with
    | .ret =>
      let waits := !(bank h b).pend.isEmpty
      let h := ev 0x5E 1 (setPwr b { p with st := .ret, next := if waits then some .on else p.next } h)
      if waits then ev 0x5F 1 h else h
    | .off => setPwr b { p with st := .off } h
    | _ => setPwr b { p with onAt := some (now h) } h

/-- In reset the slice only keeps the level of pwr_ack (R414, R417). -/
def ackLevel (b : Nat) (up : Bool) (h : Hw) : Hw := if 32 ≤ b then h else setPwr b { pwr h b with ack := up } h

/-- PWR_ACK_RISE (R380). -/
def execPwrAckRise (bank : Nat) (s : State) : Out :=
  .next (if running s.hw then act (fun _ h => ackRise bank h) s else { s with hw := ackLevel bank true s.hw })

/-- pwr_ack of a bank falls: the next request may open (R380). -/
def ackFall (b : Nat) (h : Hw) : Hw :=
  let p := pwr h b
  if 32 ≤ b ∨ !p.ack then h else
  let h := setPwr b { p with ack := false, next := none } h
  match p.next with
  | some x => pwrAsk b x h
  | none => h

/-- PWR_ACK_FALL (R380). -/
def execPwrAckFall (bank : Nat) (s : State) : Out :=
  .next (if running s.hw then act (fun _ h => ackFall bank h) s else { s with hw := ackLevel bank false s.hw })

/-- A bank is on 4 CLK_M cycles after the on acknowledgement (R57). -/
def onDelay (b : Nat) (h : Hw) : Hw :=
  let p := pwr h b
  match p.onAt with
  | some t => if clkM h < t / 2 + 4 ∨ p.dead then h else setPwr b { p with st := .on, onAt := none, last := now h } h
  | none => h

/-- BANK_ON_DELAY (R57). -/
def execBankOnDelay (bank : Nat) (s : State) : Out := .next (act (fun _ h => onDelay bank h) s)

/-- The bank may enter retention (R56). -/
def mayRetain (c : Cells Word) (h : Hw) (b : Nat) : Bool :=
  let p := pwr h b
  let k := bank h b
  decide (cf c 7 0x50 31 31 = 1) && bit (cfgGet c (rg 7 0x54)) b && decide (wayMode h (b / 2) ≠ 3) &&
    (setting h (b / 2)).isNone && k.pend.isEmpty && k.cur.isNone && k.fly.isEmpty && (p.st == .on) && !p.dead && !p.req && !p.ack &&
    !(marchDestroys h b) && decide (p.last / 2 + max 64 (cf c 7 0x50 11 0) ≤ clkM h)

/-- RETENTION_IDLE_EXPIRE (R56). -/
def execRetentionIdleExpire (bank : Nat) (s : State) : Out :=
  .next (act (fun c h => if bank < 32 ∧ mayRetain c h bank then pwrAsk bank .ret h else h) s)

/-- A handshake request of a bank has had no acknowledgement within ALLOC.PWR_TMO (R59). -/
def pwrLate (c : Cells Word) (h : Hw) (b : Nat) : Bool :=
  let p := pwr h b
  decide (b < 32) && p.req && !p.dead && decide (p.since / 4 + cf c 7 0x58 15 0 ≤ clkC h)

/-- A handshake times out: recorded once, and a cause of Gavotte (R59, R333). -/
def pwrTmo (c : Cells Word) (b : Nat) (h : Hw) : Hw :=
  if !(pwrLate c h b) || (pwr h b).tmo || (h.rst.boot == .power) then h else
  let h := report 0xB false b 0 0 ownRid (err 7 1 (setPwr b { pwr h b with tmo := true } h))
  let h := gavCause c 4 h
  (h.modDiag (fun it => { it with gav := { it.gav with banks := it.gav.banks ++ [b] } }))

/-- PWR_HANDSHAKE_TMO (R59). -/
def execPwrHandshakeTmo (bank : Nat) (s : State) : Out := .next (act (fun c h => pwrTmo c bank h) s)

/-! ### Jig -/

/-- Freed Jig entries go to the waiting write with the lowest intake number (R66). -/
def jigGrant (c : Cells Word) (h : Hw) : Hw :=
  if gavHolds h then h else
  match leastBy (fun p => p.2.req.iseq) (h.core.tt.filter (fun p => p.2.active && p.2.busy && (p.2.todo.head? == some .jig))) with
  | none => h
  | some (i, e) =>
    if !(jigCan h i e) then h else
    jigPass c i e h

/-- JIG_ENTRIES_GRANT (R66). -/
def execJigEntriesGrant (s : State) : Out := .next (act jigGrant s)

/-- JIG_HOLD_EXPIRE (R63): the hold of entry `n` ends by time. Holds do not count while Gavotte holds the slice. -/
def execJigHoldExpire (n : Nat) (s : State) : Out :=
  .next (act (fun _ h =>
    match cFind h.near.jig n with
    | some j => if clkM h < j.expire ∨ gavBusy h then h else jigEnd false n h
    | none => h) s)

/-! ### The ALB and the cells -/

/-- ALB_ENTRY_TAKE (R142): entry `tt` takes the ALB entries that it waits for, or has a victim written back. -/
def execAlbEntryTake (tt : Nat) (s : State) : Out :=
  .next (act (fun _ h => if gavHolds h then h else albTake tt h) s)

/-- What cell `k` may issue now: in a held slice only the rest of an accumulation that has issued a group (R176). -/
def cellPick (h : Hw) (k : Nat) : Option CellOp :=
  if cGet 0 h.near.issued k = clkA h + 1 then none
  else leastBy (·.iseq) ((cGet [] h.near.ready k).filter (fun o => decide (o.at_ ≤ clkA h) &&
    (!(gavHolds h) || (match ent h o.tt with | some e => e.wrote | none => false))))

/-- An atomic or alias write issues in cell `k` (R145). -/
def atomIssue (k : Nat) (h : Hw) : Hw :=
  match cellPick h k with
  | some o =>
    (match o.grp, ent h o.tt with
    | none, some e => cellIssue k o (atomLat e.req) h
    | _, _ => h)
  | none => h

/-- ATOMIC_EXECUTE (R145). -/
def execAtomicExecute (cell : Nat) (s : State) : Out := .next (act (fun _ h => atomIssue cell h) s)

/-- The result of an atomic or alias write is written into its ALB entry (R146, R147). -/
def atomDone (c : Cells Word) (k : Nat) (h : Hw) : Hw :=
  match cellDue h k (fun o => o.grp.isNone) with
  | none => h
  | some o =>
    let h := cellDrop k o h
    match ent h o.tt with
    | none => h
    | some e =>
      match albFind h (lineOf e 0), e.req.kind with
      | some (n, a), .aliasW clr => aliasWrite c o.tt e clr n a h
      | some (n, a), _ => atomWrite c o.tt e n a h
      | none, _ => h

/-- ATOMIC_RESULT (R146). -/
def execAtomicResult (cell : Nat) (s : State) : Out := .next (act (fun c h => atomDone c cell h) s)

/-- A group issues in cell `k`: the first one of an accumulation fixes how INT32 sums end, and makes it complete (R175, R176,
R181). (DEDUCED, log entry 59) -/
def groupIssue (c : Cells Word) (k : Nat) (h : Hw) : Hw :=
  match cellPick h k with
  | some o =>
    (match o.grp, ent h o.tt with
    | some _, some e =>
      let h := updEnt o.tt (fun e => if e.wrote then e else
        { e with wrote := true, aux2 := cf c 12 0x40 0 0 }) h
      cellIssue k o (accLat (opOf e.req.hdr)) (ev 0x74 1 h)
    | _, _ => h)
  | none => h

/-- ACC_GROUP_ISSUE (R175). -/
def execAccGroupIssue (cell : Nat) (s : State) : Out := .next (act (fun c h => groupIssue c cell h) s)

/-- ACC_GROUP_WRITE (R175). -/
def execAccGroupWrite (cell : Nat) (s : State) : Out :=
  .next (act (fun c h =>
    match cellDue h cell (fun o => o.grp.isSome) with
    | some o => accWrite c cell o h
    | none => h) s)

/-! ### Merge units -/

/-- The waiting offer with the lowest intake number takes a free merge unit (R205). -/
def mergeStart (h : Hw) : Hw :=
  if gavHolds h then h else
  match mergeNext h, cFree h.units.merge 4 with
  | some (i, e), some u =>
    (match recAt h e.req.par with
    | some t => (h.modUnits (fun it => { it with merge := cIns it.merge u (i, clkA h + mergeTime t e) }))
    | none => h)
  | _, _ => h

/-- SEL_MERGE_START (R205). -/
def execSelMergeStart (s : State) : Out := .next (act (fun _ h => mergeStart h) s)

/-- SEL_MERGE_DONE (R205). -/
def execSelMergeDone (unit : Nat) (s : State) : Out :=
  .next (act (fun c h =>
    match cFind h.units.merge unit with
    | some (i, t) => if clkA h < t ∨ gavHolds h then h else mergeDone c unit i h
    | none => h) s)

/-! ### XP -/

/-- The transaction that takes the next read slot: the first in arrival order (R19, R30). -/
def slotNext (h : Hw) : Option (Nat × Nat × Nat × Nat) :=
  leastBy (fun w => ((ent h w.1).map (·.arr)).getD 0) h.xp.wait

/-- It takes read slot `tag`, and its request is presented in turn (R30, R373). (DESIGN CHOICE, log entry 101) -/
def slotGrant (tag : Nat) (h : Hw) : Hw :=
  match slotNext h with
  | none => h
  | some w =>
    if 4096 ≤ tag ∨ (cFind h.xp.rds tag).isSome then h else
    let r : XpRd := { tt := w.1, li := w.2.1, addr := w.2.2.1, secs := w.2.2.2, owed := w.2.2.2, out := false, since := now h
                      tmo := false }
    (h.modXp (fun it => { it with wait := dropFirst (· == w) it.wait, rds := cIns it.rds tag r, ask := it.ask ++ [tag] }))

/-- XP_SLOT_GRANT (R30). -/
def execXpSlotGrant (tag : Nat) (s : State) : Out := .next (act (fun _ h => slotGrant tag h) s)

/-- The read request presented transfers (R373). -/
def rdTransfer (tag : Nat) (h : Hw) : Hw :=
  match cFind h.xp.rds tag with
  | none => h
  | some r =>
    if h.xp.rdUp ≠ some tag then h else
    let h := h.modXp (fun it => { it with
      rdUp := none, rds := cIns it.rds tag { r with out := true, since := now h }, rdPins := some (r.addr / 128, r.secs, tag) })
    let h := ev 0x55 1 h
    match ent h r.tt with | some e => stamp 6 e.req.iseq h | none => h

/-- XP_READ_TRANSFER (R373). -/
def execXpReadTransfer (tag : Nat) (s : State) : Out := .next (act (fun _ h => rdTransfer tag h) s)

/-- The last beat of a read has come: its entry goes on, or finds the data when it comes to need it (R341). -/
def xrdEnd (r : XpRd) (h : Hw) : Hw :=
  match ent h r.tt with
  | none => h
  | some e =>
    match e.busy, e.todo.head? with
    | true, some (.xrd _ _ li) => if li = r.li then popAct r.tt h else updEnt r.tt (fun e => { e with xgot := e.xgot ||| 2 ^ r.li }) h
    | _, _ => updEnt r.tt (fun e => { e with xgot := e.xgot ||| 2 ^ r.li }) h

/-- A read beat arrives: it is taken, or discarded; the slot of a request whose last sector has come frees in the next CLK_P cycle
(R373, R375). (DEDUCED, log entry 60) -/
def rdBeat (tag : Nat) (sector : Bool) (data : BitVec 512) (poison : BitVec 16) (h : Hw) : Hw :=
  let s := b2n sector
  match cFind h.xp.rds tag with
  | none => err 4 0 h
  | some r =>
    if !r.out ∨ !(bitN r.owed s) then err 4 0 h else
    let ws : List PWord := ((flitWords data).zipIdx).map (fun p => ⟨p.1, bit poison p.2⟩)
    let h := updEnt r.tt (fun e => putWords e r.li (16 * s) ws) h
    let h := if poison = 0 then h else ev 0x59 1 (cnt 4 0x4C 1 h)
    let left := r.owed - 2 ^ s
    let h := h.modXp (fun it => { it with rds := cIns it.rds tag { r with owed := left, since := now h } })
    if left = 0 then xrdEnd r h else h

/-- XP_READ_BEAT (R373). -/
def execXpReadBeat (tag : Nat) (sector : Bool) (data : BitVec 512) (poison : BitVec 16) (s : State) : Out :=
  .next (act (fun _ h => rdBeat tag sector data poison h) s)

/-- The init beat that INIT_FILL presents (R229, R374). -/
def fillBeat (f : Fill) : XpWr :=
  { addr := f.next, words := List.replicate 16 ⟨f.pattern, false⟩, init := true, own := none, last := false }

/-- What XP presents at the start of a CLK_P cycle while nothing is held there: the oldest read request, and a write beat, one of
INIT_FILL where no other waits (R219, R373, R374). (DESIGN CHOICE, log entry 101) -/
def xpPresent (h : Hw) : Hw :=
  let h := h.modXp (fun it => { it with rds := it.rds.filter (fun p => decide (p.2.owed ≠ 0)) })
  let h := match h.xp.rdUp, h.xp.ask with
    | none, t :: rest => h.modXp (fun it => { it with rdUp := some t, ask := rest })
    | _, _ => h
  match h.xp.wrUp, h.xp.wrs, h.glp.fill with
  | none, w :: rest, _ => h.modXp (fun it => { it with wrUp := some w, wrs := rest })
  | none, [], some f => if f.total ≤ f.next ∨ gavBusy h then h else h.modXp (fun it => { it with wrUp := some (fillBeat f) })
  | _, _, _ => h

/-- The write beat presented transfers; the last one of a line is its acceptance (R122, R374). -/
def wrBeat (h : Hw) : Hw :=
  match h.xp.wrUp with
  | none => h
  | some w =>
    let h := ev 0x56 1 (h.modXp (fun it => { it with wrUp := none, wrPins := some w }))
    if w.init then h.modGlp (fun it => { it with fill := it.fill.map (fun f => { f with next := f.next + 1 }) })
    else if !w.last then h else
    match w.own with
    | some (.tt i) =>
      (match (ent h i).map (fun e => if e.busy then e.todo.head? else none) with
      | some (some (Act.xwr ..)) => popAct i h
      | _ => h)
    | some (.alb n) => albDone n h
    | some (.jig n) => h.modNear (fun it => { it with jig := cDel it.jig n })
    | _ => h

/-- XP_WRITE_BEAT (R374). -/
def execXpWriteBeat (s : State) : Out := .next (act (fun _ h => wrBeat h) s)

/-- A read has waited for XP.RD_TMO CLK_C cycles: recorded once (R375). -/
def rdTmo (c : Cells Word) (tag : Nat) (h : Hw) : Hw :=
  let lim := cf c 4 0x44 15 0
  match cFind h.xp.rds tag with
  | none => h
  | some r =>
    if !r.out ∨ r.owed = 0 ∨ r.tmo ∨ lim = 0 ∨ clkC h < r.since / 4 + lim then h else
    err 4 1 (put 4 0x48 (2 ^ 31 + tag) (h.modXp (fun it => { it with rds := cIns it.rds tag { r with tmo := true } })))

/-- XP_READ_TMO (R375). -/
def execXpReadTmo (tag : Nat) (s : State) : Out := .next (act (fun c h => rdTmo c tag h) s)

end Sys2Proof.Machine
end

