-- ==== Sys2Proof/Machine/Alloc.lean ====
section
/-! DEFINITION. ALLOC commands: way modes (R38 to R45), locks (R43, R46); and maintenance commands with their walker (R116 to
R131). -/
namespace Sys2Proof.Machine

/-! ### Conditions shared by the command pages -/

/-- Start-up has not passed its FILL or MARCH step: commands that need a TT entry or bank operations complete with STATE
(R423). -/
def booting (h : Hw) : Bool := (h.rst.boot == .power) || (h.rst.boot == .fill) || (h.rst.boot == .march)

/-- The march engine runs on a bank of the way. -/
def wayMarched (h : Hw) (w : Nat) : Bool := bankMarched h (2 * w) || bankMarched h (2 * w + 1)

/-- ALLOC.WAY_DIRTY of a way (R68). -/
def wayDirty (h : Hw) (w : Nat) : Bool :=
  decide (wayMode h w = 0) &&
    h.home.tags.any (fun p => decide (p.1 % 16 = w) && p.2.valid && (p.2.d0 || p.2.d1))

/-- A Quadrille record is defined in the way. -/
def wayRecord (h : Hw) (w : Nat) : Bool := h.units.recs.any (fun p => p.2.valid && decide (p.2.way = w))

/-- A queue descriptor in the way is enabled. -/
def wayQueue (h : Hw) (w : Nat) : Bool := (queEnabled h).any (fun p => decide (p.1 = w))

/-- The running set-and-way command or PRELOAD_LOCK on a way is cut short (R126, R293).
(DEDUCED, log entry 66) -/
def mntCutWay (w : Nat) (h : Hw) : Hw :=
  match h.units.mnt with
  | some (code, v, _) =>
    if 4 ≤ code ∧ code ≤ 7 ∧ v = w then (h.modUnits (fun it => { it with mntCut := true })) else h
  | none => h

/-! ### SET_MODE (R43 to R45) -/

/-- The line lies in the way. -/
def lineIn (h : Hw) (w : Nat) (k : LineKey) : Bool :=
  match k with
  | .loc v _ => decide (v = w)
  | .pa n => decide (wayOf h n = some w)

/-- The act is an array access of the way that waits. -/
def actOn (w : Nat) (a : Act) : Bool :=
  match a with
  | .rd v _ _ _ | .wr v _ _ _ _ => decide (v = w)
  | _ => false

/-- A protection transaction works in the way. -/
def protOn (h : Hw) (w : Nat) (r : Req) : Bool :=
  match r.kind with
  | .repair => decide (r.par / 32768 = w)
  | .chkWrite | .chkRead => (match h.prot.chk with | some (a, _, _) => decide (fld a 31 28 = w) | none => false)
  | .lrtMap | .lrtUnmap => decide (r.par / 16384 = w)
  | _ => false

/-- Work of the slice itself on a line of a PINNED or QUEUE way. -/
def ownOn (w : Nat) (r : Req) : Bool :=
  r.port.isNone && r.eng.isNone &&
    r.lines.any (fun k => match k with | .loc v _ => decide (v = w) | .pa _ => false)

/-- Step 2 of R44 still waits: a transaction, a bank operation, an ALB line or a Jig entry of the way.
(DEDUCED, log entry 58) -/
def wayBusy (h : Hw) (w : Nat) : Bool :=
  h.core.tt.any (fun p => p.2.todo.any (actOn w) || (p.2.active && p.2.passed && p.2.req.lines.any (lineIn h w)) ||
    ownOn w p.2.req || protOn h w p.2.req) ||
  h.core.adm.any (fun r => ownOn w r || protOn h w r) ||
  h.arr.banks.any (fun p => (p.2.pend ++ p.2.cur.toList ++ p.2.fly).any (fun op => decide (op.way = w))) ||
  h.near.alb.any (fun p => lineIn h w p.2.line) || h.near.jig.any (fun p => decide (p.2.way = w) && p.2.base.isNone)

/-- The slice's own work, for the write-backs that it starts itself. (DESIGN CHOICE, log entry 8) -/
def ownWho (h : Hw) : Who := whoOf (ownReq h .flush [] 0 ownRid)

/-- Step 2 of R44 starts the write-back of every ALB line of the way, and ends the hold of its Jig entries. -/
def wayPush (w : Nat) (h : Hw) : Hw :=
  let who := ownWho h
  let h := (h.near.alb.filter (fun p => lineIn h w p.2.line && !p.2.wb)).foldl (fun h p => albWb who p.1 h) (drew h)
  (h.near.jig.filter (fun p => decide (p.2.way = w) && p.2.base.isNone)).foldl (fun h p => jigEnd true p.1 h) h

/-- The conditions of R43 on SET_MODE. -/
def setModeBad (c : Cells Word) (h : Hw) (w : Nat) : Bool :=
  locked c || h.home.locked.contains w || wayMarched h w ||
    (match wayMode h w with
    | 0 => wayDirty h w
    | 1 => wayRecord h w
    | 2 => wayQueue h w
    | _ => false)

/-- SET_MODE is taken (R43, R44); in a Gavotte sequence what it starts waits for the release (R344). -/
def setModeTake (w mode : Nat) (c : Cells Word) (h : Hw) : Hw :=
  let stat := mode * 2 ^ 14 + w * 256 + 1
  if pgBusy h 7 then cmdRefused 7 h
  else if booting h || setModeBad c h w then cmdTaken 7 stat 5 h
  else if wayMode h w = mode then cmdTaken 7 stat 0 h
  else
    let run : SetRun := { way := w, mode := mode, old := wayMode h w, step := .drain, arr := h.core.nextArr, auto := false }
    let h := ((cmdRuns 7 stat h).setRst { h.rst with setRun := some run })
    if gavBusy h then mntCutWay w h else wayPush w (mntCutWay w h)

/-- SET_MODE (R44). -/
def execSetMode (way : BitVec 4) (mode : BitVec 2) (s : State) : Out :=
  .next (act (setModeTake way.toNat mode.toNat) s)

/-- Move the running SET_MODE to this step. -/
def setStep (r : SetRun) (x : SetStep) (h : Hw) : Hw := h.modRst (fun it => { it with setRun := some { r with step := x } })

/-- A bank has reached a power state, or has failed. -/
def pwrIs (h : Hw) (b : Nat) (x : PwrSt) : Bool := (pwr h b).dead || ((pwr h b).st == x)

/-- A bank is asked to be on, unless it is or has been asked already. -/
def bankWake (b : Nat) (h : Hw) : Hw :=
  let p := pwr h b
  if p.st = .on ∨ (p.st = .chg ∧ p.want = .on) ∨ p.next = some .on then h else pwrAsk b .on h

/-- Step 4 of R44: the new mode is entered. The zero fill starts once both banks are on; one in retention is woken for it (R57). -/
def setModeEnter (r : SetRun) (h : Hw) : Hw :=
  let a := 2 * r.way
  if r.mode = 0 then setStep r (.inval (clkM h)) h
  else if r.mode = 3 then setStep r .powerOff (pwrAsk (a + 1) .off (pwrAsk a .off h))
  else if pwrIs h a .on && pwrIs h (a + 1) .on then setStep r (.fill (clkM h)) h
  else setStep r .powerOn (bankWake (a + 1) (bankWake a h))

/-- Step 3 of R44: the old mode is left. -/
def setModeLeave (r : SetRun) (h : Hw) : Hw :=
  if r.old = 0 then setStep r (.inval (clkM h)) h
  else if r.old = 3 then setStep r .powerOn (pwrAsk (2 * r.way + 1) .on (pwrAsk (2 * r.way) .on h))
  else setModeEnter r h

/-- Step 2 of R44 is over: nothing of the way is under way. -/
def setModeDrained (h : Hw) : Hw :=
  match h.rst.setRun with
  | some r =>
    if r.step ≠ .drain ∨ gavBusy h then h
    else if wayBusy h r.way then wayPush r.way h
    else setModeLeave r h
  | none => h

/-- SET_MODE_DRAINED (R44). -/
def execSetModeDrained (s : State) : Out := .next (act (fun _ h => setModeDrained h) s)

/-- Every tag entry of a way is invalid. -/
def clearTags (w : Nat) (h : Hw) : Hw :=
  h.modHome (fun it => { it with tags := it.tags.filter (fun p => decide (p.1 % 16 ≠ w)) })

/-- Every row of a way's banks, and of the spare lines mapped from them, reads zero with valid check bits (R44, R290). -/
def zeroBank (b : Nat) (h : Hw) : Hw :=
  let ws := cClear h.arr.words (b * 262144) 262144
  let ws := h.prot.lrt.foldl (fun ws p =>
    if bankOf p.2.1 p.2.2.1 = b then cClear ws (32 * 262144 + 32 * p.2.2.2) 32 else ws) ws
  (h.modArr (fun it => { it with words := ws }))

/-- The new mode is in force (R44). -/
def setModeEnd (r : SetRun) (h : Hw) : Hw :=
  let h := ((h.modHome (fun it => { it with mode := cPut 0 it.mode r.way r.mode })).modRst (fun it => { it with setRun := none }))
  cmdEnds 7 0 h

/-- The step of the running SET_MODE ends, not in a Gavotte sequence (R344). The power-down of an automatic way disable ends with
WAY_DISABLE_DONE. -/
def setModeStep (h : Hw) : Hw :=
  match h.rst.setRun with
  | none => h
  | some r =>
    if gavBusy h then h else
    let a := 2 * r.way
    match r.step with
    | .drain => h
    | .inval t =>
      if clkM h < t + 1024 then h
      else if r.old = 0 then setModeEnter r (clearTags r.way h)
      else setModeEnd r (clearTags r.way h)
    | .powerOn => if pwrIs h a .on && pwrIs h (a + 1) .on then setModeEnter r h else h
    | .fill t => if clkM h < t + 16384 then h else setModeEnd r (zeroBank (a + 1) (zeroBank a h))
    | .powerOff => if pwrIs h a .off && pwrIs h (a + 1) .off && !r.auto then setModeEnd r h else h

/-- SET_MODE_STEP_DONE (R44). -/
def execSetModeStepDone (s : State) : Out := .next (act (fun _ h => setModeStep h) s)

/-! ### LOCK and UNLOCK (R43, R46, R47) -/

/-- A way is locked. -/
def lockWay (w : Nat) (h : Hw) : Hw :=
  if h.home.locked.contains w then h else h.modHome (fun it => { it with locked := it.locked ++ [w] })

/-- LOCK is taken. -/
def lockTake (w mode : Nat) (_ : Cells Word) (h : Hw) : Hw :=
  let stat := mode * 2 ^ 14 + w * 256 + 2
  if pgBusy h 7 then cmdRefused 7 h
  else if wayMode h w ≠ 0 ∨ wayMarched h w then cmdTaken 7 stat 5 h
  else cmdTaken 7 stat 0 (lockWay w h)

/-- LOCK (R43). -/
def execLock (way : BitVec 4) (mode : BitVec 2) (s : State) : Out := .next (act (lockTake way.toNat mode.toNat) s)

/-- The preload bits of every line in a way are cleared (R47). -/
def clearPre (w : Nat) (h : Hw) : Hw :=
  let off := fun (p : Nat × Tag) => if p.1 % 16 = w then (p.1, { p.2 with pre := false }) else p
  (h.modHome (fun it => { it with tags := (it.tags.map off).filter (fun p => decide (p.2 ≠ Tag.none_)) }))

/-- UNLOCK is taken. -/
def unlockTake (w mode : Nat) (_ : Cells Word) (h : Hw) : Hw :=
  let stat := mode * 2 ^ 14 + w * 256 + 3
  if pgBusy h 7 then cmdRefused 7 h
  else if h.home.locked.contains w then
    cmdTaken 7 stat 0 (clearPre w (h.modHome (fun it => { it with locked := it.locked.filter (· ≠ w) })))
  else cmdTaken 7 stat 0 h

/-- UNLOCK (R43). -/
def execUnlock (way : BitVec 4) (mode : BitVec 2) (s : State) : Out := .next (act (unlockTake way.toNat mode.toNat) s)

/-! ### Maintenance commands (R116, R126, R128 to R131) -/

/-- First line and number of lines of the range. -/
def mntRange (c : Cells Word) : Nat × Nat :=
  ((cfgGet c (rg 9 0x40)).toNat / 128 + cf c 9 0x44 19 0 * 2 ^ 25, cf c 9 0x48 27 0)

/-- The command has a range as operand. -/
def mntByRange (code : Nat) : Bool := decide (code ≤ 3 ∨ code = 7 ∨ code = 9)

/-- The command names a way. -/
def mntByWay (code : Nat) : Bool := decide (4 ≤ code ∧ code ≤ 7)

/-- The DECERR conditions of R130. (DEDUCED, log entry 68) -/
def mntDecErr (c : Cells Word) (code : Nat) : Bool :=
  let (ln, n) := mntRange c
  (mntByRange code && (decide (n = 0) || decide (2 ^ 45 < ln + n))) ||
    (decide (4 ≤ code ∧ code ≤ 6) && (decide (cf c 9 0x4C 30 16 = 0) || decide (16384 < cf c 9 0x4C 13 0 + cf c 9 0x4C 30 16)))

/-- The STATE conditions of R130 other than BUSY. -/
def mntBad (h : Hw) (code w : Nat) : Bool :=
  mntByWay code && (decide (wayMode h w ≠ 0) || setRuns h w || wayMarched h w)

/-- The line lies in the range. -/
def inRange (c : Cells Word) (h : Hw) (k : LineKey) : Bool :=
  let (ln, n) := mntRange c
  let a := lineByte c h k / 128
  decide (ln ≤ a ∧ a < ln + n)

/-- A line in its place by line address. -/
def lineInsert (c : Cells Word) (h : Hw) (k : LineKey) : List LineKey → List LineKey
  | [] => [k]
  | x :: l => if lineByte c h k < lineByte c h x then k :: x :: l else x :: lineInsert c h k l

/-- A maintenance command is taken. An ALB flush notes the lines that the ALB holds, in the order of their addresses (R117, R127). -/
def mntTake (code w : Nat) (c : Cells Word) (h : Hw) : Hw :=
  let stat := w * 256 + code
  if mntDecErr c code then cmdTaken 9 stat 3 h
  else if pgBusy h 9 then cmdRefused 9 h
  else if booting h || mntBad h code w then cmdTaken 9 stat 5 h
  else
    let h := put 9 0x68 0 (put 9 0x60 0 (put 9 0x5C 0 (put 9 0x58 0 (put 9 0x54 0 (cmdRuns 9 stat h)))))
    let (first, num) := if mntByRange code then mntRange c else (cf c 9 0x4C 13 0, cf c 9 0x4C 30 16)
    let ls := (h.near.alb.map (fun p => p.2.line)).filter (fun k => decide (code = 8) || inRange c h k)
    (h.modUnits (fun it => { it with
      mnt := some (code, w, first, if code = 8 then 0 else num), mntFly := 0, mntCut := false
      mntLines := if 8 ≤ code then ls.foldr (lineInsert c h) [] else [] }))

/-- CLEAN_PA (R118). -/
def execCleanPa (way : BitVec 4) (s : State) : Out := .next (act (mntTake 1 way.toNat) s)
/-- INV_PA (R118). -/
def execInvPa (way : BitVec 4) (s : State) : Out := .next (act (mntTake 2 way.toNat) s)
/-- CLINV_PA (R118). -/
def execClinvPa (way : BitVec 4) (s : State) : Out := .next (act (mntTake 3 way.toNat) s)
/-- CLEAN_SW (R119). -/
def execCleanSw (way : BitVec 4) (s : State) : Out := .next (act (mntTake 4 way.toNat) s)
/-- INV_SW (R119). -/
def execInvSw (way : BitVec 4) (s : State) : Out := .next (act (mntTake 5 way.toNat) s)
/-- CLINV_SW (R119). -/
def execClinvSw (way : BitVec 4) (s : State) : Out := .next (act (mntTake 6 way.toNat) s)
/-- PRELOAD_LOCK (R125). -/
def execPreloadLock (way : BitVec 4) (s : State) : Out := .next (act (mntTake 7 way.toNat) s)
/-- ALB_FLUSH (R127). -/
def execAlbFlush (way : BitVec 4) (s : State) : Out := .next (act (mntTake 8 way.toNat) s)
/-- ALB_FLUSH_PA (R127). -/
def execAlbFlushPa (way : BitVec 4) (s : State) : Out := .next (act (mntTake 9 way.toNat) s)

/-! ### The walker (R117, R119) -/

/-- The HMT names this slice as home of a line that R53 decodes to no register space, pinned window or alias.
(DEDUCED, log entry 65) -/
def homedHere (c : Cells Word) (h : Hw) (pa : Nat) : Bool :=
  !(inCfg c pa) && !(inWin c 0x60 pa) && !(inWin c 0x64 pa) && !(inWin c 0x68 pa) &&
    decide (homeOf c pa = some h.rst.id.toNat)

/-- A maintenance transaction may be issued as entry `i`: fewer than MNT.CTRL.DEPTH are in flight and a general entry is free. -/
def mntMay (c : Cells Word) (h : Hw) (i : Nat) : Bool :=
  decide (h.units.mntFly < min 64 (max 1 (cf c 9 0x50 6 0))) && decide (i < 16384) && (ent h i).isNone &&
    decide (poolUse h .gen < poolCap .gen)

/-- A new entry of the slice's own work takes TT index `i`, and an intake number. -/
def ownEnt (i : Nat) (r : Req) (h : Hw) : Hw :=
  drew (newEnt i { req := r, pool := .gen, arr := 0 } (h.modCore (fun it => { it with nextSeq := it.nextSeq + 1 })))

/-- A maintenance transaction is issued. -/
def mntIssue (i : Nat) (kind : Kind) (k : LineKey) (par : Nat) (h : Hw) : Hw :=
  let h := ownEnt i (ownReq h kind [k] par ownRid) h
  (h.modUnits (fun it => { it with mntFly := it.mntFly + 1 }))

/-- The walker has made one more examination in this CLK_P cycle. -/
def mntExam (h : Hw) : Hw :=
  h.modUnits (fun it => { it with mntCyc := now h, mntNum := if it.mntCyc = now h then it.mntNum + 1 else 1 })

/-- The walker examines its next line or set, and may issue a transaction as entry `i` (R117, R119, R126, R127). ALB_FLUSH_PA examines
its range as the by-address commands do. (DESIGN CHOICE, log entry 107) -/
def mntWalk (c : Cells Word) (i : Nat) (h : Hw) : Hw :=
  match h.units.mnt with
  | none => h
  | some (code, w, next, left) =>
    let most := if 4 ≤ code ∧ code ≤ 6 then 1 else 4
    if gavBusy h ∨ (h.units.mntCyc = now h ∧ most ≤ h.units.mntNum) then h
    else if code = 8 then
      match h.units.mntLines with
      | [] => h
      | k :: rest =>
        if mntMay c h i then mntIssue i .flush k 0 (mntExam (h.modUnits (fun it => { it with mntLines := rest }))) else h
    else if left = 0 then h
    else
      let on := fun (h : Hw) => mntExam (h.modUnits (fun it => { it with mnt := some (code, w, next + 1, left - 1) }))
      if h.units.mntCut then cntW 9 0x58 1 (on h) 28
      else if 4 ≤ code ∧ code ≤ 6 then
        let t := tagAt h next w
        if !t.valid then cntW 9 0x54 1 (on h) 28
        else if mntMay c h i then mntIssue i (.maint code) (.pa (lineAt next t.tag)) (w * 16384 + next) (on h) else h
      else if !(homedHere c h (next * 128)) then cntW 9 0x58 1 (on h) 28
      else if code = 9 then
        if !(h.units.mntLines.contains (.pa next)) then on h
        else if mntMay c h i then mntIssue i .flush (.pa next) 0 (on h) else h
      else if mntMay c h i then mntIssue i (if code = 7 then .preload else .maint code) (.pa next) w (on h)
      else h

/-- MNT_WALK_ISSUE (R117). -/
def execMntWalkIssue (tt : Nat) (s : State) : Out := .next (act (fun c h => mntWalk c tt h) s)

/-- Every transaction of the command has committed: BUSY clears, the result is written, and PRELOAD_LOCK locks its way (R122,
R125, R126); not while a Gavotte sequence runs (R124). -/
def mntEnd (h : Hw) : Hw :=
  match h.units.mnt with
  | none => h
  | some (code, w, _, left) =>
    if gavBusy h ∨ left ≠ 0 ∨ h.units.mntFly ≠ 0 ∨ (code = 8 ∧ !h.units.mntLines.isEmpty) then h else
    let cut := h.units.mntCut
    let h := if code = 7 ∧ !cut then lockWay w h else h
    cmdEnds 9 (if cut then 5 else 0) (h.modUnits (fun it => { it with mnt := none, mntCut := false, mntLines := [] }))

/-- MNT_COMPLETE (R122). -/
def execMntComplete (s : State) : Out := .next (act (fun _ h => mntEnd h) s)

end Sys2Proof.Machine
end

