-- ==== Sys2Proof/Machine/Check.lean ====
section
/-! DEFINITION. Commands of the ECC and LRT pages and what they start: scrubbing (R296 to R299), the checker (R300), CLR_WAY
(R307), error injection (R280, R308), repair transactions (R282, R283), automatic way disable (R293, R294), and MAP and UNMAP
(R291). -/
namespace Sys2Proof.Machine

/-- Work of the slice itself waits for a TT entry: the next intake number is its own. -/
def addWork (kind : Kind) (lines : List LineKey) (par : Nat) (f : Req → Req) (h : Hw) : Hw :=
  let r := f (ownReq h kind lines par ownRid)
  drew (h.modCore (fun it => { it with nextSeq := it.nextSeq + 1, adm := it.adm ++ [r] }))

/-! ### Scrubbing -/

/-- The DECERR conditions of SCRUB_START (R306). -/
def scrubBad (c : Cells Word) : Bool :=
  decide (cf c 17 0x48 15 0 = 0) || decide (cf c 17 0x4C 30 16 = 0) ||
    decide (16384 < cf c 17 0x4C 13 0 + cf c 17 0x4C 30 16)

/-- SCRUB_START is taken (R296, R298, R306). -/
def scrubStart (w : Nat) (c : Cells Word) (h : Hw) : Hw :=
  let stat := w * 256 + 1
  if scrubBad c then cmdTaken 17 stat 3 h
  else if pgBusy h 17 then cmdRefused 17 h
  else if booting h then cmdTaken 17 stat 5 h
  else
    let first := cf c 17 0x4C 13 0
    let h := put 17 0x68 0 (put 17 0x60 0 (put 17 0x5C 0 (put 17 0x58 0 (put 17 0x54 0 (cmdRuns 17 stat h)))))
    put 17 0x50 first (h.modProt (fun it => { it with scrub := some {
      mask := BitVec.ofNat 16 (cf c 17 0x48 15 0), first := first, count := cf c 17 0x4C 30 16, next := [], pend := [],
      wait := [], left := 0, stop := false } }))

/-- SCRUB_START (R296). -/
def execScrubStart (way : BitVec 4) (s : State) : Out := .next (act (scrubStart way.toNat) s)

/-- SCRUB_STOP is taken (R299, R306). -/
def scrubStop (w : Nat) (_ : Cells Word) (h : Hw) : Hw :=
  match h.prot.scrub with
  | none => cmdTaken 17 (w * 256 + 2) 5 h
  | some p => cmdTaken 17 (w * 256 + 2) 0 (h.modProt (fun it => { it with scrub := some { p with stop := true } }))

/-- SCRUB_STOP (R299). -/
def execScrubStop (way : BitVec 4) (s : State) : Out := .next (act (scrubStop way.toNat) s)

/-- SCRUB_READ_ISSUE (R297): the scrubber's next read of a bank. -/
def execScrubReadIssue (bank : Nat) (s : State) : Out := .next (act (fun _ h => scrubIssue bank h) s)

/-- The pass ends: the summary is final and BUSY clears (R297 to R299). -/
def scrubEnd (h : Hw) : Hw :=
  match h.prot.scrub with
  | none => h
  | some p =>
    if !(scrubOver h p) then h else
    let h := if p.stop then h else put 17 0x50 (p.first + p.count) h
    cmdEnds 17 0 (h.modProt (fun it => { it with scrub := none }))

/-- SCRUB_PASS_END (R297). -/
def execScrubPassEnd (s : State) : Out := .next (act (fun _ h => scrubEnd h) s)

/-! ### Checker, CLR_WAY, injection -/

/-- A checker command is taken (R300, R306). -/
def chkTake (code : Nat) (kind : Kind) (w : Nat) (c : Cells Word) (h : Hw) : Hw :=
  let stat := w * 256 + code
  let a := cfgGet c (rg 17 0x6C)
  let (way, set, _, _) := chkPlace a
  if pgBusy h 17 then cmdRefused 17 h
  else if booting h ∨ cf c 17 0x44 31 31 = 0 ∨ wayMode h way = 3 then cmdTaken 17 stat 5 h
  else
    let h := cmdRuns 17 stat h
    addWork kind (placeLines h way set) 0 id
      (h.modProt (fun it => { it with chk := some (a, roGet h (rg 17 0x70), roGet h (rg 17 0x74)) }))

/-- CHK_WRITE (R300). -/
def execChkWrite (way : BitVec 4) (s : State) : Out := .next (act (chkTake 3 .chkWrite way.toNat) s)
/-- CHK_READ (R300). -/
def execChkRead (way : BitVec 4) (s : State) : Out := .next (act (chkTake 4 .chkRead way.toNat) s)

/-- CHK_DONE (R300): the transaction is over, and BUSY clears. -/
def execChkDone (s : State) : Out :=
  .next (act (fun _ h =>
    if h.units.chkEnd then cmdEnds 17 0 (h.modUnits (fun it => { it with chkEnd := false })) else h) s)

/-- CLR_WAY is taken (R307). -/
def clrWay (w : Nat) (_ : Cells Word) (h : Hw) : Hw :=
  let off := fun (o : Nat) (h : Hw) => roPut (rg 17 o) (setBit (roGet h (rg 17 o)) w false) h
  cmdTaken 17 (w * 256 + 5) 0 (off 0x9C (off 0x98 (put 17 (0xC0 + 4 * w) 0 h)))

/-- CLR_WAY (R307). -/
def execClrWay (way : BitVec 4) (s : State) : Out := .next (act (clrWay way.toNat) s)

/-- A write of ECC.PG_ERR_INJ (R280, R308): errors for the next lookup of a cached address. -/
def eccInj (d : Word) (h : Hw) : Hw :=
  let t := fld d 1 0
  let f := fld d 3 2
  (h.modProt (fun it => { it with
    injTag := if t = 1 ∨ t = 2 then t else it.injTag
    injSf := if f = 1 ∨ f = 2 then f else it.injSf }))

/-- ECC_ERR_INJ (R308). -/
def execEccErrInj (data : BitVec 32) (s : State) : Out := .next (act (fun _ h => eccInj data h) s)

/-! ### Repair -/

/-- The words of a retry entry as marks of a payload. -/
def retryPay (r : Retry) : List PWord :=
  (List.range 32).map (fun n => ⟨0, r.words.any (fun w => decide (w.1 = n))⟩)

/-- The oldest retry-queue entry becomes a repair transaction as entry `i` (R282). Of a way that is OFF or under SET_MODE
nothing is left to examine. (DEDUCED, log entry 69) -/
def repairStart (i : Nat) (h : Hw) : Hw :=
  match h.prot.retry with
  | [] => h
  | r :: rest =>
    let out := h.modProt (fun it => { it with retry := rest })
    let way := (rowPlace h r.bank r.row).map (·.1)
    let gone : Bool := match way with | some w => decide (wayMode h w = 3) || (setting h w).isSome | none => false
    if gavBusy h then h
    else if gone then
      let h := match out.prot.scrub with
        | some p => if r.scrub then (out.modProt (fun it => { it with scrub := some { p with left := p.left - 1 } })) else out
        | none => out
      scrubDrain h
    else if 16384 ≤ i ∨ (ent h i).isSome ∨ poolCap .gen ≤ poolUse h .gen then h
    else
      let lines := match rowPlace h r.bank r.row with | some (w, s) => placeLines h w s | none => []
      let q := { ownReq h .repair lines (r.bank * 16384 + r.row) r.rid with pay := retryPay r }
      scrubDrain (updEnt i (fun e => { e with aux2 := b2n r.scrub }) (ownEnt i q out))

/-- REPAIR_START (R282). -/
def execRepairStart (tt : Nat) (s : State) : Out := .next (act (fun _ h => repairStart tt h) s)

/-- REPAIR_STEP (R283): a repair transaction that has read its row decides. -/
def execRepairStep (tt : Nat) (s : State) : Out :=
  .next (act (fun c h =>
    match ent h tt with
    | some e => if e.active && (e.todo.head? == some .step) && (!(gavHolds h) || e.wrote) then repairDecide c tt e h else h
    | none => h) s)

/-! ### Automatic way disable -/

/-- Start-up does not let a way disable begin: in POWER, and in FILL while the fill still runs (R420).
(DEDUCED, log entry 90) -/
def disBars (h : Hw) : Bool :=
  (h.rst.boot == .power) || ((h.rst.boot == .fill) && decide (clkM h < h.rst.bootCyc / 2 + 16384))

/-- Steps 1 and 2 of R293 for a way that waits, from the CLK_C cycle after the one in which its count reached the threshold on (R295). -/
def disStart (w : Nat) (h : Hw) : Hw :=
  if ¬ h.prot.disWait.any (fun d => decide (d.1 = w) && decide (d.2 < clkC h)) ∨ h.prot.dis.isSome ∨ pgBusy h 7 ∨ wayMarched h w ∨
    gavBusy h ∨ disBars h then h else
  let h := h.modProt (fun it => { it with disWait := it.disWait.filter (fun d => decide (d.1 ≠ w)) })
  if wayMode h w = 3 then h
  else if wayMode h w ≠ 0 ∨ h.home.locked.contains w then
    if (pwr h (2 * w)).dead ∨ (pwr h (2 * w + 1)).dead then h else wayKept w h
  else mntCutWay w (cmdRuns 7 (3 * 2 ^ 14 + w * 256 + 1) (h.modProt (fun it => { it with dis := some (w, .walk 0 0 0) })))

/-- WAY_DISABLE_START (R293). -/
def execWayDisableStart (way : Nat) (s : State) : Out := .next (act (fun _ h => disStart way h) s)

/-- Step 3 of R293: the walk examines the tag entry of its next set and cleans a valid line as entry `i`; once every set is
done, step 4 begins. -/
def disWalk (i : Nat) (h : Hw) : Hw :=
  match h.prot.dis with
  | some (w, .walk set fly cyc) =>
    let upd := fun (x : DisStep) (h : Hw) => (h.modProt (fun it => { it with dis := some (w, x) }))
    if gavBusy h ∨ cyc = clkM h + 1 then h
    else if 16384 ≤ set then
      if fly ≠ 0 then h else
      let run : SetRun := { way := w, mode := 3, old := 0, step := .drain, arr := h.core.nextArr, auto := true }
      wayPush w (upd .power (h.modRst (fun it => { it with setRun := some run })))
    else
      let t := tagAt h set w
      if !t.valid then upd (.walk (set + 1) fly (clkM h + 1)) h
      else match pickPool h false true with
        | some p =>
          if 16384 ≤ i ∨ (ent h i).isSome then h else
          let q := ownReq h .wayDis [.pa (lineAt set t.tag)] (w * 16384 + set) ownRid
          let h := h.modCore (fun it => { it with nextSeq := it.nextSeq + 1 })
          upd (.walk (set + 1) (fly + 1) (clkM h + 1)) (drew (newEnt i { req := q, pool := p, arr := 0 } h))
        | none => h
  | _ => h

/-- WAY_DISABLE_WALK (R293). -/
def execWayDisableWalk (tt : Nat) (s : State) : Out := .next (act (fun _ h => disWalk tt h) s)

/-- A way has been disabled automatically: its bit, its flag and its log entry (R293 step 5). -/
def disReport (w : Nat) (h : Hw) : Hw :=
  report 5 false w 0 0 ownRid (err 17 3 (roPut (rg 17 0x9C) (setBit (roGet h (rg 17 0x9C)) w true) h))

/-- Step 5 of R293. -/
def disDone (h : Hw) : Hw :=
  match h.rst.setRun with
  | some r =>
    if r.auto ∧ r.step = .powerOff ∧ pwrIs h (2 * r.way) .off ∧ pwrIs h (2 * r.way + 1) .off then
      disReport r.way (setModeEnd r (h.modProt (fun it => { it with dis := none })))
    else h
  | none => h

/-- WAY_DISABLE_DONE (R293). -/
def execWayDisableDone (s : State) : Out := .next (act (fun _ h => disDone h) s)

/-! ### MAP and UNMAP -/

/-- The STATE conditions that MAP and UNMAP share (R306), but for BUSY. -/
def lrtBad (h : Hw) (w set : Nat) : Bool :=
  booting h || lrtWayBad h w set

/-- A command of the LRT page runs. -/
def lrtRun (kind : Kind) (stat w set : Nat) (h : Hw) : Hw :=
  addWork kind (placeLines h w set) (w * 16384 + set) id (cmdRuns 19 stat h)

/-- MAP is taken (R291, R306). -/
def lrtMapTake (w set : Nat) (_ : Cells Word) (h : Hw) : Hw :=
  let stat := set * 2 ^ 16 + w * 256 + 1
  if pgBusy h 19 then cmdRefused 19 h
  else if lrtBad h w set || (lrtEntry h w set).isSome || (lrtFree h).isNone || (spareFree h).isNone then cmdTaken 19 stat 5 h
  else lrtRun .lrtMap stat w set h

/-- LRT_MAP (R291). -/
def execLrtMap (way : BitVec 4) (set : BitVec 14) (s : State) : Out := .next (act (lrtMapTake way.toNat set.toNat) s)

/-- UNMAP is taken (R291, R306). -/
def lrtUnmapTake (w set : Nat) (_ : Cells Word) (h : Hw) : Hw :=
  let stat := set * 2 ^ 16 + w * 256 + 2
  if pgBusy h 19 then cmdRefused 19 h
  else if lrtBad h w set || (lrtEntry h w set).isNone then cmdTaken 19 stat 5 h
  else lrtRun .lrtUnmap stat w set h

/-- LRT_UNMAP (R291). -/
def execLrtUnmap (way : BitVec 4) (set : BitVec 14) (s : State) : Out :=
  .next (act (lrtUnmapTake way.toNat set.toNat) s)

/-- LRT_CMD_DONE (R291): the transaction is over, BUSY clears and the result is written. -/
def execLrtCmdDone (s : State) : Out :=
  .next (act (fun _ h =>
    match h.units.lrtEnd with
    | some r => cmdEnds 19 r.toNat (h.modUnits (fun it => { it with lrtEnd := none }))
    | none => h) s)

end Sys2Proof.Machine
end

