-- ==== Sys2Proof/Machine/March.lean ====
section
/-! DEFINITION. The march test engine: passes, rows, failures and the commands of the MARCH page (R301 to R306, R311 to
R313). -/
namespace Sys2Proof.Machine

/-- Way and set of a bank row (R34). -/
def rowSet (b row : Nat) : Nat × Nat := (b / 2, 2 * (row / 2) + b % 2)

/-- The Line Remap Table maps the line of a bank row away. -/
def mappedRow (h : Hw) (b row : Nat) : Bool := let (w, s) := rowSet b row; (lrtSpare h w s).isSome

/-- Word of a row that a column belongs to (R276). -/
def colWord (col : Nat) : Nat := 4 * (col / 156) + col % 4

/-- A line moves to a spare line in one step, by the march engine (R287, R304); in destroying mode the spare reads zero. -/
def marchMove (destroy : Bool) (w s : Nat) (entry : Option Nat) (h : Hw) : Hw :=
  match entry.orElse (fun _ => lrtFree h), spareFree h with
  | some k, some n =>
    let h := if destroy then h.modArr (fun it => { it with words := cClear it.words (32 * 262144 + 32 * n) 32 })
      else copyRows w s n h
    ev 0x8F 1 (remapReport w s 0 (2 ^ n) (lrtSet k w s n h))
  | _, _ => lrtFull w s h

/-- The errors of a line's other row count as it is read for a move (R287 step 2). -/
def countRow (b row : Nat) (h : Hw) : Hw :=
  countErrs ((List.range 16).map (fun w => (w, eccDec (wordAt h b row w)))) h

/-- A failing row (R304). (DEDUCED, log entry 48) -/
def marchFail (c : Cells Word) (destroy : Bool) (b row col : Nat) (h : Hw) : Hw :=
  let h := err 18 1 (put 18 0x4C (min 0xFFFF (rf h 18 0x4C 15 0 + 1)) h)
  let h := if b < 32 then roPut (rg 18 0x48) (setBit (roGet h (rg 18 0x48)) b true) h else h
  let h := if rf h 18 0x50 31 31 = 1 then h else put 18 0x50 (2 ^ 31 + b * 2 ^ 25 + row * 2 ^ 11 + col) h
  if b < 32 then
    let (w, s) := rowSet b row
    if mappedRow h b row then h else
    let (form, src) := match placeLines h w s with
      | k :: _ => (false, lineSrc c h k)
      | [] => (true, placeSrc w s)
    let h := report 2 form src 0 (BitVec.ofNat 32 (2 ^ (colWord col + 16 * (row % 2)))) ownRid h
    let h := wayLasting c w h
    let h := if destroy ∨ (spareFree h).isNone ∨ (lrtFree h).isNone then h else
      countRow b (if row % 2 = 0 then row + 1 else row - 1) h
    marchMove destroy w s none h
  else
    let n := row / 2
    match rowPlace h 32 row with
    | some (w, s) => marchMove destroy w s (lrtEntry h w s) (markSpare w s n (wayLasting c w h))
    | none => err 19 2 (roPut (rg 19 0x44) (setBit (roGet h (rg 19 0x44)) n true) h)

/-- MARCH.PROGRESS. -/
def marchShow (b row : Nat) (h : Hw) : Hw := put 18 0x54 (b * 2 ^ 16 + row) h

/-- Store the pass. -/
def setMarch (m : March) (h : Hw) : Hw := h.modProt (fun it => { it with march := some m })

/-- The first bank of the mask from `b` on. -/
def nextBank (banks : BitVec 32) (b : Nat) : Option Nat := (List.range 32).find? (fun n => decide (b ≤ n) && bit banks n)

/-- A preserving pass asks for the next operation on its row (R303). -/
def marchAsk (m : March) (h : Hw) : Hw :=
  let (w, s) := rowSet m.bank m.row
  let op : BankOp := {
    own := .march, who := { iseq := h.core.nextSeq, label := 0, group := 0, tc := 3, low := false, charge := false }
    master := some .march, line := ((placeLines h w s).head?).getD (.loc w s), way := w, set := s, bank := m.bank
    rows := [(m.row % 2, m.row)], done := [], write := decide (m.op % 2 = 1), data := [], li := 0, raw := true, lin := false }
  enqOp op (marchShow m.bank m.row (setMarch { m with pend := true } h))

/-- A preserving pass begins a row, or has no row left. A row that is mapped away is neither saved nor restored. -/
def marchRow (m : March) (h : Hw) : Hw :=
  let rest := if m.row < 16384 then some (m.bank, m.row) else (nextBank m.banks (m.bank + 1)).map (fun b => (b, 0))
  match rest with
  | some (b, r) =>
    if m.stop then setMarch { m with op := 10, pend := false } h
    else marchAsk { m with bank := b, row := r, op := b2n (mappedRow h b r), saved := false, failed := false, failCol := 0 } h
  | none => setMarch { m with op := 10, pend := false } h

/-- An operation of a preserving pass is done; `col` is the first column in which a compared read differs (R303, R304). -/
def marchKeepOp (c : Cells Word) (m : March) (col : Option Nat) (h : Hw) : Hw :=
  let k := bank h m.bank
  match k.fly with
  | [] => h
  | op :: rest =>
    if op.own ≠ .march then h else
    let h := setBank m.bank { k with fly := rest } h
    let cmp := decide (2 ≤ m.op ∧ m.op ≤ 8 ∧ m.op % 2 = 0)
    let m := match col with
      | some x => if cmp && !m.failed then { m with failed := true, failCol := x % 624 } else m
      | none => m
    let mapped := mappedRow h m.bank m.row
    if m.op = 9 ∨ (m.op = 8 ∧ mapped ∧ ¬ m.saved) then
      let h := if m.failed then marchFail c false m.bank m.row m.failCol h else h
      marchRow { m with row := m.row + 1 } h
    else marchAsk { m with op := m.op + 1, saved := m.saved || decide (m.op = 0) } h

/-- The bank is under the destroying pass, the spare array as bank 32 in its 64 rows. -/
def marchHas (m : March) (b row : Nat) : Bool := if b < 32 then bit m.banks b else decide (b = 32) && m.spare && decide (row < 64)

/-- Row `row` of a bank under a destroying pass has differed in column `col`; a row counts once in a pass (R302, R304). -/
def marchHit (c : Cells Word) (row : Nat) (up : Nat × Nat) (h : Hw) : Hw :=
  match h.prot.march with
  | none => h
  | some m =>
    let key := up.1 * 16384 + row
    if ¬ marchHas m up.1 row ∨ key ∈ m.rows then h
    else marchFail c true up.1 row (up.2 % 624) (setMarch { m with rows := m.rows ++ [key] } h)

/-- One element of a destroying pass on one row of every bank; `ups` are the banks whose row differs, each with the first column, the
lowest-numbered bank first (R302, R304, R419). None in a Gavotte sequence (R335). -/
def marchDropOp (c : Cells Word) (m : March) (ups : List (Nat × Nat)) (h : Hw) : Hw :=
  if 12 ≤ m.op ∨ m.stop ∨ gavBusy h then h else
  let el := m.op % 6
  let row := if el = 3 ∨ el = 4 then 16383 - m.row else m.row
  let on : March := if m.row + 1 < 16384 then { m with row := m.row + 1 } else { m with row := 0, op := m.op + 1 }
  let h := marchShow m.bank row (setMarch on h)
  if el = 0 then h else ups.foldl (fun h up => marchHit c row up h) h

/-- MARCH_ROW_OP (R303). -/
def execMarchRowOp (upsets : List (Nat × Nat)) (s : State) : Out :=
  .next (act (fun c h =>
    match h.prot.march with
    | some m =>
      if m.wait then h
      else if m.destroy then marchDropOp c m upsets h
      else marchKeepOp c m ((upsets.find? (fun u => decide (u.1 = m.bank))).map (·.2)) h
    | none => h) s)

/-- Every row of the banks and of the spare array under a destroying pass reads zero (R290, R302). -/
def marchZero (m : March) (h : Hw) : Hw :=
  let h := (bitsOf m.banks.toNat 32).foldl (fun h b => zeroBank b h) h
  if m.spare then (h.modArr (fun it => { it with words := cClear it.words (32 * 262144) 1024 })) else h

/-- A pass before its first row. -/
def marchNew (destroy boot wait : Bool) (banks : BitVec 32) (spare : Bool) : March := {
  destroy := destroy, banks := banks, spare := spare, boot := boot, bank := (nextBank banks 0).getD 32, row := 0, op := 0
  saved := false, failed := false, failCol := 0, rows := [], stop := false, endAt := 0, pend := false, wait := wait }

/-- A march pass starts (R301, R311, R419). -/
def marchStart (destroy boot : Bool) (banks : BitVec 32) (spare : Bool) (h : Hw) : Hw :=
  let m := { marchNew destroy boot false banks spare with endAt := if destroy then clkM h + 344064 else 0 }
  let h := put 18 0x50 0 (put 18 0x4C 0 (put 18 0x48 0 h))
  if destroy then marchShow m.bank 0 (marchZero m (setMarch m h)) else marchRow m h

/-- The STATE conditions of RUN (R306), but for BUSY. -/
def marchBad (c : Cells Word) (h : Hw) : Bool :=
  let destroy := decide (cf c 18 0x40 0 0 = 1)
  let spare := decide (cf c 18 0x40 1 1 = 1)
  booting h ||
    (bitsOf (cfgGet c (rg 18 0x44)).toNat 32).any (fun b =>
      let w := b / 2
      decide (wayMode h w = 3) || setRuns h w ||
        (destroy && (decide (wayMode h w = 0) || wayRecord h w || wayQueue h w))) ||
    (spare && (!destroy || !h.prot.lrt.isEmpty))

/-- A pass taken during a Gavotte sequence starts after its release (R344); one that STOP has ended meanwhile ends without a row. -/
def marchResume (h : Hw) : Hw :=
  match h.prot.march with
  | some m =>
    if !m.wait then h
    else if m.stop then cmdEnds 18 0 (h.modProt (fun it => { it with march := none }))
    else marchStart m.destroy m.boot m.banks m.spare h
  | none => h

/-- RUN is taken (R301, R306, R311, R344). -/
def marchRun (c : Cells Word) (h : Hw) : Hw :=
  let banks := cfgGet c (rg 18 0x44)
  let spare := decide (cf c 18 0x40 1 1 = 1)
  if banks = 0 ∧ ¬ spare then cmdTaken 18 1 3 h
  else if pgBusy h 18 then cmdRefused 18 h
  else if marchBad c h then cmdTaken 18 1 5 h
  else
    let destroy := decide (cf c 18 0x40 0 0 = 1)
    let h := cmdRuns 18 1 h
    if gavBusy h then setMarch (marchNew destroy false true banks spare) h else marchStart destroy false banks spare h

/-- MARCH_RUN (R301). -/
def execMarchRun (s : State) : Out := .next (act marchRun s)

/-- STOP is taken (R305, R306): a destroying pass goes on to its zero fill. (DEDUCED, log entry 67) -/
def marchStop (h : Hw) : Hw :=
  match h.prot.march with
  | some m =>
    if !(pgBusy h 18) then cmdTaken 18 2 5 h
    else cmdTaken 18 2 0 (setMarch { m with stop := true, endAt := if m.stop then m.endAt else min m.endAt (clkM h + 16384) } h)
  | none => cmdTaken 18 2 5 h

/-- MARCH_STOP (R305). -/
def execMarchStop (s : State) : Out := .next (act (fun _ h => marchStop h) s)

/-- A pass ends: what a destroying pass covered reads zero, and BUSY clears (R302, R305). The start-up march ends with
STARTUP_MARCH_DONE. -/
def marchEnd (h : Hw) : Hw :=
  match h.prot.march with
  | some m =>
    let fin := if m.destroy then decide (m.endAt ≤ clkM h) else decide (m.op = 10)
    if !fin || m.boot || m.wait || (m.destroy && gavBusy h) then h else
    let h := h.modProt (fun it => { it with march := none })
    cmdEnds 18 0 (if m.destroy then marchZero m h else h)
  | none => h

/-- MARCH_PASS_END (R302). -/
def execMarchPassEnd (s : State) : Out := .next (act (fun _ h => marchEnd h) s)

end Sys2Proof.Machine
end

