-- ==== Sys2Proof/Machine/Pages.lean ====
section
/-! DEFINITION. Commands of the QUE, SEL, GLP, REEL and QOS pages and the events of Galop, Reel and the regulation windows
(R153, R154, R162, R209, R210, R220, R224 to R229, R232 to R236, R240 to R244, R259, R268, R270). -/
namespace Sys2Proof.Machine

/-! ### QUE -/

/-- A QUE command is taken (R153, R154, R163). (DEDUCED, log entry 41) -/
def queTake (code q : Nat) (_ : Cells Word) (h : Hw) : Hw :=
  let stat := q * 256 + code
  let w := queWay q
  if wayMode h w ≠ 2 ∨ (code = 1 ∧ !(stage h).ok) then cmdTaken 11 stat 3 h
  else if pgBusy h 11 then cmdRefused 11 h
  else if booting h || (setting h w).isSome then cmdTaken 11 stat 5 h
  else
    let pay := if code = 1 then stage h else []
    addWork (.queCmd code) [.loc w (queSet q)] q (fun r => { r with pay := pay }) (cmdRuns 11 stat h)

/-- QUE_DEFINE (R153). -/
def execQueDefine (q : BitVec 14) (s : State) : Out := .next (act (queTake 1 q.toNat) s)
/-- QUE_ENABLE (R153). -/
def execQueEnable (q : BitVec 14) (s : State) : Out := .next (act (queTake 2 q.toNat) s)
/-- QUE_DISABLE (R153). -/
def execQueDisable (q : BitVec 14) (s : State) : Out := .next (act (queTake 3 q.toNat) s)
/-- QUE_READ (R153). -/
def execQueRead (q : BitVec 14) (s : State) : Out := .next (act (queTake 4 q.toNat) s)

/-- QUE_CMD_DONE (R153): the transaction is over, BUSY clears and the result is written. -/
def execQueCmdDone (s : State) : Out :=
  .next (act (fun _ h =>
    match h.units.queEnd with
    | some r => cmdEnds 11 r.toNat (h.modUnits (fun it => { it with queEnd := none }))
    | none => h) s)

/-- A read of QUE.EVT: the oldest event, which leaves the FIFO; its POSTED bit is cleared by a transaction on the descriptor line,
where that line still is one (R162). (DEDUCED, log entry 63) -/
def evtRead (h : Hw) : Word × Hw :=
  match h.units.events with
  | [] => (0, h)
  | (q, kind) :: rest =>
    let w := queWay q
    let h := h.modUnits (fun it => { it with events := rest })
    let v := BitVec.ofNat 32 (2 ^ 31 + kind * 2 ^ 16 + q)
    if wayMode h w = 2 ∧ (setting h w).isNone then (v, addWork (.evtClear kind) [.loc w (queSet q)] q id h) else (v, h)

/-- QUE_EVT_READ (R162). -/
def execQueEvtRead (s : State) : Out := .next (act (fun _ h => (evtRead h).2) s)

/-! ### SEL -/

/-- The DECERR conditions of DEFINE (R210). -/
def selCfgBad (h : Hw) (t : Rec) : Bool :=
  decide (wayMode h t.way ≠ 1) || decide (6 < t.log2k) || decide (t.vtype = 3) || decide (t.set % recLines t.log2k ≠ 0)

/-- SEL DEFINE is taken (R209 to R211). -/
def selDefine (n : Nat) (c : Cells Word) (h : Hw) : Hw :=
  let stat := n * 256 + 1
  let x := cfgGet c (rg 13 0x40)
  let t := recOfCfg x
  if selCfgBad h t then cmdTaken 13 stat 3 h
  else if pgBusy h 13 then cmdRefused 13 h
  else if booting h || (setting h t.way).isSome || (recAt h n).isSome then cmdTaken 13 stat 5 h
  else addWork (.selCmd 1) (recKeys t) n (fun r => { r with hdr := { r.hdr with arg2 := x } }) (cmdRuns 13 stat h)

/-- SEL_DEFINE (R209). -/
def execSelDefine (r : BitVec 10) (s : State) : Out := .next (act (selDefine r.toNat) s)

/-- SEL UNDEFINE or RESET is taken (R209 to R211). -/
def selTake (code n : Nat) (_ : Cells Word) (h : Hw) : Hw :=
  let stat := n * 256 + code
  if pgBusy h 13 then cmdRefused 13 h
  else match recAt h n with
    | none => cmdTaken 13 stat 5 h
    | some t =>
      if booting h || (setting h t.way).isSome then cmdTaken 13 stat 5 h
      else addWork (.selCmd code) (recKeys t) n id (cmdRuns 13 stat h)

/-- SEL_UNDEFINE (R209). -/
def execSelUndefine (r : BitVec 10) (s : State) : Out := .next (act (selTake 2 r.toNat) s)
/-- SEL_CMD_RESET (R209). -/
def execSelCmdReset (r : BitVec 10) (s : State) : Out := .next (act (selTake 3 r.toNat) s)

/-- SEL_CMD_DONE (R209): the transaction is over, BUSY clears and the result is written. -/
def execSelCmdDone (s : State) : Out :=
  .next (act (fun _ h =>
    match h.units.selEnd with
    | some r => cmdEnds 13 r.toNat (h.modUnits (fun it => { it with selEnd := none }))
    | none => h) s)

/-! ### GLP -/

/-- The descriptor address of START. -/
def glpDesc (c : Cells Word) : Nat := (cfgGet c (rg 14 0x48)).toNat / 64 * 64 + cf c 14 0x4C 19 0 * 2 ^ 32

/-- START is taken (R228). -/
def glpStart (n : Nat) (c : Cells Word) (h : Hw) : Hw :=
  let stat := n * 256 + 1
  let pa := glpDesc c
  if !(descOk c h pa) then cmdTaken 14 stat 3 h
  else if pgBusy h 14 then cmdRefused 14 h
  else
    let k := chanAt h n
    let rest := (k.st == .idle) || (k.st == .done) || (k.st == .error) || (k.st == .stopped)
    if booting h || !rest then cmdTaken 14 stat 5 h
    else setChan n { Chan.idle with st := .loading, desc := pa, result := k.result } (cmdTaken 14 stat 0 h)

/-- GLP_START (R228). -/
def execGlpStart (chan : BitVec 5) (s : State) : Out := .next (act (glpStart chan.toNat) s)

/-- STOP is taken (R227, R228). -/
def glpStop (n : Nat) (_ : Cells Word) (h : Hw) : Hw :=
  let stat := n * 256 + 2
  let k := chanAt h n
  match k.st with
  | .loading => setChan n { k with stop := true } (cmdTaken 14 stat 0 h)
  | .running => setChan n { k with stop := true, st := .draining } (cmdTaken 14 stat 0 h)
  | _ => cmdTaken 14 stat 5 h

/-- GLP_STOP (R227). -/
def execGlpStop (chan : BitVec 5) (s : State) : Out := .next (act (glpStop chan.toNat) s)

/-- CLEAR is taken (R227, R228). -/
def glpClear (n : Nat) (_ : Cells Word) (h : Hw) : Hw :=
  let stat := n * 256 + 3
  let k := chanAt h n
  match k.st with
  | .done | .error | .stopped => setChan n { k with st := .idle } (cmdTaken 14 stat 0 h)
  | _ => cmdTaken 14 stat 5 h

/-- GLP_CLEAR (R227). -/
def execGlpClear (chan : BitVec 5) (s : State) : Out := .next (act (glpClear chan.toNat) s)

/-- INIT_FILL is taken (R228, R229). -/
def glpFill (n : Nat) (c : Cells Word) (h : Hw) : Hw :=
  let stat := n * 256 + 4
  if pgBusy h 14 then cmdRefused 14 h
  else if !(chansRest h) || (h.rst.boot == .ready) then cmdTaken 14 stat 5 h
  else fillStart c false (cmdRuns 14 stat h)

/-- INIT_FILL (R229). -/
def execInitFill (chan : BitVec 5) (s : State) : Out := .next (act (glpFill chan.toNat) s)

/-- The slice enters READY and rel_ready rises (R421, R422). -/
def enterReady (h : Hw) : Hw := h.modRst (fun it => { it with boot := .ready, bootCyc := now h, once := true, relReady := true })

/-- The last write of INIT_FILL has been accepted: BUSY clears, and a start-up that waits for it ends (R229, R421). -/
def fillDone (h : Hw) : Hw :=
  match h.glp.fill with
  | some f =>
    if f.next < f.total then h else
    let h := h.modGlp (fun it => { it with fill := none })
    let h := if f.boot then put 14 0x20 ((roGet h (rg 14 0x20)).toNat % 2 ^ 31) h else cmdEnds 14 0 h
    if h.rst.boot = .extfill then enterReady (h.modRst (fun it => { it with filled := true })) else h
  | none => h

/-- INIT_FILL_DONE (R229). -/
def execInitFillDone (s : State) : Out := .next (act (fun _ h => fillDone h) s)

/-- GLP_DESC_LOADED (R224). -/
def execGlpDescLoaded (chan : Nat) (s : State) : Out :=
  .next (act (fun c h => if gavBusy h ∨ 32 ≤ chan then h else glpLoaded c chan h) s)

/-- GLP_LINE_ISSUE (R220). -/
def execGlpLineIssue (s : State) : Out := .next (act glpIssue s)

/-- GLP_DESC_END (R225). -/
def execGlpDescEnd (chan : Nat) (s : State) : Out := .next (act (fun c h => if 32 ≤ chan then h else glpEnd c chan h) s)

/-- GLP_STATUS_COMMIT (R225). -/
def execGlpStatusCommit (chan : Nat) (s : State) : Out :=
  .next (act (fun c h => if gavBusy h ∨ 32 ≤ chan then h else glpCommit c chan h) s)

/-! ### REEL -/

/-- Offset of REEL.STAGE0. -/
def reelStage : Nat := rg 15 0x80

/-- The eight defined words of a context from the staging area; bits that the layout does not name are zero (R230). -/
def stageCtx (h : Hw) : List Word :=
  let m : List Word := [0xFFFFF000, 0xFFFFF, 0x1FF, 0xFFFFF000, 0xFFFFFF, 0x31F0F, 0xFFFF0FFF, 0xFFFFFFFF]
  (m.zipIdx).map (fun p => roGet h (reelStage + 4 * p.2) &&& p.1)

/-- The DECERR conditions of DEFINE (R244). -/
def ctxBad (h : Hw) (x : Ctx) : Bool :=
  decide (x.tile = 0 ∨ 256 < x.tile) || decide (x.tiles = 0) || decide (x.depth = 0 ∨ 16 < x.depth) ||
    decide (2 ^ 52 < x.src + (x.tiles - 1) * x.stride + x.tile * 4096) || (groupValid h x.group == 0)

/-- DEFINE is taken (R244). -/
def reelDefine (n : Nat) (c : Cells Word) (h : Hw) : Hw :=
  let stat := n * 256 + 1
  let x : Ctx := { Ctx.none_ with st := .defined, words := stageCtx h }
  if ctxBad h x then cmdTaken 15 stat 3 h
  else if (ctxAt h n).st ≠ .free ∨ tcOf c (groupOf c x.label) = 0 then cmdTaken 15 stat 5 h
  else setCtx n x (cmdTaken 15 stat 0 h)

/-- REEL_DEFINE (R244). -/
def execReelDefine (ctx : BitVec 6) (s : State) : Out := .next (act (reelDefine ctx.toNat) s)

/-- START is taken (R232, R233, R244). (DEDUCED, log entry 62) -/
def reelStart (n : Nat) (c : Cells Word) (h : Hw) : Hw :=
  let stat := n * 256 + 2
  let x := ctxAt h n
  let v := groupValid h x.group
  if x.st ≠ .defined ∨ slotsFree h < x.depth ∨ v = 0 ∨ booting h then cmdTaken 15 stat 5 h
  else leaseCheck c n (setCtx n { x with st := .running, active := v, lease := (x.w 0x1C).toNat } (cmdTaken 15 stat 0 h))

/-- REEL_START (R244). -/
def execReelStart (ctx : BitVec 6) (s : State) : Out := .next (act (reelStart ctx.toNat) s)

/-- STOP and RENEW are legal in this state (R244). -/
def ctxLive (h : Hw) (n : Nat) : Bool := ((ctxAt h n).st == .running) || ((ctxAt h n).st == .expired)

/-- STOP is taken (R241, R244). -/
def reelStop (n : Nat) (c : Cells Word) (h : Hw) : Hw :=
  let stat := n * 256 + 3
  if ctxLive h n then ctxStop c n (cmdTaken 15 stat 0 h) else cmdTaken 15 stat 5 h

/-- REEL_STOP (R241). -/
def execReelStop (ctx : BitVec 6) (s : State) : Out := .next (act (reelStop ctx.toNat) s)

/-- RENEW is taken (R240, R244). -/
def reelRenew (n : Nat) (c : Cells Word) (h : Hw) : Hw :=
  let stat := n * 256 + 4
  if ctxLive h n then ctxRenew n (cfgGet c (rg 15 0x6C)).toNat (cmdTaken 15 stat 0 h) else cmdTaken 15 stat 5 h

/-- REEL_RENEW (R240). -/
def execReelRenew (ctx : BitVec 6) (s : State) : Out := .next (act (reelRenew ctx.toNat) s)

/-- Code of a context state (R242). -/
def ctxCode (s : CtxSt) : Nat :=
  match s with
  | .free => 0 | .defined => 1 | .running => 2 | .expired => 3 | .stopping => 4 | .stopped => 5 | .done => 6

/-- The 16 words of a context (R230). -/
def ctxImage (x : Ctx) : List Word :=
  (List.range 8).map (fun k => x.w (4 * k)) ++
    [BitVec.ofNat 32 (ctxCode x.st), BitVec.ofNat 32 x.started, BitVec.ofNat 32 x.delivered, BitVec.ofNat 32 x.lease,
     x.active, x.resends, BitVec.ofNat 32 (b2n x.pois), 0]

/-- READ is taken: the context is copied into the staging area (R230, R244). -/
def reelReadTake (n : Nat) (_ : Cells Word) (h : Hw) : Hw :=
  let stat := n * 256 + 5
  let x := ctxAt h n
  if x.st = .free then cmdTaken 15 stat 5 h
  else ((ctxImage x).zipIdx).foldl (fun h p => roSet (reelStage + 4 * p.2) p.1 h) (cmdTaken 15 stat 0 h)

/-- REEL_READ (R244). -/
def execReelRead (ctx : BitVec 6) (s : State) : Out := .next (act (reelReadTake ctx.toNat) s)

/-- RELEASE is taken (R244). -/
def reelRelease (n : Nat) (_ : Cells Word) (h : Hw) : Hw :=
  let stat := n * 256 + 6
  match (ctxAt h n).st with
  | .defined | .stopped | .done => setCtx n Ctx.none_ (cmdTaken 15 stat 0 h)
  | _ => cmdTaken 15 stat 5 h

/-- REEL_RELEASE (R244). -/
def execReelRelease (ctx : BitVec 6) (s : State) : Out := .next (act (reelRelease ctx.toNat) s)

/-- REEL_GROUP_WRITE (R232): a write of REEL.GRP_DATA. -/
def execReelGroupWrite (data : BitVec 32) (s : State) : Out := .next (act (fun c h => groupWriteReg c data h) s)

/-- CHUNK_START (R234). -/
def execChunkStart (s : State) : Out := .next (act chunkStart s)

/-- CHUNK_READY (R235). -/
def execChunkReady (ctx : Nat) (s : State) : Out := .next (act (fun c h => if 64 ≤ ctx then h else chunkReady c ctx h) s)

/-- STREAM_CHUNK_SEND (R236). -/
def execStreamChunkSend (ctx : Nat) (upsets : List (Nat × BitVec 39)) (s : State) : Out :=
  .next (act (fun c h => if 64 ≤ ctx then h else chunkSend c ctx upsets h) s)

/-! ### QOS -/

/-- CLR_COUNTERS is taken; what the rest of its CLK_C cycle adds is cleared with the rest (R270). -/
def clrCounters (h : Hw) : Hw :=
  let h := put 16 0x60 0 (put 16 0x5C 0 (put 16 0x54 0 h))
  cmdTaken 16 1 0 (h.modQos (fun it => { it with tcBytes := [], blkBytes := [], clr := some (clkC h) }))

/-- CLR_COUNTERS (R270). -/
def execClrCounters (s : State) : Out := .next (act (fun _ h => clrCounters h) s)

/-- WINDOW_BOUNDARY (R259). -/
def execWindowBoundary (s : State) : Out := .next (act windowStart s)

/-- A write of QOS.TC0_CFG (R268): taken only where the units of all requesters fit the reserve. -/
def tc0Write (d : Word) (s : State) : State :=
  if fld d 3 0 ≤ 8 ∧ fld d 24 16 * fld d 3 0 ≤ 256 then { s with cfg := cfgPut s.cfg (rg 16 0x40) d }
  else { s with hw := err 16 2 s.hw }

/-- TC0_CFG_WRITE (R268). -/
def execTc0CfgWrite (data : BitVec 32) (s : State) : Out := .next (if running s.hw then tc0Write data s else s)

end Sys2Proof.Machine
end

