-- ==== Sys2Proof/Machine/Gavotte.lean ====
section
/-! DEFINITION. Gavotte: the steps of a recovery sequence, the treatment of lost items and lost entries, failed banks, and the
GAV commands (R333 to R345, R351, R352). -/
namespace Sys2Proof.Machine

/-- Change Gavotte's own state. -/
def setGav (f : Gav → Gav) (h : Hw) : Hw := h.modDiag (fun it => { it with gav := f it.gav })

/-- CLK_C cycles since the present step began. -/
def gavSpent (h : Hw) : Nat := clkC h - h.diag.gav.stepCyc / 4

/-! ### Commands -/

/-- RECOVER is taken (R351). -/
def recoverTake (c : Cells Word) (h : Hw) : Hw :=
  if pgBusy h 22 then cmdRefused 22 h
  else if gavBusy h then cmdTaken 22 1 5 h
  else gavCause c 5 (cmdRuns 22 1 h)

/-- RECOVER (R351). -/
def execRecover (s : State) : Out := .next (act recoverTake s)

/-- A write of GAV.PG_ERR_INJ (R352): errors for the entry admitted next. -/
def gavInj (d : Word) (h : Hw) : Hw :=
  if fld d 1 0 = 0 then h else h.modProt (fun it => { it with injTt := fld d 1 0 })

/-- GAV_ERR_INJ (R352). -/
def execGavErrInj (data : BitVec 32) (s : State) : Out := .next (act (fun _ h => gavInj data h) s)

/-! ### What is awaited, and what is lost (R336) -/

/-- A snoop of entry `i` still waits for egress. -/
def snpUnsent (h : Hw) (i : Nat) (x : BitVec 12) : Bool :=
  h.ports.eg.any (fun p => p.2.any (fun m =>
    decide (0x20 ≤ m.hdr.type.toNat ∧ m.hdr.type.toNat ≤ 0x24) && decide (m.hdr.tti.toNat = i) &&
      (if m.hdr.dkind = 3 then decide (m.hdr.dst.toNat = x.toNat / 64) && bit m.hdr.bmask (x.toNat % 64)
       else decide (m.hdr.dst.toNat = x.toNat))))

/-- An awaited message: entry, kind (0 snoop response, 1 WriteBack, 2 CompAck), the CAI, and whether data may come with it. -/
structure Awaited where
  tt : Nat
  kind : Nat
  cai : BitVec 12
  data : Bool

/-- What entry `i` awaits. -/
def awaitsOf (h : Hw) (i : Nat) (e : Ent) : List Awaited :=
  e.snp.filterMap (fun s =>
    match s.st with
    | .out => if snpUnsent h i s.cai then none
      else some { tt := i, kind := 0, cai := s.cai, data := (s.kind == .shared) || (s.kind == .recall) }
    | .wb => some { tt := i, kind := 1, cai := s.cai, data := true }
    | _ => none) ++
  (if awaitsAck h i (caiOf e.req.hdr) then [{ tt := i, kind := 2, cai := caiOf e.req.hdr, data := false }] else [])

/-- Every message that entries await. -/
def awaitedAll (h : Hw) : List Awaited := h.core.tt.flatMap (fun p => awaitsOf h p.1 p.2)

/-- The message is lost already. -/
def isLost (h : Hw) (a : Awaited) : Bool := h.diag.gav.lost.contains (a.tt, a.kind, a.cai)

/-- An unnamed discard in this class takes the message in: it comes through MP in that class's VCs. -/
def inClass (c : Cells Word) (h : Hw) (k : Nat) (a : Awaited) : Bool :=
  !(viaVp c h a.cai) &&
    (match a.kind with
    | 0 => decide (k = 3) || (decide (k = 4) && a.data)
    | 1 => decide (k = 2)
    | _ => decide (k = 3))

/-- The CAI is one of those reached through VP while it is up (R76). What is awaited from it when the link is lost is awaited through
VP. (DEDUCED, log entry 73) -/
def vpRange (c : Cells Word) (x : BitVec 12) : Bool :=
  let b := cf c 8 0x54 11 0
  decide (b ≤ x.toNat) && decide (x.toNat < b + cf c 8 0x54 28 16)

/-- At the end of the wait, what an unnamed discard or the loss of VP takes with it is lost. -/
def loseAwaited (c : Cells Word) (h : Hw) : Hw :=
  let g := h.diag.gav
  let gone := (awaitedAll h).filter (fun a => !(isLost h a) &&
    (g.unnamed.any (fun k => inClass c h k a) || (bit g.cause 1 && vpRange c a.cai)))
  setGav (fun g => { g with lost := g.lost ++ gone.map (fun a => (a.tt, a.kind, a.cai)) }) h

/-! ### Hold (R335, R336) -/

/-- A finishing write of entry `i` waits on a bank that has timed out. (DEDUCED, log entry 78) -/
def stuckOn (h : Hw) (i : Nat) : Bool :=
  h.diag.gav.banks.any (fun b => !(bankUp h b) && (bank h b).pend.any (fun op => op.own == .tt i))

/-- Something that the hold step finishes is still under way. -/
def finishing (h : Hw) : Bool :=
  h.arr.banks.any (fun p => p.2.cur.isSome || !p.2.fly.isEmpty) ||
  h.core.tt.any (fun p => p.2.wrote && !p.2.committed && !(stuckOn h p.1) && !(ttLost p.2)) ||
  h.near.fly.any (fun p => !p.2.isEmpty)

/-- The sequence must wait for messages. -/
def gavWaits (h : Hw) : Bool :=
  let g := h.diag.gav
  (bit g.cause 0 || bit g.cause 1) && !g.waited && (awaitedAll h).any (fun a => !(isLost h a))

/-- The hold step ends (R336). -/
def holdEnd (c : Cells Word) (h : Hw) : Hw :=
  let g := h.diag.gav
  if g.step ≠ .hold ∨ g.failed ∨ finishing h ∨ gavWaits h then h else
  setGav (fun g => { g with step := .sort, stepCyc := now h }) (loseAwaited c h)

/-- GAV_HOLD_END (R336). -/
def execGavHoldEnd (s : State) : Out := .next (act holdEnd s)

/-- GAV.CTRL.WAIT CLK_C cycles have passed since the hold began (R336). -/
def waitExpire (c : Cells Word) (h : Hw) : Hw :=
  let g := h.diag.gav
  if g.step ≠ .hold ∨ g.failed ∨ gavSpent h < cf c 22 0x40 15 0 then h
  else setGav (fun g => { g with waited := true }) h

/-- GAV_WAIT_EXPIRE (R336). -/
def execGavWaitExpire (s : State) : Out := .next (act waitExpire s)

/-! ### Sort and repair (R337 to R340) -/

/-- One flit of each VC moves from its crossing FIFO into the ingress buffer. The data flits of a message whose header or an
earlier flit was lost are dropped. -/
def xingMove (h : Hw) : Hw :=
  h.ports.xin.foldl (fun h p =>
    match p.2 with
    | [] => h
    | f :: r =>
      let v := p.1
      let po : Ports := { h.ports with xin := cPut [] h.ports.xin v r }
      if po.cut.contains v ∧ ¬ f.hdr then h.setPorts po
      else (h.setPorts { po with ing := cPut [] po.ing v (cGet [] po.ing v ++ [f]), cut := po.cut.filter (· ≠ v) })) h

/-- A message that has begun to leave through a VC of MP is sent again as a whole; a multicast gives back its tag (R336).
(DEDUCED, log entry 74) -/
def unsend (vc : Nat) (h : Hw) : Hw :=
  let q := cGet [] h.ports.eg vc
  let tags := match q.head? with
    | some m => if m.sent ≠ 0 ∧ m.hdr.dkind = 3 then cDel h.ports.mtags m.hdr.mtag.toNat else h.ports.mtags
    | none => h.ports.mtags
  (h.modPorts (fun it => { it with eg := cPut [] it.eg vc (q.map (fun m => { m with sent := 0 })), mtags := tags }))

/-- A VC reset begins: the crossing FIFO holds nothing any more, mp_vcrst_out is pulsed, and a message that has partly left, which the
router now discards, is sent again (R333, R360). -/
def vcReset (k : Nat) (h : Hw) : Hw :=
  let v := k % 16
  let h := unsend v (if 16 ≤ k then xingMove (xingMove (xingMove (xingMove h))) else h)
  (h.modPorts (fun it => { it with vcrst := cIns it.vcrst v none, vcrstPins := setBit it.vcrstPins v true }))

/-- The repair step asks a timed-out bank once more (R339). -/
def bankAgain (b : Nat) (h : Hw) : Hw :=
  let p := pwr h b
  if !p.req ∨ p.dead then h
  else setGav (fun g => { g with tried := g.tried ++ [b] }) (setPwr b { p with since := now h } h)

/-- The sort step ends: it has read every entry, the counts are written and the repair step begins (R333, R340). -/
def sortDone (c : Cells Word) (h : Hw) : Hw :=
  if h.diag.gav.step ≠ .sort ∨ gavSpent h < 256 then h else
  let h := h.core.tt.foldl (fun h p => ttCheck c p.1 p.2 h) h
  let g := h.diag.gav
  let com := cCount h.core.tt (fun _ e => e.committed)
  let h := put 22 0x54 ((h.core.tt.length - com) * 2 ^ 16 + com) h
  let h := setGav (fun g => { g with step := .repair, stepCyc := now h, tried := [] }) h
  g.banks.foldl (fun h b => bankAgain b h) (g.xing.foldl (fun h k => vcReset k h) h)

/-- GAV_SORT_DONE (R340). -/
def execGavSortDone (s : State) : Out := .next (act sortDone s)

/-- A lost snoop response: the snoop goes out again after release, as SnpRecall unless it was SnpInv (R337); so does one that was
answered with data forwarded to the home, where that data is lost. -/
def resendSnp (i : Nat) (x : BitVec 12) (h : Hw) : Hw :=
  updEnt i (fun e => { e with snp := e.snp.map (fun s =>
    if s.cai = x ∧ (s.st = .out ∨ (s.st = .done true ∧ (snpDone e = false))) then
      (if s.kind = .inv then { s with st := .again } else { s with st := .again, kind := .recall, lost := true })
    else s) }) h

/-- A lost WriteBack: the line is poisoned, and the agent gets its WbComp (R337). (DEDUCED, log entry 75) -/
def lostWb (c : Cells Word) (i : Nat) (x : BitVec 12) (h : Hw) : Hw :=
  match ent h i with
  | none => h
  | some e =>
    match e.snp.find? (fun s => (s.cai == x) && (s.st == .wb)) with
    | none => h
    | some s =>
      let h := updSnp i s (fun s => { s with st := .done false, gone := true }) (recoverPoison c i s.li 0 h)
      let h := match lineOf e s.li with
        | .pa ln => h.modHome (fun it => { it with gaveUp := it.gaveUp ++ [(x, ln)] })
        | .loc _ _ => h
      send (if viaVp c h x then .vp else .mp) (vcOf 3 e.req.tc) { hdr := fromSlice h {
        type := 0x38, resp := 2, dkind := 1, dst := x.setWidth 16, tti := BitVec.ofNat 14 i, label := e.req.label
        addr := BitVec.ofNat 52 (lineByte c h (lineOf e s.li)) }, iseq := e.req.iseq } h

/-- The treatment of a lost item. (DESIGN CHOICE, log entry 73) -/
def treatLost (c : Cells Word) (a : Nat × Nat × BitVec 12) (h : Hw) : Hw :=
  if a.2.1 = 0 then resendSnp a.1 a.2.2 h
  else if a.2.1 = 1 then lostWb c a.1 a.2.2 h
  else if awaitsAck h a.1 a.2.2 then acked a.1 h else h

/-- Work of the slice itself that a lost entry carried: its command does not wait for it. -/
def lostWork (k : Kind) (h : Hw) : Hw :=
  let u := h.units
  match k with
  | .maint _ | .preload | .flush => (h.setUnits { u with mntFly := u.mntFly - 1 })
  | .queCmd _ => (h.setUnits { u with queEnd := some 5 })
  | .selCmd _ => (h.setUnits { u with selEnd := some 5 })
  | .chkWrite | .chkRead => ((h.setUnits { u with chkEnd := true }).modProt (fun it => { it with chk := none }))
  | .lrtMap | .lrtUnmap => (h.setUnits { u with lrtEnd := some 5 })
  | _ => h

/-- What an entry had asked for and what has not been done is taken back. -/
def dropAsked (i : Nat) (h : Hw) : Hw :=
  let h := h.modArr (fun it => { it with banks := it.banks.map (fun p =>
    (p.1, { p.2 with pend := p.2.pend.filter (fun op => op.own != .tt i) })) })
  let h := h.modNear (fun it => { it with ready := it.ready.filterMap (fun p =>
    let l := p.2.filter (fun o => decide (o.tt ≠ i))
    if l.isEmpty then none else some (p.1, l)) })
  h.modUnits (fun it => { it with merge := it.merge.filter (fun p => decide (p.2.1 ≠ i)) })

/-- Both copies of an entry's identity or progress are lost: its lines are recalled from every agent and poisoned, and it ends without a
response (R338). (DEDUCED, log entry 76) -/
def loseEntry (c : Cells Word) (i : Nat) (e : Ent) (h : Hw) : Hw :=
  let h := err 22 2 (report 0xE false i 2 0 ownRid (dropAsked i h) e.req.iseq)
  let h := h.modXp (fun it => { it with wait := it.wait.filter (fun w => decide (w.1 ≠ i)) })
  let h := lostWork e.req.kind (sampleEnd e.req.iseq true (paid e.req.iseq h))
  let lis := (List.range e.req.lines.length)
  let acts : List Act := .snp :: lis.map Act.poison ++ [.commit, .free]
  let q : Req := { e.req with kind := .backInv, port := none, eng := none, pay := [] }
  let h := updEnt i (fun e => { e with
    req := q, active := true, busy := false, todo := acts, err1 := 0, err2 := 0, perr1 := 0, perr2 := 0, did := [], wrote := false
    committed := false }) h
  lis.foldl (fun h li =>
    let h := recLoss (lineSrc c h (lineOf e li)) 1 0xFFFFFFFF e.req.iseq h
    match lineOf e li with
    | .pa ln =>
      let l := everyCai c h
      let mk := fun (x : BitVec 12) => ({ cai := x, kind := .recall, st := .again, cyc := now h, li := li } : Snp)
      sfDrop ln (updEnt i (fun e => { e with snp := e.snp ++ l.map mk }) h)
    | .loc _ _ => h) h

/-- The repairs of this round are done. -/
def repairsDone (h : Hw) : Bool :=
  let g := h.diag.gav
  decide ((if g.xing.isEmpty then 1 else 8) ≤ gavSpent h) && h.ports.vcrst.isEmpty &&
    g.tried.all (fun b => (pwr h b).dead || !(pwr h b).req) &&
    (!(bit g.cause 1) || (h.vp.state != .training))

/-! ### Replay (R341) -/

/-- The step at which an entry stands lets it begin anew with its lookup: no write of its own, no fill and no XP transfer is under way,
and no part of what it does is done that a second lookup would do again in another way (R341). (DEDUCED, log entry 80) -/
def restarts (e : Ent) : Bool :=
  let early : Bool := match e.todo.head? with
    | some .lookup | some .sf | some .resolve | some .clear | some .alb | some .cell | some .merge | some .step | some .evt
    | some (.go _) => true
    | some .snp => e.todo.contains .resolve
    | _ => false
  let noWr := e.todo.all (fun a => match a with | .wr .. => false | _ => true)
  match e.req.kind, e.todo.head? with
  | .victimWb, _ | .wayDis, _ => false
  | .maint _, some (.go _) => false
  | .maint _, some (.rd ..) | .maint _, some (.wr ..) => !(e.todo.contains .resolve)
  | .maint _, some (.xwr ..) => !e.busy
  | .repair, some (.xrd ..) => true
  | .repair, some (.rd ..) | .repair, some (.wr ..) | .chkWrite, some (.wr ..) | .chkRead, some (.rd ..) => true
  | .lrtMap, some (.rd ..) | .lrtMap, some (.wr ..) | .lrtUnmap, some (.rd ..) | .lrtUnmap, some (.wr ..) => true
  | .enq, some (.rd ..) | .enq, some (.wr ..) | .enqB, some (.rd ..) | .enqB, some (.wr ..) => true
  | .deq, some (.rd ..) | .deq, some (.wr ..) | .deqB, some (.rd ..) | .deqB, some (.wr ..) => true
  | .queCmd _, some (.rd ..) | .queCmd _, some (.wr ..) | .evtClear _, some (.rd ..) | .evtClear _, some (.wr ..) => true
  | .selOffer, some (.rd ..) | .selOffer, some (.wr ..) | .selPairs, some (.rd ..) | .selPairs, some (.wr ..) => true
  | .selReadReset, some (.rd ..) | .selReadReset, some (.wr ..) | .selReset, some (.rd ..) | .selReset, some (.wr ..) => true
  | .selCmd _, some (.rd ..) | .selCmd _, some (.wr ..) => true
  | .preload, some (.rd ..) | .evict, some (.rd ..) | .writeBack, some (.rd ..) | .backInv, some (.rd ..) => false
  | _, some (.rd ..) => noWr
  | _, some (.home ..) => true
  | _, _ => early

/-- The lines whose home data an entry still holds when it repeats every array read. -/
def unread (e : Ent) : Nat :=
  (e.did ++ e.todo.take 1).foldl (fun m a =>
    match a with
    | .rd _ _ _ li => if bitN m li then m - 2 ^ li else m
    | _ => m) e.held

/-- Banks that hold nothing any more are not listed. -/
def tidyBanks (h : Hw) : Hw := h.modArr (fun it => { it with banks := it.banks.filter (fun p => decide (p.2 ≠ Bank.idle)) })

/-- An entry begins anew with its lookup. What it had computed from array reads goes; snoops answered, and data of agents and of XP,
stay (R341). -/
def restart (i : Nat) (e : Ent) (h : Hw) : Hw :=
  let inAlb := e.todo.head? == some .cell
  let aux2 := match e.req.kind with | .evict | .writeBack => e.aux2 | .repair => e.aux2 % 2 | _ => 0
  updEnt i (fun e => { e with
    todo := [.lookup], busy := false, held := unread e, did := [], errs := [], corr := e.corr && inAlb, bad := e.bad && inAlb, code := 0
    aux := 0, aux2 := aux2 }) (dropAsked i h)

/-- The events of a lookup that changes nothing (R458). -/
def lookEvents (r : Req) (h : Hw) : Hw :=
  r.lines.foldl (fun h k =>
    match k with
    | .pa _ => if (whereIs h k).isSome then ev 0x43 1 h else ev 0x44 1 h
    | .loc w _ => if wayMode h w = 1 then ev 0x48 1 h else h) h

/-- An entry keeps its place: a fill, a write to XP, an XP read slot and a completion that waits for the release are not taken back.
Its lookup runs, and it repeats the array reads whose words it still has to pass on (R341). (DEDUCED, log entry 53) -/
def keepPlace (i : Nat) (e : Ent) (h : Hw) : Hw :=
  let seen := match e.req.kind with | .victimWb | .wayDis => false | _ => !(isProt e.req.kind)
  let h := if seen && e.todo.head? != some .lookup then lookEvents e.req (stamp 5 e.req.iseq h) else h
  let own := (e.req.kind == .victimWb) || (e.req.kind == .preload)
  let again := !own && (match e.todo.head? with
    | some (.xwr ..) => !e.busy
    | some .respond => decide (e.code = 0)
    | _ => false)
  let asks := match e.todo.head? with | some (.rd ..) | some (.wr ..) => true | _ => false
  updEnt i (fun e => { e with
    busy := e.busy && !asks, todo := if again then e.did ++ e.todo else e.todo, did := if again then [] else e.did
    corr := e.corr && !(again && !e.did.isEmpty), bad := e.bad && !(again && !e.did.isEmpty) }) (dropAsked i h)

/-- Entry `i` is re-armed; one that is not active yet only keeps its place in the orders. (DEDUCED, log entry 80) -/
def rearm (i : Nat) (e : Ent) (h : Hw) : Hw :=
  let h := sampleReplay e.req.iseq (ev 0x9D 1 h)
  if !e.active then h else if restarts e then restart i e h else keepPlace i e h

/-- The replay step begins: uncommitted entries look up again. -/
def replayStart (h : Hw) : Hw :=
  let l := h.core.tt.filter (fun p => !p.2.committed && !p.2.wrote)
  tidyBanks (l.foldl (fun h p => rearm p.1 p.2 h) h)

/-- The repair step ends: lost items and entries are treated, and the replay step begins (R337, R338, R341). -/
def repairDone (c : Cells Word) (h : Hw) : Hw :=
  let g := h.diag.gav
  if g.step ≠ .repair ∨ !(repairsDone h) then h else
  let h := g.lost.foldl (fun h a => treatLost c a h) h
  let h := (h.core.tt.filter (fun p => ttLost p.2)).foldl (fun h p => loseEntry c p.1 p.2 h) h
  replayStart (setGav (fun g => { g with
    step := .replay, stepCyc := now h, xing := [], banks := [], tried := [], lost := [], unnamed := [] }) h)

/-- GAV_REPAIR_DONE (R337). -/
def execGavRepairDone (s : State) : Out := .next (act repairDone s)

/-- The lines that the finishing writes of a failed bank leave poisoned (R339). (DEDUCED, log entry 81) -/
def bankLoss (c : Cells Word) (b : Nat) (h : Hw) : Hw :=
  (bank h b).pend.foldl (fun h op =>
    match op.own with
    | .tt i =>
      (match ent h i with
      | some e => if op.write && e.wrote then
            recLoss (lineSrc c h op.line) 2 (BitVec.ofNat 32 (maskOf (op.data.map (·.1)))) e.req.iseq h
          else h
      | none => h)
    | _ => h) h

/-- A bank has failed (R339). -/
def bankFails (c : Cells Word) (b : Nat) (h : Hw) : Hw :=
  let h := setPwr b { pwr h b with dead := true, req := false, st := .chg, next := none, onAt := none } h
  let h := err 22 3 (roPut (rg 22 0x60) (setBit (roGet h (rg 22 0x60)) b true) h)
  let h := bankLoss c b (report 0xB false b 1 0 ownRid h)
  let w := b / 2
  if wayMode h w = 0 ∧ ¬ h.home.locked.contains w ∧ ¬ disQueued h w ∧ ¬ h.prot.dis.any (fun d => decide (d.1 = w)) then
    disAdd w h
  else h

/-- BANK_REPAIR_TMO (R339): the second wait for a bank has passed. -/
def execBankRepairTmo (bank : Nat) (s : State) : Out :=
  .next (act (fun c h =>
    let g := h.diag.gav
    if g.step = .repair ∧ g.tried.contains bank ∧ pwrLate c h bank then bankFails c bank h else h) s)

/-- The replay step ends (R341). -/
def replayDone (h : Hw) : Hw :=
  if h.diag.gav.step ≠ .replay ∨ gavSpent h < 256 then h
  else setGav (fun g => { g with step := .release, stepCyc := now h }) h

/-- GAV_REPLAY_DONE (R341). -/
def execGavReplayDone (s : State) : Out := .next (act (fun _ h => replayDone h) s)

/-! ### Release (R342) -/

/-- A message in its place by intake number; one that has begun to leave stays in front. -/
def egInsert (m : OutMsg) : List OutMsg → List OutMsg
  | [] => [m]
  | x :: l => if x.sent = 0 ∧ m.iseq < x.iseq then m :: x :: l else x :: egInsert m l

/-- The messages owed leave in intake order. -/
def egSort (h : Hw) : Hw :=
  h.modPorts (fun it => { it with eg := it.eg.map (fun p => (p.1, p.2.foldl (fun l m => egInsert m l) [])) })

/-- Messages of VP frames that count as not sent wait for egress again, as a whole, but for snoops to an agent fenced meanwhile (R95,
R336, R402). -/
def vpResend (h : Hw) : Hw :=
  let h' := h.vp.unsent.foldr (fun p h => (h.modPorts (fun it => { it with
    eg := cPut [] it.eg (16 + p.1) ({ p.2 with sent := 0, note := .none } :: cGet [] it.eg (16 + p.1)) }))) h
  h.home.fenced.foldl (fun h x => dropSnoops x h) (h'.modVp (fun it => { it with unsent := [] }))

/-- Snoops that are sent again leave now, but for those to an agent fenced meanwhile (R95, R337). -/
def sendAgain (c : Cells Word) (h : Hw) : Hw :=
  h.core.tt.foldl (fun h p =>
    (p.2.snp.filter (fun s => s.st == .again)).foldl (fun h s =>
      match ent h p.1 with
      | some e =>
        if fenced h s.cai then h
        else updSnp p.1 s (fun s => { s with st := .out, cyc := now h }) (sendSnp c p.1 e s h)
      | none => h) h) h

/-- What arrived for the engines while they were held (R219). -/
def applyLate (c : Cells Word) (h : Hw) : Hw :=
  let rep := h.reel.late
  let h := h.glp.late.foldl (fun h r => engResult r.1 r.2.1 r.2.2 h) (h.modGlp (fun it => { it with late := [] }))
  rep.foldl (fun h r => reelReport c r.1 r.2.1 r.2.2.1 r.2.2.2 h) (h.modReel (fun it => { it with late := [] }))

/-- Jig holds, and the rows that a destroying march and a zero fill write, go on where they stopped. (DESIGN CHOICE, log entry 119) -/
def jigResume (n : Nat) (h : Hw) : Hw :=
  let h := h.modNear (fun it => { it with jig := it.jig.map (fun p => (p.1, { p.2 with expire := p.2.expire + n })) })
  let h := h.modRst (fun it => { it with setRun := it.setRun.map (fun r =>
    match r.step with | .fill t => { r with step := .fill (t + n) } | _ => r) })
  h.modProt (fun it => { it with march := it.march.map (fun m => { m with endAt := if m.destroy then m.endAt + n else 0 }) })

/-- The release step ends: the sequence is over, and a fault detected in this step starts the next one (R342, R343, R345). -/
def gavRelease (c : Cells Word) (h : Hw) : Hw :=
  let g := h.diag.gav
  if g.step ≠ .release ∨ gavSpent h < 1 then h else
  let h := egSort (sendAgain c (vpResend h))
  let h := jigResume (clkM h - g.start / 2) h
  let h := err 22 1 (put 22 0x50 (clkC h - g.start / 4) (cntW 22 0x4C 1 h))
  let h := if pgBusy h 22 then cmdEnds 22 0 h else h
  let h := marchResume (applyLate c (setGav (fun g => { g with step := .idle, next := 0 }) h))
  (bitsOf g.next.toNat 6).foldl (fun h b => gavCause c b h) h

/-- GAV_RELEASE (R342). -/
def execGavRelease (s : State) : Out := .next (act gavRelease s)

end Sys2Proof.Machine
end

