-- ==== Sys2Proof/Machine/Logs.lean ====
section
/-! DEFINITION. The error log at work (R320 to R324, R346) and the writes of FLT.HEAD (R329). -/
namespace Sys2Proof.Machine

/-- The valid entry with the signature of a report. -/
def logFind (h : Hw) (r : Report) : Option (Nat × LogEnt) := cSeek (fun _ e => e.rep.sameSig r) h.diag.log

/-- Store a log entry; the COUNT that it had before this CLK_C cycle is kept. -/
def setLog (i : Nat) (e : LogEnt) (h : Hw) : Hw :=
  let old := match cFind h.diag.log i with | some x => x.rep.count | none => 0
  let before := if (cFind h.diag.before i).isSome then h.diag.before else cIns h.diag.before i old
  (h.modDiag (fun it => { it with log := cIns it.log i e, before := before }))

/-- A report is applied (R320, R322). -/
def logPut (r : Report) (h : Hw) : Hw :=
  match logFind h r with
  | some (i, e) => setLog i { e with rep := e.rep.merge r } h
  | none =>
    let seq := roGet h (rg 20 0x44)
    let h := cntW 20 0x44 1 h
    match cFree h.diag.log 64 with
    | some i => err 20 3 (setLog i { rep := r, seq := seq } h)
    | none => err 20 2 (cnt 20 0x48 1 h)

/-- The next queued report is applied, where it reached the queue in an earlier CLK_C cycle and fewer than two have been applied
in this one (R321). (DEDUCED, log entry 84) -/
def logNext (h : Hw) : Hw :=
  match h.diag.rq with
  | [] => h
  | r :: rest =>
    let fresh := decide (h.diag.rqCyc ≠ clkC h)
    let num := if fresh then 0 else h.diag.rqNum
    if clkC h ≤ r.reach ∨ 2 ≤ num then h
    else
      let d := h.diag
      let d := if fresh then { d with late := [], before := [] } else d
      logPut r (h.setDiag { d with rq := rest, rqCyc := clkC h, rqNum := num + 1, late := d.late ++ [r] })

/-- LOG_APPLY (R321): up to two queued reports. -/
def execLogApply (s : State) : Out := .next (act (fun _ h => logNext (logNext h)) s)

/-- The COUNT of an entry before the reports applied in this CLK_C cycle; 0 for one that was not valid (R323). -/
def logBefore (h : Hw) (i : Nat) : Nat :=
  let cur := match cFind h.diag.log i with | some e => e.rep.count | none => 0
  if h.diag.rqCyc = clkC h then (cFind h.diag.before i).getD cur else cur

/-- Reports of this CLK_C cycle that were applied to a freed entry make entries anew (R323). -/
def logLate (e : LogEnt) (h : Hw) : Hw :=
  if h.diag.rqCyc = clkC h then (h.diag.late.filter (fun r => r.sameSig e.rep)).foldl (fun h r => logPut r h) h else h

/-- An entry is freed. -/
def logDrop (i : Nat) (e : LogEnt) (h : Hw) : Hw :=
  logLate e (h.modDiag (fun it => { it with log := cDel it.log i, before := cDel it.before i }))

/-- FREE is taken (R323, R346). -/
def logFreeTake (i count : Nat) (h : Hw) : Hw :=
  let stat := i * 256 + 1
  match cFind h.diag.log i with
  | some e => if logBefore h i ≠ 0 ∧ logBefore h i = count then logDrop i e (cmdTaken 20 stat 0 h) else cmdTaken 20 stat 5 h
  | none => cmdTaken 20 stat 5 h

/-- LOG_FREE (R323). -/
def execLogFree (index : BitVec 6) (count : BitVec 16) (s : State) : Out :=
  .next (act (fun _ h => logFreeTake index.toNat count.toNat h) s)

/-- FREE_ALL is taken (R323, R346). -/
def logFreeAllTake (i : Nat) (h : Hw) : Hw :=
  let l := h.diag.log.filter (fun p => decide (logBefore h p.1 ≠ 0))
  l.foldl (fun h p => logDrop p.1 p.2 h) (cmdTaken 20 (i * 256 + 2) 0 h)

/-- LOG_FREE_ALL (R323). -/
def execLogFreeAll (index : BitVec 6) (_ : BitVec 16) (s : State) : Out :=
  .next (act (fun _ h => logFreeAllTake index.toNat h) s)

/-- The record number in the FAULT answer of the request with this intake number. -/
def fltAnswer (iseq num : Nat) (h : Hw) : Hw :=
  h.modPorts (fun it => { it with eg := it.eg.map (fun p => (p.1, p.2.map (fun m =>
    if m.iseq = iseq ∧ m.hdr.resp = 7 then { m with hdr := { m.hdr with arg2 := BitVec.ofNat 32 num } } else m))) })

/-- The faults of this CLK_P cycle are placed among the records that remain after a write of FLT.HEAD. One that found no place stays
unrecorded. (DESIGN CHOICE, log entry 118) -/
def fltAgain (h : Hw) : Hw :=
  let d := h.diag
  let tail := rf h 21 0x4C 8 0
  let h := put 21 0x4C d.fltTail (h.setDiag { d with recs := d.fltWas, fltNow := [] })
  let h := d.fltNow.foldl (fun h f =>
    let (h, n) := if f.num = 0xFFF then (h, 0xFFF) else fltPlace f h
    let h := h.modDiag (fun it => { it with fltNow := it.fltNow ++ [{ f with num := n }] })
    if n = f.num then h else fltAnswer f.iseq n h) h
  fltTaken tail h

/-- A write of FLT.HEAD: from the present HEAD up to TAIL, modulo 512. It comes before the faults of its CLK_P cycle (R329). -/
def fltHead (d : Word) (h : Hw) : Hw :=
  let n := fld d 8 0
  let old := rf h 21 0x48 8 0
  let live := decide (h.diag.fltCyc = now h) && !h.diag.fltNow.isEmpty
  let tail := if live then h.diag.fltTail else rf h 21 0x4C 8 0
  if (n + 512 - old) % 512 ≤ (tail + 512 - old) % 512 then
    let h := put 21 0x48 n h
    if live then fltAgain h else h
  else err 21 1 h

/-- FLT_HEAD_WRITE (R329). -/
def execFltHeadWrite (data : BitVec 32) (s : State) : Out := .next (act (fun _ h => fltHead data h) s)

end Sys2Proof.Machine
end

