-- ==== Sys2Proof/Machine/MeshPort.lean ====
section
/-! DEFINITION. Flits that leave and arrive: what a departing flit means (R89, R113, R366, R369, R424, R457, R469), the choice of
egress (R359), the Mesh Port's flits, credits and crossing errors (R33, R355 to R360), and messages owed by VP while it is down
(R20, R404). -/
namespace Sys2Proof.Machine

/-! ### What a departure means -/

/-- The type is a completion of a request. -/
def isComp (t : Nat) : Bool := decide (t = 0x1B ∨ t = 0x36 ∨ t = 0x37 ∨ t = 0x38)

/-- The first flit of a request's first completion departs: T7, with the response code (R469, R471). -/
def stampComp (iseq : Nat) (code : BitVec 3) (h : Hw) : Hw :=
  let h := h.modPerf (fun it => { it with fly := it.fly.map (fun s =>
    if s.iseq = iseq ∧ ¬ bit s.valid 6 then { s with resp := code } else s) })
  stamp 7 iseq h

/-- A read that ends without data gives back the snoop-filter entry reserved for it. -/
def dropRsv (e : Ent) (h : Hw) : Hw :=
  match lineOf e 0 with
  | .pa ln => match sfRsv h ln with
    | some n => setSf (setOf ln) n SfEnt.free_ h
    | none => h
  | .loc _ _ => h

/-- A completion is sent: it is paid and counted by its response code (R113, R458). -/
def sentComp (n : Nat) (code : BitVec 3) (h : Hw) : Hw := respEv code (paid n h)

/-- The first flit of a message departs, so that a completion counts as sent: it is paid, and the directory is updated (R90, R113).
A CompData that is sent again has been counted. -/
def noteSent (m : OutMsg) (h : Hw) : Hw :=
  match m.note with
  | .tt i =>
    if m.hdr.dfl ≠ 0 ∧ ¬ h.core.owing.any (fun o => decide (o.1 = m.iseq)) then h else
    let h := match ent h i with
      | some e => if e.code = 0 then dirUpdate e h else dropRsv e h
      | none => h
    sentComp m.iseq m.hdr.resp h
  | .req n | .fence n | .warm n => sentComp n m.hdr.resp h
  | .none | .chunk _ _ _ | .snpGroup _ _ => h

/-- The completion of entry `i` has left: the entry is committed, and what waited for it follows (R89, R161). -/
def entDone (c : Cells Word) (i : Nat) (h : Hw) : Hw :=
  match ent h i with
  | none => h
  | some e =>
    let h := updEnt i (fun e => { e with compSent := true, committed := true }) h
    match e.req.kind with
    | .enq | .enqB => queDoorbell c e h
    | _ => h

/-- What the departure of a message's last flit means. -/
def noteDone (c : Cells Word) (m : OutMsg) (h : Hw) : Hw :=
  match m.note with
  | .tt i => entDone c i h
  | .req n => sampleEnd n false h
  | .fence n => fenceDrain (sampleEnd n false
      (h.modCore (fun it => { it with fences := it.fences.filter (fun f => decide (f.iseq ≠ n)) })))
  | .warm n => sampleEnd n false (h.modRst (fun it => { it with cmdLeft := some (now h) }))
  | .none | .chunk _ _ _ | .snpGroup _ _ => h

/-- The header flit of a message departs: stamps and the events of snoops and multicasts (R457, R469). -/
def headDeparts (m : OutMsg) (h : Hw) : Hw :=
  let t := m.hdr.type.toNat
  let multi := m.hdr.dkind = 3
  let h := if multi then ev 0x2C 1 h else h
  if isComp t then stampComp m.iseq m.hdr.resp h
  else if 0x20 ≤ t ∧ t ≤ 0x24 then
    let h := ev (0x49 + (t - 0x20)) (if multi then ones m.hdr.bmask.toNat 64 else 1) h
    let h := if multi then ev 0x4E 1 h else h
    match ent h m.hdr.tti.toNat with
    | some e => if e.req.port.isSome then stamp 6 m.iseq h else h
    | none => h
  else h

/-- A flit of a message departs; `m` counts the flits before it. -/
def departs (c : Cells Word) (p : Port) (vc : Nat) (m : OutMsg) (h : Hw) : Hw :=
  let h := ev ((match p with | .mp => 0x0B | .vp => 0x1F) + vc) 1 h
  let h := if m.sent = 0 then noteSent m (headDeparts m h) else h
  if (msgFlits m).length ≤ m.sent + 1 then noteDone c m h else h

/-- The next flit of a message is picked, for one credit: `old` is the message as it waits, `m` with the tag it takes. -/
def takeFlit (p : Port) (vc : Nat) (old m : OutMsg) (h : Hw) : Flit × Hw :=
  let fl := msgFlits m
  let f : Flit := { hdr := decide (m.sent = 0), bits := fl.getD m.sent 0, at_ := now h }
  let k := portKey p vc
  let rest := dropFirst (fun x => x == old) (cGet [] h.ports.eg k)
  let q := if fl.length ≤ m.sent + 1 then rest else { m with sent := m.sent + 1 } :: rest
  (f, h.modPorts (fun it => { it with eg := cPut [] it.eg k q, crd := cPut 0 it.crd k (cGet 0 it.crd k - 1) }))

/-! ### Responses that VP owes while it is not up (R20, R404) -/

/-- A message queued for VP as it leaves through MP: a response goes to the die above by its route. -/
def viaMp (c : Cells Word) (m : OutMsg) : OutMsg :=
  let t := m.hdr.type.toNat
  if 0x20 ≤ t ∧ t ≤ 0x24 then { m with sent := 0 }
  else { m with sent := 0, hdr := { m.hdr with dkind := 0, route := (cfgGet c (rg 3 0x4C)).setWidth 16 } }

/-- The messages that may leave through a VC of a port, in their order. While VP is not up, those queued for it may leave through MP,
after a message that has begun. (DEDUCED, log entry 22) -/
def egQueue (c : Cells Word) (h : Hw) (p : Port) (vc : Nat) : List OutMsg :=
  let q := cGet [] h.ports.eg (portKey p vc)
  if p = .vp ∨ h.vp.state = .up then q else
  let owed := (cGet [] h.ports.eg (16 + vc)).map (viaMp c)
  match q with
  | m :: r => if m.sent = 0 then owed ++ q else m :: (owed ++ r)
  | [] => owed

/-- A message that leaves through MP in VP's stead is queued there (R20, R404). -/
def vpSpill (c : Cells Word) (vc : Nat) (m : OutMsg) (h : Hw) : Hw :=
  if (cGet [] h.ports.eg vc).contains m then h else
  h.modPorts (fun it => { it with
    eg := cPut [] (cPut [] it.eg (16 + vc) (dropFirst (fun x => viaMp c x == m) (cGet [] it.eg (16 + vc)))) vc
      (m :: cGet [] it.eg vc) })

/-! ### The choice of egress (R359) -/

/-- An IntMsg waits for the completions of what was under way before it and may have raised its condition (R111).
(DEDUCED, log entry 24) -/
def intHeld (h : Hw) (m : OutMsg) : Bool :=
  decide (m.hdr.type = 0x3D) &&
    (h.ports.eg.any (fun p => p.2.any (fun x => isComp x.hdr.type.toNat && decide (x.iseq < m.iseq))) ||
      h.core.tt.any (fun p => p.2.req.port.isSome && (p.2.wrote || p.2.committed || p.2.cause) && !p.2.compSent &&
        decide (p.2.req.iseq < m.iseq)))

/-- Nothing but credits may leave: a Gavotte sequence runs. -/
def egressHeld (h : Hw) (m : OutMsg) : Bool :=
  if h.rst.cmd.isSome then (match m.note with | .warm _ => false | _ => true) else gavBusy h

/-- The message of a VC that goes next: one that has begun, else the first that R111 does not hold; after WARM_RESET its carrier
alone (R424). -/
def egNext (c : Cells Word) (h : Hw) (p : Port) (vc : Nat) : Option OutMsg :=
  let q := egQueue c h p vc
  let begun := match q.head? with | some m => decide (m.sent ≠ 0) | none => false
  if begun then q.head?
  else if h.rst.cmd.isSome then q.find? (fun m => match m.note with | .warm _ => true | _ => false)
  else q.find? (fun m => !(intHeld h m))

/-- The message of a VC that may send its next flit: nothing holds it, and there is a credit. -/
def egReady (c : Cells Word) (h : Hw) (p : Port) (vc : Nat) (tagFree : Bool) : Option OutMsg :=
  match egNext c h p vc with
  | some m =>
    if egressHeld h m || decide (cGet 0 h.ports.crd (portKey p vc) = 0) ||
      (decide (m.hdr.dkind = 3 ∧ m.sent = 0) && !tagFree) then none else some m
  | none => none

/-- The VC that is served next: the high-priority ones first, and within a priority the classes in rotation (R359). -/
def pickVc (c : Cells Word) (h : Hw) (p : Port) (tagFree : Bool) : Option (Nat × OutMsg) :=
  [0, 1].findSome? (fun pr =>
    let start := cGet 0 h.ports.rot (2 * portKey p 0 + pr)
    (List.range 5).findSome? (fun j =>
      let vc := 2 * ((start + j) % 5) + pr
      (egReady c h p vc tagFree).map (fun m => (vc, m))))

/-- The rotation goes on after the class served. -/
def rotVc (p : Port) (vc : Nat) (h : Hw) : Hw :=
  h.modPorts (fun it => { it with rot := cPut 0 it.rot (2 * portKey p 0 + vc % 2) ((vc / 2 + 1) % 5) })

/-! ### Mesh Port, outbound -/

/-- An MP crossing error (R33, R333, R382): `k` is the VC, 16 more for inbound; class 0 a write into a full FIFO, class 1 a read of an
empty one (R319). -/
def xingError (c : Cells Word) (k cls : Nat) (h : Hw) : Hw :=
  let h := report 0xC false k cls 0 ownRid (err 2 0 (cnt 2 0x54 1 h))
  let h := gavCause c 0 h
  setGav (fun g => { g with xing := if g.xing.contains k then g.xing else g.xing ++ [k] }) h

/-- The outbound crossing loses the flit that is picked: `xing` says that its FIFO is met empty by a read (class 1) or full by the write
(class 0); a FIFO that holds 4 flits is full (R33). (DESIGN CHOICE, log entry 83) -/
def outLost (h : Hw) (vc : Nat) (xing : Option Bool) : Option Nat :=
  match xing with
  | some b => some (b2n b)
  | none => if 4 ≤ (h.ports.xout.filter (fun l => decide (l.vc = vc))).length then some 0 else none

/-- The crossing has lost a flit of a message: the message is sent again, but for a StreamChunk, which counts as reported with every
target in its residual (R33, R238, R336). -/
def lostOut (c : Cells Word) (vc : Nat) (m : OutMsg) (h : Hw) : Hw :=
  match m.note with
  | .chunk n k j =>
    let tags := if m.sent ≠ 0 then cDel h.ports.mtags m.hdr.mtag.toNat else h.ports.mtags
    reelTell c n k j (m.hdr.bmask.setWidth 32) (h.modPorts (fun it => { it with
      eg := cPut [] it.eg vc (dropFirst (fun x => x == m) (cGet [] it.eg vc)), mtags := tags }))
  | _ => unsend vc h

/-- MP picks a flit for egress, which departs two CLK_P cycles later; a multicast takes tag `mtag` (R33, R336, R359, R369). -/
def mpOut (c : Cells Word) (mtag : Nat) (xing : Option Bool) (h : Hw) : Hw :=
  if h.ports.outCyc = now h + 1 then h else
  match pickVc c h .mp (cFind h.ports.mtags mtag).isNone with
  | none => h
  | some (vc, m) =>
    let h := rotVc .mp vc (vpSpill c vc m h)
    match outLost h vc xing with
    | some cls =>
      let h := lostOut c vc m (xingError c vc cls h)
      h.modPorts (fun it => { it with outCyc := now h + 1 })
    | none =>
      let first := decide (m.hdr.dkind = 3 ∧ m.sent = 0)
      let m' := if first then { m with hdr := { m.hdr with mtag := BitVec.ofNat 12 mtag } } else m
      let (f, h) := takeFlit .mp vc m m' h
      h.modPorts (fun it => { it with
        outCyc := now h + 1, xout := it.xout ++ [{ vc := vc, flit := f, msg := m', cyc := now h }]
        mtags := if first then cIns it.mtags mtag m.note else it.mtags })

/-- MP_FLIT_OUT (R359). -/
def execMpFlitOut (mtag : BitVec 12) (xing : Option Bool) (s : State) : Out :=
  .next (act (fun c h => mpOut c mtag.toNat xing h) s)

/-- The flit picked two CLK_P cycles ago departs: mp_out shows it in this cycle (R357, R359). -/
def mpDepart (c : Cells Word) (h : Hw) : Hw :=
  match h.ports.xout with
  | [] => h.modPorts (fun it => { it with outFlit := none })
  | l :: rest =>
    if now h < l.cyc + 2 then h.modPorts (fun it => { it with outFlit := none })
    else departs c .mp l.vc l.msg (h.modPorts (fun it => { it with
      xout := rest, outFlit := some (l.vc, { l.flit with at_ := now h }) }))

/-- MP_OUT_CREDIT (R357, R359): a credit pulse of the router enters the crossing. -/
def execMpOutCredit (vc : Nat) (s : State) : Out :=
  .next (act (fun _ h =>
    if 10 ≤ vc then h else (h.modPorts (fun it => { it with crdIn := it.crdIn ++ [(vc, now h)] }))) s)

/-- Credit pulses of two CLK_P cycles ago can be used (R359). -/
def creditIn (h : Hw) : Hw :=
  h.modPorts (fun it => { it with
    crdIn := it.crdIn.filter (fun p => decide (now h < p.2 + 2))
    crd := (it.crdIn.filter (fun p => decide (p.2 + 2 ≤ now h))).foldl (fun m p => cPut 0 m p.1 (cGet 0 m p.1 + 1)) it.crd })

/-! ### Mesh Port, inbound -/

/-- The flits of a buffer from the start of the message that is not complete; nothing when every message is. -/
def openFlits : List Flit → List Flit
  | [] => []
  | f :: r =>
    let n := (hdrDec f.bits).dfl.toNat
    if !f.hdr then openFlits r
    else if r.length < n ∨ (r.take n).any (·.hdr) then
      (match openFlits r with | [] => if r.any (·.hdr) then [] else f :: r | l => l)
    else openFlits r

/-- A message whose header was accepted is lost: what it answers is named by its header: TT index, kind, sender, and whether an entry
awaits it. FwdData to the home counts with the snoop responses (R336). (DEDUCED, log entry 119) -/
def loseNamed (c : Cells Word) (h : Hw) (x : Hdr) : Option ((Nat × Nat × BitVec 12) × Bool) :=
  let t := x.type.toNat
  let y := senderCai x
  let i := x.tti.toNat
  if (0x30 ≤ t ∧ t ≤ 0x35) ∨ t = 0x19 ∨ t = 0x1A then some ((i, 0, y), (awaited c h x).isSome)
  else if t = 0x18 then some ((i, 0, y), awaitsFwd h i x)
  else if t = 0x39 then some ((i, 2, y), awaitsAck h i y)
  else if t = 0x29 then
    match h.core.tt.findSome? (fun p =>
      if p.2.snp.any (fun s => (s.cai == y) && (s.st == .wb)) &&
        p.2.req.lines.contains (.pa (x.addr.toNat / 128)) then some p.1 else none) with
    | some j => some ((j, 1, y), true)
    | none => some ((i, 1, y), false)
  else none

/-- The inbound crossing of VC `v` discards a flit (R33, R336). -/
def xingIn (c : Cells Word) (v cls : Nat) (hdr : Bool) (h : Hw) : Hw :=
  let buf := cGet [] h.ports.ing v ++ cGet [] h.ports.xin v
  let opened := openFlits buf
  let h := xingError c (16 + v) cls h
  let cutNow := h.ports.cut.contains v
  let cut := if cutNow then h.ports.cut else h.ports.cut ++ [v]
  if hdr then
    let h := report 0xF false (16 + v) 3 0 ownRid (h.modPorts (fun it => { it with cut := cut }))
    setGav (fun g => { g with unnamed := g.unnamed ++ [v / 2] }) h
  else if cutNow then h
  else
    let keep := buf.take (buf.length - opened.length)
    let n := (cGet [] h.ports.ing v).length
    let h := h.modPorts (fun it => { it with
      ing := cPut [] it.ing v (keep.take n), xin := cPut [] it.xin v (keep.drop n), cut := cut })
    match opened.head? with
    | some f =>
      let x := hdrDec f.bits
      (match loseNamed c h x with
      | some (a, true) => setGav (fun g => { g with lost := g.lost ++ [a] }) (report 0xF false a.1 a.2.1 0 (a.2.2.setWidth 16) h)
      | some (a, false) => report 0xF false a.1 a.2.1 0 (a.2.2.setWidth 16) h
      | none => h)
    | none => h

/-- A flit arrives at MP: into the crossing FIFO of its VC, or lost there. VC numbers 10 to 15 are discarded (R33, R356, R357). -/
def mpIn (c : Cells Word) (v : Nat) (hdr : Bool) (f : FlitBits) (emptyRead : Bool) (h : Hw) : Hw :=
  if 10 ≤ v then h else
  let h := ev (1 + v) 1 h
  let q := cGet [] h.ports.xin v
  if emptyRead then xingIn c v 1 hdr h
  else if 4 ≤ q.length then xingIn c v 0 hdr h
  else h.modPorts (fun it => { it with xin := cPut [] it.xin v (q ++ [{ hdr := hdr, bits := f, at_ := now h }]) })

/-- MP_FLIT_IN (R357). -/
def execMpFlitIn (vc : BitVec 4) (isHdr : Bool) (flit : BitVec 512) (emptyRead : Bool) (s : State) : Out :=
  .next (act (fun c h => mpIn c vc.toNat isHdr flit emptyRead h) s)

/-- MP_INIT_CREDITS (R358): 8 CLK_P cycles after release, 16 credits for each inbound VC. -/
def execMpInitCredits (s : State) : Out :=
  .next (act (fun _ h =>
    if h.ports.initDone ∨ now h < h.rst.relCyc + 8 then h
    else (h.modPorts (fun it => { it with
      initDone := true, initOwed := (List.range 10).map (fun v => (v, 16))
      owed := (List.range 10).foldl (fun o v => cPut 0 o v (cGet 0 o v + 16)) it.owed }))) s)

/-! ### VC resets (R360) -/

/-- The router answers the reset of a VC. -/
def vcrstIn (v : Nat) (h : Hw) : Hw :=
  match cFind h.ports.vcrst v with
  | some none => (h.modPorts (fun it => { it with
      crd := cPut 0 it.crd v 0, crdIn := it.crdIn.filter (fun p => decide (p.1 ≠ v)), vcrst := cIns it.vcrst v (some (now h)) }))
  | _ => h

/-- MP_VCRST_IN (R360). -/
def execMpVcrstIn (vc : Nat) (s : State) : Out := .next (act (fun _ h => vcrstIn vc h) s)

/-- Eight CLK_P cycles later the incomplete inbound message is discarded, and every free flit of the ingress buffer owes a credit.
(DEDUCED, log entry 82) -/
def vcrstWait (v : Nat) (h : Hw) : Hw :=
  match cFind h.ports.vcrst v with
  | some (some t) =>
    if now h < t + 8 then h else
    let buf := cGet [] h.ports.ing v ++ cGet [] h.ports.xin v
    let keep := buf.take (buf.length - (openFlits buf).length)
    (h.modPorts (fun it => { it with
      xin := cPut [] it.xin v [], ing := cPut [] it.ing v keep, cut := it.cut.filter (· ≠ v)
      owed := cPut 0 it.owed v (16 - keep.length), initOwed := cDel it.initOwed v, vcrst := cDel it.vcrst v }))
  | _ => h

/-- MP_VCRST_WAIT_DONE (R360). -/
def execMpVcrstWaitDone (vc : Nat) (s : State) : Out := .next (act (fun _ h => vcrstWait vc h) s)

end Sys2Proof.Machine
end

