-- ==== Sys2Proof/Machine/Wires.lean ====
section
/-! DEFINITION. The wires of the Vertical Port: groups, spares and repair entries (R388, R400), the pattern of the wire test (R398), and
what a frame or a training word puts on the wires of a group in a beat (R391, R392, R400). -/
namespace Sys2Proof.Machine

/-- The levels of the 579 wires of one direction in one beat, wire number `w` of R388 at bit `w`. A clock wire that carries its
forwarded clock shows the 1 of the rising edge that begins the beat. -/
abbrev Wires : Type := BitVec 579

/-- First wire and primary wires of a group; two spares follow them (R388). -/
def groupWires (g : Nat) : Nat × Nat := if g < 16 then (34 * g, 32) else (544, 16)

/-- The primary wire that spare `k` of a group replaces, by the group's repair entry (R400). -/
def spareFor (r : BitVec 22) (k : Nat) : Option Nat :=
  let f := fld r (14 + 6 * k) (9 + 6 * k)
  if 32 ≤ f then some (f % 32) else none

/-- The groups of a GMASK, in increasing number (R392). -/
def activeGroups (m : BitVec 16) : List Nat := (List.range 16).filter (fun g => bit m g)

/-- Data bits of a beat at a width code (R400). -/
def vpWidth (width : Nat) : Nat := 128 * (width % 4 + 1)

/-! ### Receiving -/

/-- The levels of vp_rx_ctl and vp_rx_data in a beat, by wire number (R387, R388). -/
def rxWires (ctl : BitVec 18) (data : BitVec 544) : Wires := (ctl.setWidth 579 <<< 544) ||| data.setWidth 579

/-- The bits that a group's primary wires stand for: a repaired one is taken from its spare (R388). -/
def rxGroup (x : Wires) (r : BitVec 22) (g : Nat) : BitVec 32 :=
  let (first, n) := groupWires g
  [0, 1].foldl (fun w k =>
    match spareFor r k with
    | some i => setBit w i (bit x (first + n + k))
    | none => w) (BitVec.ofNat 32 (fld x (first + n - 1) first))

/-- The control bits of the eight beats of a frame: beat b carries bits [16b+15:16b] (R391). -/
def rxCtl (v : Vp) (beats : List Wires) : BitVec 128 :=
  BitVec.ofNat 128 (((beats.take 8).zipIdx).foldl (fun n p =>
    n + ((rxGroup p.1 (cGet 0 v.repair 16) 16).toNat % 65536) <<< (16 * p.2)) 0)

/-- The flit slots of the eight beats of a frame: data bit W * b + j is active wire j in beat b (R392). -/
def rxSlots (v : Vp) (beats : List Wires) : List FlitBits :=
  let gs := (activeGroups v.gmaskRx).zipIdx
  let n := ((beats.take 8).zipIdx).foldl (fun n p =>
    gs.foldl (fun n q => n + ((rxGroup p.1 (cGet 0 v.repair q.1) q.1).toNat) <<< (vpWidth v.width * p.2 + 32 * q.2)) n) 0
  (List.range (2 * (v.width % 4 + 1))).map (fun s => BitVec.ofNat 512 (n >>> (512 * s)))

/-- The copies of a training word in four beats: of a data group bits [31:0] and [63:32] in the first two, of the control group 16 bits
in each. A repaired group is read with its repair and without it, since the partner brings its spares into use in phase C (R400).
(DEDUCED, log entry 120) -/
def rxCopies (v : Vp) (beats : List Wires) : List (Nat × BitVec 64) :=
  let at_ := fun (b : Nat) (r : BitVec 22) (g : Nat) => (rxGroup (beats.getD b 0) r g).toNat
  (List.range 17).flatMap (fun g => [0, cGet 0 v.repair g].map (fun r =>
    (g, BitVec.ofNat 64 (if g < 16 then at_ 0 r g + at_ 1 r g <<< 32
      else (List.range 4).foldl (fun n b => n + (at_ b r g % 65536) <<< (16 * b)) 0))))

/-! ### Sending -/

/-- The level of wire `w` where its group sends this word: a repaired primary wire is 0 and its spare carries its bit; a spare out of use,
and every wire of a group that sends nothing, has a level that no rule gives (R388). `t` is the beat. -/
def groupLevel (word : Nat → Option (BitVec 32)) (rep : Nat → BitVec 22) (t w : Nat) : Bool :=
  let g := if w < 544 then w / 34 else 16
  let i := if w < 544 then w % 34 else w - 544
  let n := (groupWires g).2
  match word g with
  | none => Config.openWire t w
  | some x =>
    if i < n then !(spareFor (rep g) 0 == some i) && !(spareFor (rep g) 1 == some i) && bit x i
    else match spareFor (rep g) (i - n) with
      | some j => bit x j
      | none => Config.openWire t w

/-- One step of the PRBS-15 register x[15:1], which holds x[k] at bit k - 1 (R398). -/
def prbsStep (x : BitVec 15) : BitVec 15 := (x <<< 1) ||| (BitVec.ofBool (bit x 14 != bit x 13)).setWidth 15

/-- The register after `n` beats. -/
def prbsRun : Nat → BitVec 15 → BitVec 15
  | 0, x => x
  | n + 1, x => prbsRun n (prbsStep x)

/-- What wire `w` carries, and what its receiver expects on it, in beat `n` of phase B (R398). -/
def prbsBit (w n : Nat) : Bool := bit (prbsRun n (BitVec.ofNat 15 (w + 1))) 14

/-- What group `g` sends of the last frame in its beat `b` (R391, R392). -/
def frameWord (v : Vp) (b g : Nat) : Option (BitVec 32) :=
  if g = 16 then some (BitVec.ofNat 32 (fld v.txCtl (16 * b + 15) (16 * b)))
  else if !(bit v.gmaskTx g) then none
  else
    let k := vpWidth v.width * b + 32 * ((activeGroups v.gmaskTx).filter (fun x => decide (x < g))).length
    match v.txSlots.find? (fun p => decide (p.1 = k / 512)) with
    | some p => some (BitVec.ofNat 32 (fld p.2 (k % 512 + 31) (k % 512)))
    | none => some 0

/-- What group `g` sends of a training word in its beat `b` of four: a data group sends it twice (R400). (DEDUCED, log entry 120) -/
def wordPart (x : BitVec 64) (b g : Nat) : Option (BitVec 32) :=
  if g < 16 then some (x.extractLsb' (32 * (b % 2)) 32) else some ((x.extractLsb' (16 * (b % 4)) 16).setWidth 32)

end Sys2Proof.Machine
end

