-- ==== Sys2Proof/Machine/VertPort.lean ====
section
/-! DEFINITION. The Vertical Port: frames and their link layer (R390 to R395), training (R396 to R402), loss of link (R403, R404)
and the VP commands (R405). -/
namespace Sys2Proof.Machine

/-- Change the Vertical Port's own state. -/
def setVp (f : Vp → Vp) (h : Hw) : Hw := h.setVp (f h.vp)

/-! ### CRC-16 (R391, R400) -/

/-- One bit enters the CRC register: polynomial 0x1021. -/
def crcStep (crc : Nat) (b : Bool) : Nat :=
  let sh := crc * 2 % 65536
  if bitN crc 15 != b then sh ^^^ 0x1021 else sh

/-- The low `n` bits of `x` enter the register, bit 0 first. -/
def crcBits (x n crc : Nat) : Nat := (List.range n).foldl (fun r i => crcStep r (bitN x i)) crc

/-- CRC of a frame: control bits [111:0], then the data bits. -/
def frameCrc (ctl : BitVec 128) (data : List FlitBits) : Nat :=
  data.foldl (fun r f => crcBits f.toNat 512 r) (crcBits ctl.toNat 112 0xFFFF)

/-- CRC of a training word: bits [47:0]. -/
def wordCrc (w : BitVec 64) : Nat := crcBits w.toNat 48 0xFFFF

/-! ### Frames -/

/-- Flit slots of a frame at a width code (R390, R400). -/
def vpSlots (width : Nat) : Nat := 2 * (width % 4 + 1)

/-- The control field of a frame (R391). -/
def frameCtl (f : Frame) (ack : Option Nat) (nak : Bool) : BitVec 128 :=
  let slot := (f.slots.zipIdx).foldl (fun n p => n + ((1 + 2 * b2n p.1.2.hdr + 4 * p.1.1) <<< (6 * p.2))) 0
  let crd := (f.crd.zipIdx).foldl (fun n p => n + (p.1 <<< (70 + 4 * p.2))) 0
  BitVec.ofNat 128 (slot + f.seq <<< 48 + (ack.getD 0) <<< 58 + (b2n ack.isSome) <<< 68 + (b2n nak) <<< 69 + crd)

/-- The data slots of a frame. -/
def frameData (width : Nat) (f : Frame) : List FlitBits :=
  (List.range (vpSlots width)).map (fun s => ((f.slots[s]?).map (fun p => p.2.bits)).getD 0)

/-- A frame is driven on the transmit wires. -/
def drive (f : Frame) (h : Hw) : Hw :=
  let ctl := frameCtl f h.vp.rxSeq h.vp.nakDue
  let data := frameData h.vp.width f
  let ctl := ctl + BitVec.ofNat 128 (frameCrc ctl data <<< 112)
  setVp (fun v => { v with txCtl := ctl, txSlots := (data.zipIdx).map (fun p => (p.2, p.1)), txCyc := now h }) h

/-- Frames up to this SEQ are acknowledged (R395). -/
def ackTo (seq : Nat) (h : Hw) : Hw :=
  match h.vp.replay.findIdx? (fun f => decide (f.seq = seq)) with
  | none => h
  | some k =>
    let gone := (h.vp.replay.take (k + 1)).map (·.seq)
    setVp (fun v => { v with replay := v.replay.drop (k + 1), resend := v.resend.filter (fun s => !(gone.contains s)) }) h

/-- A flit is accepted from VP; the rest of a message that was cut short is dropped. -/
def vpDeliver (vc : Nat) (hdr : Bool) (f : FlitBits) (h : Hw) : Hw :=
  if 10 ≤ vc then h else
  let k := 16 + vc
  let h := ev (0x15 + vc) 1 h
  let p := h.ports
  if p.cut.contains k ∧ ¬ hdr then h.setPorts { p with owed := cPut 0 p.owed k (cGet 0 p.owed k + 1) }
  else h.setPorts ({ p with
    ing := cPut [] p.ing k (cGet [] p.ing k ++ [{ hdr := hdr, bits := f, at_ := now h }]), cut := p.cut.filter (· ≠ k) })

/-- The flits of a frame are delivered, and its credits are taken. -/
def frameDeliver (ctl : BitVec 128) (slots : List FlitBits) (h : Hw) : Hw :=
  let h := (List.range (vpSlots h.vp.width)).foldl (fun h s =>
    let c := fld ctl (6 * s + 5) (6 * s)
    if c % 2 = 1 then vpDeliver (c / 4) (decide (c / 2 % 2 = 1)) (slots.getD s 0) h else h) h
  let crd := (List.range 10).foldl (fun m v => cPut 0 m (16 + v) (cGet 0 m (16 + v) + fld ctl (73 + 4 * v) (70 + 4 * v))) h.ports.crd
  setVp (fun v => { v with rxSeq := some (fld ctl 57 48), nakDue := false }) (h.modPorts (fun it => { it with crd := crd }))

/-- A frame arrives (R391, R393, R395): one that fails its check is answered NAK, one in order is delivered, and of every good one
the acknowledgement counts. (DEDUCED, log entry 86) -/
def frameIn (ctl : BitVec 128) (slots : List FlitBits) (h : Hw) : Hw :=
  if h.vp.state ≠ .up then h else
  let data := (List.range (vpSlots h.vp.width)).map (fun s => slots.getD s 0)
  if frameCrc ctl data ≠ fld ctl 127 112 then
    setVp (fun v => { v with nakDue := true }) (cnt 3 0x68 1 h)
  else
    let ackv := bit ctl 68
    let h := if ackv then ackTo (fld ctl 67 58) h else h
    let h := if bit ctl 69 ∧ h.vp.resend.isEmpty then setVp (fun v => { v with resend := v.replay.map (·.seq) }) h else h
    let next := match h.vp.rxSeq with | some s => (s + 1) % 1024 | none => 0
    if fld ctl 57 48 = next then frameDeliver ctl data h else h

/-- VP_FRAME_IN (R395): the eight beats of a frame on vp_rx_ctl and vp_rx_data (R387, R391, R392). -/
def execVpFrameIn (ctl : List (BitVec 18)) (data : List (BitVec 544)) (s : State) : Out :=
  let beats := ctl.zipWith rxWires data
  .next (act (fun _ h => frameIn (rxCtl h.vp beats) (rxSlots h.vp beats) h) s)

/-- The slots of a new frame take flits (R359, R392, R393): the flits with their VC, and the messages that they complete.
(DEDUCED, log entry 87) -/
def fillSlots (c : Cells Word) : Nat → List (Nat × Flit) → List (Nat × OutMsg) → Hw → List (Nat × Flit) × List (Nat × OutMsg) × Hw
  | 0, sl, no, h => (sl, no, h)
  | n + 1, sl, no, h =>
    match pickVc c h .vp false with
    | none => (sl, no, h)
    | some (vc, m) =>
      let (f, h) := takeFlit .vp vc m m (rotVc .vp vc h)
      let h := departs c .vp vc m h
      let last := decide (m.hdr.dfl.toNat ≤ m.sent)
      fillSlots c n (sl ++ [(vc, f)]) (if last then no ++ [(vc, m)] else no) h

/-- The credits that a frame returns: those in its CRD already and what is owed, up to 15 for each VC; what is owed for REQ VCs is
withheld in a Gavotte sequence (R335, R394). -/
def takeCrd (old : List Nat) (h : Hw) : List Nat × Hw :=
  let l := (List.range 10).map (fun v => if v < 2 ∧ gavBusy h then 0 else min (15 - old.getD v 0) (cGet 0 h.ports.owed (16 + v)))
  let owed := (l.zipIdx).foldl (fun o p => cPut 0 o (16 + p.2) (cGet 0 o (16 + p.2) - p.1)) h.ports.owed
  ((l.zipIdx).map (fun p => old.getD p.2 0 + p.1), (h.modPorts (fun it => { it with owed := owed })))

/-- A kept frame is sent again, with what is owed by now in its CRD (R394, R395). -/
def replayFrame (f : Frame) (h : Hw) : Hw :=
  let (crd, h) := takeCrd f.crd (ev 0x2B 1 (cnt 3 0x60 1 h))
  let f := { f with crd := crd, replays := f.replays + 1 }
  drive f (setVp (fun v => { v with replay := v.replay.map (fun x => if x.seq = f.seq then f else x) }) h)

/-- The port sends its next frame: a replayed one, an empty one while the replay buffer is full, or a new one (R390, R395).
(DEDUCED, log entry 85) -/
def frameOut (c : Cells Word) (h : Hw) : Hw :=
  if h.vp.state ≠ .up ∨ (h.vp.txCyc ≠ 0 ∧ now h < h.vp.txCyc + 4) then h else
  match h.vp.resend with
  | s :: rest =>
    let h := setVp (fun v => { v with resend := rest }) h
    (match h.vp.replay.find? (fun f => decide (f.seq = s)) with
    | some f => replayFrame f h
    | none => h)
  | [] =>
    let (crd, h) := takeCrd [] h
    if 64 ≤ h.vp.replay.length then
      drive { seq := (h.vp.txSeq + 1023) % 1024, crd := crd, slots := [], notes := [], cyc := now h, replays := 0 } h
    else
      let (sl, no, h) := fillSlots c (vpSlots h.vp.width) [] [] h
      let f : Frame := { seq := h.vp.txSeq, crd := crd, slots := sl, notes := no, cyc := now h, replays := 0 }
      drive f (setVp (fun v => { v with txSeq := (v.txSeq + 1) % 1024, replay := v.replay ++ [f] }) h)

/-- VP_FRAME_OUT (R390). -/
def execVpFrameOut (s : State) : Out := .next (act frameOut s)

/-! ### Runs and losses -/

/-- Messages that have begun to leave through VP are sent again as a whole. -/
def vpUnbegin (h : Hw) : Hw :=
  let eg := (List.range 10).foldl (fun e v =>
    cPut [] e (16 + v) ((cGet [] e (16 + v)).map (fun m => { m with sent := 0 }))) h.ports.eg
  (h.modPorts (fun it => { it with eg := eg }))

/-- Frames after `seq`, or every frame, count as not sent (R402); the replay buffer is emptied. -/
def vpForget (seq : Option Nat) (h : Hw) : Hw :=
  let h := match seq with | some s => ackTo s h | none => h
  setVp (fun v => { v with unsent := v.unsent ++ v.replay.flatMap (·.notes), replay := [], resend := [] }) h

/-- A training run starts at phase A (R397). -/
def runStart (h : Hw) : Hw :=
  let h := cntW 3 0x6C 1 (vpUnbegin h)
  setVp (fun v => { v with
    state := .training, gen := v.gen + 1, attempt := 1, phase := .a, phaseCyc := now h, attCyc := now h, runMax := 3
    gotRepair := [], gotProp := none, gotConfirm := none, gotCyc := 0, resend := [], nakDue := false }) h

/-- The port goes to DISABLED or DOWN: what its frames carried and was not acknowledged is sent again, and no frame is on its wires
(R336, R396). -/
def vpStop (st : VpState) (h : Hw) : Hw :=
  setVp (fun v => { v with state := st, txCtl := 0, txSlots := [], txCyc := 0 }) (vpForget none (vpUnbegin h))

/-- Loss of link, from UP (R404); `code` is that of the command of a class 4, and DISABLE starts no run. -/
def vpLoss (c : Cells Word) (cls code : Nat) (h : Hw) : Hw :=
  if h.vp.state ≠ .up then h else
  let src := h.vp.gen.toNat
  let h := report 0xD false src cls 0 ownRid (err 3 1 (cnt 3 0x5C 1 h))
  let h := setVp (fun v => { v with lossAt := some { cyc := now h, cls := cls, src := src, code := code } }) (gavCause c 1 h)
  if code = 2 then vpStop .disabled h else runStart h

/-- REPLAY_MAX, 0 acting as 1 (R408). -/
def replayMax (c : Cells Word) : Nat := max 1 (cf c 3 0x44 11 8)

/-- A frame has been replayed as often as VP.CTRL lets it (R403). -/
def replayed (c : Cells Word) (h : Hw) : Bool := h.vp.replay.any (fun f => decide (replayMax c ≤ f.replays))

/-- The oldest frame has been unacknowledged for VP.CTRL.ACK_TMO CLK_P cycles (R403). -/
def ackLate (c : Cells Word) (h : Hw) : Bool :=
  match h.vp.replay.head? with
  | some f => decide (f.cyc + cf c 3 0x44 23 12 ≤ now h)
  | none => false

/-- The lowest class of loss that the link layer itself is due (R403). -/
def dueLoss (c : Cells Word) (h : Hw) : Option Nat := if replayed c h then some 0 else if ackLate c h then some 2 else none

/-- The VP_LOSS entry of a loss takes a lower class, whose event falls in the same CLK_P cycle (R403). -/
def lossClass (l : LossRec) (cls : Nat) (h : Hw) : Hw :=
  let mine := fun (r : Report) => decide (r.kind = 0xD ∧ r.src = l.src ∧ r.cls = l.cls ∧ r.reach = clkC h)
  let h := setVp (fun v => { v with lossAt := some { l with cls := cls } }) h
  match h.diag.rq.find? mine with
  | none => h
  | some r =>
    let q := h.diag.rq.filter (fun x => !(mine x))
    let r := { r with cls := cls }
    h.modDiag (fun it => { it with rq := (rqMerge r q).getD (rqInsert r q) })

/-- A loss of class `cls` falls in the CLK_C cycle of a command that took the link away: it comes first, and the command then meets the
run that the loss has started (R405). -/
def lossFirst (l : LossRec) (cls : Nat) (h : Hw) : Hw :=
  let h := lossClass l cls h
  if l.code = 1 then cmdTaken 3 1 5 h else vpStop .disabled (runStart h)

/-- An event of class 0 to 3 (R403): of two in one CLK_P cycle the lower class counts, and one in the CLK_C cycle of a command comes
first. (DEDUCED, log entry 121) -/
def vpEvent (c : Cells Word) (cls : Nat) (h : Hw) : Hw :=
  match h.vp.state, h.vp.lossAt with
  | .up, _ => vpLoss c (min cls ((dueLoss c h).getD cls)) 0 h
  | _, some l =>
    if l.cls = 4 ∧ l.cyc / 4 = clkC h then lossFirst l cls h
    else if l.cyc = now h ∧ cls < l.cls then lossClass l cls h else h
  | _, none => h

/-- VP_REPLAY_LIMIT (R403). -/
def execVpReplayLimit (s : State) : Out := .next (act (fun c h => if replayed c h then vpEvent c 0 h else h) s)

/-- VP_CLOCK_LOSS (R403). -/
def execVpClockLoss (s : State) : Out := .next (act (fun c h => vpEvent c 1 h) s)

/-- VP_ACK_TMO (R403). -/
def execVpAckTmo (s : State) : Out := .next (act (fun c h => if ackLate c h then vpEvent c 2 h else h) s)

/-- VP_MARKER_LOSS (R403). -/
def execVpMarkerLoss (s : State) : Out := .next (act (fun c h => vpEvent c 3 h) s)

/-- A loss that is due is taken before a command of its CLK_C cycle (R405). -/
def lossBefore (c : Cells Word) (h : Hw) : Hw :=
  match h.vp.state, dueLoss c h with
  | .up, some k => vpLoss c k 0 h
  | _, _ => h

/-- RETRAIN is taken (R405). -/
def vpRetrain (c : Cells Word) (h : Hw) : Hw :=
  let h := lossBefore c h
  match h.vp.state with
  | .training => cmdTaken 3 1 5 h
  | .up => vpLoss c 4 1 (cmdTaken 3 1 0 h)
  | _ => runStart (cmdTaken 3 1 0 h)

/-- VP_RETRAIN (R405). -/
def execVpRetrain (s : State) : Out := .next (act vpRetrain s)

/-- DISABLE is taken (R405). -/
def vpDisable (c : Cells Word) (h : Hw) : Hw :=
  let h := lossBefore c h
  match h.vp.state with
  | .disabled => cmdTaken 3 2 5 h
  | .up => vpLoss c 4 2 (cmdTaken 3 2 0 h)
  | _ => vpStop .disabled (cmdTaken 3 2 0 h)

/-- VP_DISABLE (R405). -/
def execVpDisable (s : State) : Out := .next (act vpDisable s)

/-! ### Training -/

/-- The wire test of a receive group: spares in use, and whether it has failed (R398, R399). -/
def testGroup (bad : List Nat) (g : Nat) : Option Nat × Option Nat × Bool :=
  let (first, n) := groupWires g
  let prim := (List.range n).filter (fun i => bad.contains (first + i))
  let sp := [0, 1].filter (fun i => !(bad.contains (first + n + i)))
  if bad.contains (562 + g) || decide (2 < prim.length + (2 - sp.length)) then (none, none, true)
  else
    let use := sp.zip prim
    ((use.find? (fun p => p.1 = 0)).map (·.2), (use.find? (fun p => p.1 = 1)).map (·.2), false)

/-- A repair entry in the form of R400, bits [20:0], with FAILED in bit 21. -/
def repairWord (g : Nat) (r : Option Nat × Option Nat × Bool) : BitVec 22 :=
  let sp := fun (o : Option Nat) => match o with | some w => 32 + w | none => 0
  BitVec.ofNat 22 (2 + g * 2 ^ 4 + sp r.1 * 2 ^ 9 + sp r.2.1 * 2 ^ 15 + b2n r.2.2 * 2 ^ 21)

/-- The results of the wire test (R399). -/
def wireTest (bad : List Nat) (h : Hw) : Hw :=
  let l := (List.range 17).map (fun g => (g, testGroup bad g))
  let used := l.any (fun p => p.2.1.isSome || p.2.2.1.isSome)
  let h := if used then err 3 3 h else h
  setVp (fun v => { v with
    failed := BitVec.ofNat 17 (maskOf ((l.filter (fun p => p.2.2.2)).map (·.1)))
    repair := l.foldl (fun m p => cPut 0 m p.1 (repairWord p.1 p.2)) v.repair }) h

/-- Receive data groups that have not failed. -/
def goodGroups (v : Vp) : List Nat := (List.range 16).filter (fun g => !(bit v.failed g))

/-- The slice's proposal: width code and GMASK; none where it can propose no width (R401). -/
def propose (c : Cells Word) (v : Vp) : Option (Nat × BitVec 16) :=
  let n := (goodGroups v).length
  if bit v.failed 16 ∨ n < 4 then none
  else
    let w := min (min (cf c 3 0x44 1 0) v.runMax) (n / 4 - 1)
    some (w, BitVec.ofNat 16 (maskOf ((goodGroups v).take (4 * (w + 1)))))

/-- A run ends in DOWN with this class in the log (R401, R403). -/
def runDown (cls : Nat) (h : Hw) : Hw :=
  vpStop .down (report 0xD false h.vp.gen.toNat cls 0 ownRid (err 3 2 h))

/-- The next attempt of a run starts at phase C. -/
def nextAttempt (h : Hw) : Hw :=
  setVp (fun v => { v with attempt := v.attempt + 1, phase := .c, phaseCyc := now h, attCyc := now h, gotRepair := []
                           gotProp := none, gotConfirm := none }) h

/-- The next phase of an attempt begins. -/
def nextPhase (p : Phase) (h : Hw) : Hw := setVp (fun v => { v with phase := p, phaseCyc := now h }) h

/-- The end of phase D: agreement, or the narrower width and a new generation (R401). (DEDUCED, log entry 89) -/
def judge (c : Cells Word) (w : BitVec 64) (h : Hw) : Hw :=
  let mine := propose c h.vp
  let pw := fld w 5 4
  let pm : BitVec 16 := w.extractLsb' 16 16
  let pg : BitVec 8 := w.extractLsb' 8 8
  let agree := match mine with
    | some (x, _) => decide (x = pw) && (h.vp.gen == pg) && decide (ones pm.toNat 16 = 4 * (pw + 1))
    | none => false
  if agree then
    nextPhase .e (setVp (fun v => { v with
      width := pw, gmaskTx := pm, gmaskRx := (mine.map (·.2)).getD 0 }) h)
  else
    let few := mine.isNone || (pm == 0)
    let h := setVp (fun v => { v with
      runMax := min v.runMax (min ((mine.map (·.1)).getD 0) pw), gen := BitVec.ofNat 8 (max v.gen.toNat pg.toNat + 1) }) h
    if 3 ≤ h.vp.attempt then runDown (if few then 6 else 5) h else nextAttempt h

/-- The link comes up (R394, R401, R402): sequence numbers and credits start anew; an incomplete inbound message is discarded.
(DEDUCED, log entry 88) -/
def linkUp (c : Cells Word) (h : Hw) : Hw :=
  let w := h.vp.gotProp.getD 0
  let h := vpForget (if bit w 42 then some (fld w 41 32) else none) h
  let h := if h.vp.width < cf c 3 0x44 1 0 then err 3 4 h else h
  let h := (List.range 10).foldl (fun h v =>
    let k := 16 + v
    let p := h.ports
    let buf := cGet [] p.ing k
    let bad := (openFlits buf).length
    (h.setPorts { p with
      ing := cPut [] p.ing k (buf.take (buf.length - bad)), crd := cPut 0 p.crd k 0
      owed := cPut 0 p.owed k (32 - (buf.length - bad))
      cut := if bad = 0 then p.cut.filter (· ≠ k) else if p.cut.contains k then p.cut else p.cut ++ [k] })) h
  setVp (fun v => { v with state := .up, txSeq := 0, rxSeq := none, nakDue := false, txCyc := 0 }) h

/-- A training phase ends after its time (R397). `bad` names the receive wires that the wire test found bad. -/
def phaseEnd (c : Cells Word) (bad : List Nat) (h : Hw) : Hw :=
  let v := h.vp
  let t := now h
  if v.state ≠ .training then h else
  match v.phase with
  | .a => if t < v.phaseCyc + 256 then h else nextPhase .b h
  | .b => if t < v.phaseCyc + 4096 then h else nextPhase .c (wireTest bad h)
  | .c => if v.gotRepair.length < 17 ∨ t < v.gotCyc + 128 then h else nextPhase .d h
  | .d =>
    (match v.gotProp with
    | some w => if t < v.gotCyc + 128 then h else judge c w h
    | none => h)
  | .e => if v.gotConfirm.isNone ∨ t < v.gotCyc + 64 then h else linkUp c h

/-- TRAIN_PHASE_END (R397). -/
def execTrainPhaseEnd (bad : List Nat) (s : State) : Out := .next (act (fun c h => phaseEnd c bad h) s)

/-- The word that a receiver takes from the copies of the groups: the lowest-numbered group whose copy passes its CRC (R400). -/
def goodCopy (copies : List (Nat × BitVec 64)) : Option (BitVec 64) :=
  (leastBy (·.1) (copies.filter (fun p => decide (wordCrc p.2 = fld p.2 63 48)))).map (·.2)

/-- A training word of the partner (R397, R400): the word of the present phase counts. -/
def wordRx (w : BitVec 64) (h : Hw) : Hw :=
  let v := h.vp
  let ty := fld w 3 0
  if v.state ≠ .training then h else
  match v.phase with
  | .c =>
    let g := fld w 8 4
    if ty ≠ 2 ∨ 17 ≤ g then h else
    let got := if v.gotRepair.contains g then v.gotRepair else v.gotRepair ++ [g]
    setVp (fun v => { v with
      gotRepair := got, repair := cPut 0 v.repair (32 + g) (w.setWidth 22)
      gotCyc := if v.gotRepair.length < 17 then now h else v.gotCyc }) h
  | .d =>
    if ty ≠ 1 then h
    else setVp (fun v => { v with
      pgen := w.extractLsb' 8 8, gotProp := some (v.gotProp.getD w), gotCyc := if v.gotProp.isNone then now h else v.gotCyc }) h
  | .e =>
    if ty ≠ 3 ∨ v.gotConfirm.isSome then h else setVp (fun v => { v with gotConfirm := some w, gotCyc := now h }) h
  | _ => h

/-- TRAIN_WORD_RX (R400): a training word in four beats on the receive wires. -/
def execTrainWordRx (beats : List (BitVec 579)) (s : State) : Out :=
  .next (act (fun _ h => match goodCopy (rxCopies h.vp beats) with | some w => wordRx w h | none => h) s)

/-- The partner's word of the present phase is missing (R398). -/
def wordMissing (v : Vp) : Bool :=
  match v.phase with
  | .c => decide (v.gotRepair.length < 17)
  | .d => v.gotProp.isNone
  | .e => v.gotConfirm.isNone
  | _ => false

/-- An attempt without a partner ends (R398, R401). -/
def attemptTmo (h : Hw) : Hw :=
  let v := h.vp
  if v.state ≠ .training ∨ !(wordMissing v) ∨ now h < v.attCyc + 8192 then h
  else if v.attempt = 2 then nextAttempt h else runDown 6 h

/-- TRAIN_ATTEMPT_TMO (R398). -/
def execTrainAttemptTmo (s : State) : Out := .next (act (fun _ h => attemptTmo h) s)

/-! ### What the port drives (R387, R396 to R398, R400) -/

/-- A training word with its CRC. -/
def sealWord (n : Nat) : BitVec 64 := BitVec.ofNat 64 (n + wordCrc (BitVec.ofNat 64 n) <<< 48)

/-- The slice's PROP word: WIDTH and GMASK 0 where it can propose no width (R400, R401). -/
def propWord (c : Cells Word) (v : Vp) : BitVec 64 :=
  let (w, m) := (propose c v).getD (0, 0)
  sealWord (1 + w <<< 4 + v.gen.toNat <<< 8 + m.toNat <<< 16 + (v.rxSeq.getD 0 % 1024) <<< 32 + (b2n v.rxSeq.isSome) <<< 42)

/-- The slice's CONFIRM word (R400). -/
def confirmWord (v : Vp) : BitVec 64 := sealWord (3 + (v.width % 4) <<< 4 + v.gen.toNat <<< 8)

/-- The `n`-th word that the slice sends in a phase: the REPAIR words of the receive groups in turn, PROP, CONFIRM (R397, R400). -/
def trainWord (c : Cells Word) (v : Vp) (n : Nat) : BitVec 64 :=
  match v.phase with
  | .d => propWord c v
  | .e => confirmWord v
  | _ => sealWord (cGet 0 v.repair (n % 17)).toNat

/-- The partner's repair entry for a transmit group, once it has arrived in this run (R388). -/
def txRep (v : Vp) (g : Nat) : BitVec 22 :=
  if v.state = .training ∧ v.phase = .c ∧ v.attempt = 1 ∧ ¬ v.gotRepair.contains g then 0 else cGet 0 v.repair (32 + g)

/-- The level of transmit wire `w` in beat 0 or 1 of this CLK_P cycle. (DEDUCED, log entry 120) -/
def txLevel (c : Cells Word) (h : Hw) (b w : Nat) : Bool :=
  let v := h.vp
  let t := 2 * now h + b
  let n := t - 2 * v.phaseCyc
  match v.state with
  | .disabled => false
  | .down => Config.openWire t w
  | .training =>
    if 562 ≤ w then true else
    (match v.phase with
    | .a => if w < 544 then Config.openWire t w else decide (n % 2 = 0)
    | .b => prbsBit w n
    | _ => groupLevel (wordPart (trainWord c v (n / 4)) (n % 4)) (txRep v) t w)
  | .up =>
    let n := t - 2 * v.txCyc
    if 562 ≤ w then true
    else if v.txCyc = 0 ∨ 8 ≤ n then Config.openWire t w else groupLevel (frameWord v n) (txRep v) t w

/-- The levels of vp_tx_data, vp_tx_ctl and vp_tx_clk, by wire number, in beat 0 or 1 of this CLK_P cycle (R387, R388). -/
def txWires (c : Cells Word) (h : Hw) (b : Nat) : Wires :=
  (List.range 579).foldl (fun x w => x ||| (BitVec.ofBool (txLevel c h b w)).setWidth 579 <<< w) 0

end Sys2Proof.Machine
end

