-- ==== Sys2Proof/Machine/Boot.lean ====
section
/-! DEFINITION. Resets and what each keeps (R411 to R415, R424, R425), the start-up sequence (R416 to R423) and the SLC commands
(R427). -/
namespace Sys2Proof.Machine

/-! ### Entering a reset -/

/-- Registers that a warm reset keeps: ECC counters and way records, LRT.SPARE_BAD, LOG.NEXT_SEQ and LOG.DROP_CNT,
GAV.BANK_FAIL (R415). -/
def warmKept (o : Nat) : Bool :=
  decide (rg 17 0x54 ≤ o ∧ o ≤ rg 17 0x60) || decide (o = rg 17 0x68) || decide (rg 17 0x7C ≤ o ∧ o ≤ rg 17 0x90) || decide (o = rg 17 0x98 ∨ o = rg 17 0x9C) ||
    decide (rg 17 0xC0 ≤ o ∧ o < rg 17 0x100) || decide (o = rg 19 0x44) || decide (o = rg 20 0x44 ∨ o = rg 20 0x48) ||
    decide (o = rg 22 0x60)

/-- Power of a bank in reset: its request is low, and the level of pwr_ack is kept (R414). -/
def pwrInReset (warm : Bool) (p : Pwr) : Pwr := { Pwr.start with req := false, ack := p.ack, dead := warm && p.dead }

/-- The wrapper of TP, which only its own reset resets (R428). -/
def wrapperKept (p : RegPath) : RegPath :=
  { RegPath.init with wir := p.wir, wirShift := p.wirShift, bypass := p.bypass, regAcc := p.regAcc, mbist := p.mbist, tpDone := p.tpDone, tpCode := p.tpCode, tpData := p.tpData, vptx := p.vptx, vprx := p.vprx
                      coreSeg := p.coreSeg, wso := p.wso, txPins := p.txPins }

/-- The slice's state while a reset is asserted: everything at its reset value but what R415 keeps.
(DEDUCED, log entry 95) -/
def inReset (mode : RstMode) (h : Hw) : Hw :=
  let warm := mode == .warm
  let i := Hw.init
  let pw := (List.range 32).foldl (fun a b => cPut Pwr.start a b (pwrInReset warm (pwr h b))) i.arr.pwr
  let rst : Rst := { Rst.init with
    mode := mode, porLow := h.rst.porLow, warmLow := h.rst.warmLow, id := h.rst.id, coord := h.rst.coord, march := h.rst.march
    hold := h.rst.hold, once := warm, own := h.rst.own, mpRstN := false, xpRstN := false, relReady := false }
  let diag : Diag := if warm then { i.diag with log := h.diag.log, rq := h.diag.rq } else i.diag
  { i with
    cyc := if mode = .por then 0 else h.cyc
    rst := rst
    ro := if warm then h.ro.filter (fun p => warmKept p.1) else []
    vp := { i.vp with state := .disabled, attempt := 0, gen := if warm then h.vp.gen else 0 }
    path := wrapperKept h.path
    arr := { i.arr with pwr := pw }
    prot := if warm then { i.prot with lrt := h.prot.lrt } else i.prot
    diag := diag
    free := h.free }

/-- Software-written registers in a reset: a warm reset keeps VP.CTRL.AUTO (R408, R415). -/
def cfgInReset (mode : RstMode) (c : Cells Word) : Cells Word :=
  let o := rg 3 0x44
  if mode = .warm then cPut (regRow o).rst [] o (setBit (regRow o).rst 4 (bit (cfgGet c o) 4)) else []

/-- A reset asserts. -/
def enterReset (mode : RstMode) (s : State) : State := { s with cfg := cfgInReset mode s.cfg, hw := inReset mode s.hw }

/-- The kind of reset that a warm reset is carried out as (R412). -/
def warmKind (h : Hw) : RstMode := if h.rst.once then .warm else .warmPor

/-- POR_ASSERT (R412). -/
def execPorAssert (s : State) : Out :=
  .next (enterReset .por { s with hw := (s.hw.modRst (fun it => { it with porLow := true, own := none })) })

/-- rst_warm_n goes low (R412). -/
def warmAssert (s : State) : State :=
  let s := { s with hw := (s.hw.modRst (fun it => { it with warmLow := true })) }
  if running s.hw then enterReset (warmKind s.hw) s else s

/-- WARM_RESET_ASSERT (R412). -/
def execWarmResetAssert (s : State) : Out := .next (warmAssert s)

/-! ### The release edge -/

/-- A bank at the release edge: its on request opens, or waits for pwr_ack to fall; a failed bank gets none (R417). -/
def pwrAtRelease (h : Hw) (b : Nat) : Pwr :=
  let p := pwr h b
  if bit (roGet h (rg 22 0x60)) b then { Pwr.start with req := false, ack := p.ack, dead := true }
  else if p.ack then { Pwr.start with req := false, ack := true, next := some .on, since := now h }
  else { Pwr.start with since := now h }

/-- The slice right after a release edge: the straps are sampled, the POWER step begins and VP trains where AUTO is 1 (R396, R413,
R416). -/
def startUp (warm : Bool) (id : BitVec 8) (coord : BitVec 16) (march hold : Bool) (s : State) : State :=
  let h := s.hw
  let rst : Rst := { Rst.init with
    mode := .run, warmLow := h.rst.warmLow, id := id, coord := coord, march := march, hold := hold, bootCyc := now h
    relCyc := now h, warm := warm, once := warm }
  let pw := (List.range 32).foldl (fun a b => cPut Pwr.start a b (pwrAtRelease h b)) h.arr.pwr
  let h := ((h.setRst rst).modArr (fun it => { it with pwr := pw }))
  { s with hw := if bit (cfgGet s.cfg (rg 3 0x44)) 4 then runStart h else h }

/-- POR_RELEASE (R411). With rst_warm_n still low a reset follows at once. (DESIGN CHOICE, log entry 2) -/
def execPorRelease (id : BitVec 8) (coord : BitVec 16) (march hold : Bool) (s : State) : Out :=
  .next (if s.hw.rst.mode ≠ .por then s else
    let s := startUp false id coord march hold { s with hw := (s.hw.modRst (fun it => { it with porLow := false })) }
    if s.hw.rst.warmLow then enterReset .warmPor s else s)

/-- The count at the release edge of a warm reset: the next one on which all four clocks rise together, and not before the slice's
own reset has lasted 16 CLK_C cycles (R411, R425). (DEDUCED, log entry 92) -/
def releaseCyc (h : Hw) : Nat :=
  let t := match h.rst.own with | some t => max (now h) (t + 64) | none => now h
  (t + 11) / 12 * 12

/-- The release of a warm reset, carried out as the kind it is. -/
def warmRelease (id : BitVec 8) (coord : BitVec 16) (march hold : Bool) (s : State) : State :=
  let h := s.hw.modRst (fun it => { it with warmLow := false })
  let at_ := fun (n : Nat) => { s with hw := (h.setCyc (BitVec.ofNat 64 n)) }
  match h.rst.mode with
  | .warm => startUp true id coord march hold (at_ (releaseCyc h))
  | .warmPor => startUp false id coord march hold (at_ 0)
  | _ => { s with hw := h }

/-- WARM_RESET_RELEASE (R411). -/
def execWarmResetRelease (id : BitVec 8) (coord : BitVec 16) (march hold : Bool) (s : State) : Out :=
  .next (warmRelease id coord march hold s)

/-! ### Start-up (R416 to R423) -/

/-- The unlocked CACHE ways of failed banks wait to be disabled (R339, R420). -/
def failedWays (h : Hw) : Hw :=
  (List.range 32).foldl (fun h b =>
    let w := b / 2
    if (pwr h b).dead ∧ wayMode h w = 0 ∧ ¬ h.home.locked.contains w ∧ ¬ disQueued h w ∧ ¬ h.prot.dis.any (fun d => decide (d.1 = w))
    then disAdd w h else h) h

/-- FILL or MARCH ends, once no way is left to disable: HOLD or READY (R416, R420). (DEDUCED, log entry 90) -/
def bootNext (h : Hw) : Hw :=
  if h.prot.dis.isSome ∨ h.prot.disWait ≠ [] then h
  else if h.rst.hold then (h.modRst (fun it => { it with boot := .hold, bootCyc := now h })) else enterReady h

/-- The banks that have not failed. -/
def liveBanks (h : Hw) : BitVec 32 := BitVec.ofNat 32 (maskOf ((List.range 32).filter (fun b => !(pwr h b).dead)))

/-- The start-up march begins (R419). -/
def bootMarch (h : Hw) : Hw :=
  let h := h.modRst (fun it => { it with boot := .march, bootCyc := now h, marched := true })
  failedWays (marchStart true true (liveBanks h) true h)

/-- The POWER step ends (R417). -/
def powerDone (h : Hw) : Hw :=
  if h.rst.boot ≠ .power ∨ !((List.range 32).all (fun b => (pwr h b).dead || ((pwr h b).st == .on))) then h
  else if h.rst.march then bootMarch h
  else failedWays (h.modRst (fun it => { it with boot := .fill, bootCyc := now h }))

/-- STARTUP_POWER_DONE (R417). -/
def execStartupPowerDone (s : State) : Out := .next (act (fun _ h => powerDone h) s)

/-- A bank fails at start-up (R417). (DEDUCED, log entry 91) -/
def bootBankTmo (c : Cells Word) (b : Nat) (h : Hw) : Hw :=
  let p := pwr h b
  if h.rst.boot ≠ .power ∨ 32 ≤ b ∨ p.dead ∨ p.st = .on ∨ p.onAt.isSome ∨
    clkC h < h.rst.bootCyc / 4 + cf c 7 0x58 15 0 then h
  else bankFails c b (err 7 1 h)

/-- STARTUP_BANK_TMO (R417). -/
def execStartupBankTmo (bank : Nat) (s : State) : Out := .next (act (fun c h => bootBankTmo c bank h) s)

/-- The zero fill ends, and with it the step unless a way is still to be disabled (R418, R420). -/
def fillEnd (h : Hw) : Hw :=
  if h.rst.boot ≠ .fill ∨ clkM h < h.rst.bootCyc / 2 + 16384 then h
  else bootNext ((h.modArr (fun it => { it with words := [] })).modHome (fun it => { it with tags := [], sf := [] }))

/-- ZERO_FILL_DONE (R418). -/
def execZeroFillDone (s : State) : Out := .next (act (fun _ h => fillEnd h) s)

/-- The start-up march ends, and with it the step unless a way is still to be disabled (R419, R420, R431). -/
def bootMarchEnd (h : Hw) : Hw :=
  match h.prot.march with
  | some m =>
    if !m.boot ∨ clkM h < m.endAt then h
    else bootNext (marchZero m (h.modProt (fun it => { it with march := none })))
  | none => if h.rst.boot = .march then bootNext h else h

/-- STARTUP_MARCH_DONE (R419). -/
def execStartupMarchDone (s : State) : Out := .next (act (fun _ h => bootMarchEnd h) s)

/-- RELEASE is taken (R421, R427). (DEDUCED, log entry 93) -/
def releaseTake (fill : Bool) (c : Cells Word) (h : Hw) : Hw :=
  let stat := b2n fill * 256 + 1
  let ext := fun (h : Hw) => (h.modRst (fun it => { it with boot := .extfill, bootCyc := now h }))
  if h.rst.boot ≠ .hold ∨ (fill ∧ h.glp.fill.isSome) then cmdTaken 0 stat 5 h
  else
    let h := cmdTaken 0 stat 0 h
    if !fill then (if h.glp.fill.isSome then ext h else enterReady h)
    else if cf c 14 0x68 27 0 = 0 then enterReady h
    else ext (fillStart c true (put 14 0x20 (2 ^ 31 + (roGet h (rg 14 0x20)).toNat % 2 ^ 31) h))

/-- RELEASE (R421). -/
def execRelease (fill : Bool) (s : State) : Out := .next (act (releaseTake fill) s)

/-! ### Warm reset by command (R424, R425) -/

/-- WARM_RESET is taken: of the SP responses, those of executed accesses may still transfer.
(DESIGN CHOICE, log entry 23) -/
def warmTake (fill : Bool) (h : Hw) : Hw :=
  let h := cmdTaken 0 (b2n fill * 256 + 2) 0 h
  if h.rst.cmd.isSome then h else
  let ready := (h.path.spOut.filter (·.isSome)).length
  ((h.modRst (fun it => { it with cmd := some (now h) })).modPath (fun it => { it with spMay := some ready }))

/-- WARM_RESET (R424). -/
def execWarmReset (fill : Bool) (s : State) : Out := .next (act (fun _ h => warmTake fill h) s)

/-- The commanded reset asserts in the CLK_C cycle after its completion has left, or 64 CLK_C cycles after it was taken. -/
def warmDue (h : Hw) : Bool :=
  match h.rst.cmd with
  | some t => decide (t / 4 + 64 ≤ clkC h) || (match h.rst.cmdLeft with | some l => decide (l / 4 < clkC h) | none => false)
  | none => false

/-- WARM_RESET_TAKE_EFFECT (R424). -/
def execWarmResetTakeEffect (s : State) : Out :=
  .next (if running s.hw && warmDue s.hw then
      enterReset (warmKind s.hw) { s with hw := (s.hw.modRst (fun it => { it with own := some (now s.hw) })) }
    else s)

end Sys2Proof.Machine
end

