-- ==== Sys2Proof/Machine/View.lean ====
section
/-! DEFINITION. What a read of a register returns: the page headers (R478 to R482), the registers that show the slice's present
state (R491 and the tables of each page), the array pages (R486), and the capture of a high word (R8, R488). -/
namespace Sys2Proof.Machine

/-! ### Capabilities (R435, R485) -/

/-- SLC.CAP of a version 3.1.0 slice. (DEDUCED, log entry 13) -/
def capWord : Word := 0x000AFFFF

/-- The bit of SLC.CAP on which a page depends (R485). -/
def pageCap (p : Nat) : Option Nat :=
  match p with
  | 3 => some 0 | 10 => some 1 | 11 => some 5 | 12 => some 2 | 13 => some 6 | 14 => some 7 | 15 => some 8 | 23 => some 11
  | 25 => some 10
  | _ => if 44 ≤ p ∧ p ≤ 59 then some 11 else none

/-- The unit of this offset is present; otherwise every access completes with DECERR (R485, R486). -/
def offCap (o : Nat) : Bool :=
  (match pageCap (o / 0x1000) with | some b => bit capWord b | none => true) &&
    (bit capWord 9 || !(decide (rg 24 0xC0 ≤ o) && decide (o ≤ rg 24 0x164)))

/-- The access is to a register: aligned, inside configuration space, of a unit that is present (R10, R477, R485). -/
def offOk (o : Nat) : Bool := decide (o % 4 = 0) && decide (o < 0x40000) && offCap o

/-! ### Fields placed in a word -/

/-- A word from pairs of a value and the bit at which it stands. -/
def word (l : List (Nat × Nat)) : Word := BitVec.ofNat 32 (l.foldl (fun n p => n + p.1 <<< p.2) 0)

/-- The mask of the bits for which `f` holds among the low `n`. -/
def maskBy (n : Nat) (f : Nat → Bool) : Word := BitVec.ofNat 32 (maskOf ((List.range n).filter f))

/-! ### Pages 0 to 8 -/

/-- SLC.BOOT_STAT.STEP (R416). -/
def bootCode (b : Boot) : Nat :=
  match b with | .power => 0 | .fill => 1 | .march => 2 | .hold => 3 | .extfill => 4 | .ready => 5

/-- VP.STAT.STATE (R396). -/
def vpCode (v : VpState) : Nat := match v with | .disabled => 0 | .training => 1 | .up => 2 | .down => 3

/-- ALLOC.BANK_PWR of a bank (R55); a failed bank shows Changing (R339). -/
def pwrCode (p : Pwr) : Nat :=
  if p.dead then 3 else match p.st with | .on => 0 | .ret => 1 | .off => 2 | .chg => 3

/-- MP.CRED of the VC that MP.CRED_SEL names (R381). (DESIGN CHOICE, log entry 35) -/
def credView (c : Cells Word) (h : Hw) : Word :=
  let v := cf c 2 0x44 3 0
  if 9 < v then Config.selOpen (rg 2 0x48) v &&& 0x1F00FF
  else word [(if h.ports.initDone then 16 - (cGet [] h.ports.ing v).length else 0, 16), (cGet 0 h.ports.crd v % 256, 0)]

/-- VP.REPAIR of the group that VP.REPAIR_SEL names (R400, R408). -/
def repairView (c : Cells Word) (h : Hw) : Word :=
  let g := cf c 3 0x50 4 0
  if 16 < g then Config.selOpen (rg 3 0x54) (cf c 3 0x50 8 0) &&& 0x13F3F
  else
    let w := cGet 0 h.vp.repair (32 * cf c 3 0x50 8 8 + g)
    word [(fld w 21 21, 16), (fld w 20 15, 8), (fld w 14 9, 0)]

/-- Registers of pages 0 to 8 that show the present state (R102, R103, R381, R383, R385, R408, R426, R435, R484, R490). -/
def view0 (c : Cells Word) (h : Hw) (p r : Nat) : Option Word :=
  match p, r with
  | 0, 0x40 => some 0x00030100
  | 0, 0x44 => some (h.rst.id.setWidth 32)
  | 0, 0x48 => some capWord
  | 0, 0x4C => some (h.rst.coord.setWidth 32)
  | 0, 0x50 => some (h.cyc.setWidth 32)
  | 0, 0x54 => some ((h.cyc >>> 32).setWidth 32)
  | 0, 0x5C => some (word [(b2n h.rst.warm, 8), (b2n h.rst.filled, 5), (b2n h.rst.marched, 4), (bootCode h.rst.boot, 0)])
  | 0, 0x60 => some (BitVec.ofNat 32 (errSum c h))
  | 1, 0x40 => some 0x08040302
  | 2, 0x40 => some (word [(b2n (h.ports.initDone && h.ports.initOwed.isEmpty), 0)])
  | 2, 0x48 => some (credView c h)
  | 2, 0x4C => some (word [(h.ports.mtags.length, 0)])
  | 3, 0x40 => some (word [(h.vp.pgen.toNat, 24), (h.vp.gen.toNat, 16), (h.vp.attempt % 4, 8), (h.vp.width % 4, 4), (vpCode h.vp.state, 0)])
  | 3, 0x48 => some (word [(h.vp.gmaskTx.toNat, 16), (h.vp.gmaskRx.toNat, 0)])
  | 3, 0x54 => some (repairView c h)
  | 3, 0x58 => some (h.vp.failed.setWidth 32)
  | 4, 0x40 => some (word [(h.xp.rds.length, 0)])
  | 5, 0x40 => some (((roGet h (rg 5 0x40) ^^^ 0xF00) &&& 0xF00) ||| maskBy 4 (irqLevel c h))
  | 7, 0x40 => some (word ((List.range 16).map (fun w => (wayMode h w % 4, 2 * w))))
  | 7, 0x44 => some (maskBy 16 (fun w => h.home.locked.contains w))
  | 7, 0x48 => some (word ((List.range 16).map (fun b => (pwrCode (pwr h b), 2 * b))))
  | 7, 0x4C => some (word ((List.range 16).map (fun b => (pwrCode (pwr h (16 + b)), 2 * b))))
  | 7, 0x5C => some (maskBy 16 (wayDirty h))
  | 8, 0x4C => some (maskBy 32 (fun i => h.home.fenced.contains (BitVec.ofNat 12 (32 * cf c 8 0x48 6 0 + i))))
  | 8, 0x60 => some (word [(cCount h.home.sf (fun _ e => (e.dir != .di) || e.rsv), 0)])
  | 8, 0x64 => some (word [(cCount h.home.sf (fun _ e => (e.dir != .di) && e.coarse), 0)])
  | _, _ => none

/-! ### Pages 9 to 16 -/

/-- SEL.REC_INFO of the record that SEL.REC_SEL names (R212). -/
def recView (c : Cells Word) (h : Hw) : Word :=
  match cFind h.units.recs (cf c 13 0x44 9 0) with
  | some r => word [(b2n r.valid, 31), (r.way, 24), (b2n r.smallest, 22), (r.vtype, 20), (r.log2k, 16), (r.set, 0)]
  | none => 0

/-- GLP.CHAN_STAT.STATE (R227). -/
def chanCode (s : ChanSt) : Nat :=
  match s with
  | .idle => 0 | .loading => 1 | .running => 2 | .draining => 3 | .done => 4 | .error => 5 | .stopped => 6

/-- The channel is in LOADING, RUNNING or DRAINING. -/
def chanActive (h : Hw) (n : Nat) : Bool :=
  match (chanAt h n).st with | .loading | .running | .draining => true | _ => false

/-- QOS.GRP_STAT of the group that QOS.GRP_SEL names (R271). -/
def levelView (c : Cells Word) (h : Hw) : Nat :=
  let g := cf c 16 0x48 7 0
  levelOf c (windowStart c h) { iseq := 0, label := 0, group := g, tc := tcOf c g, low := false, charge := true }

/-- Registers of pages 9 to 16 that show the present state (R131, R148, R164, R212, R248, R251, R271). -/
def view1 (c : Cells Word) (h : Hw) (p r : Nat) : Option Word :=
  let chan := chanAt h (cf c 14 0x50 4 0)
  match p, r with
  | 9, 0x6C => some (word [(h.core.fences.length, 0)])
  | 10, 0x40 => some (word [(h.near.alb.length, 0)])
  | 11, 0x48 => some (word [(h.units.events.length, 0)])
  | 11, 0x4C => some (word [((queEnabled h).length, 0)])
  | 13, 0x48 => some (recView c h)
  | 13, 0x4C => some (word [((h.units.recs.filter (fun p => p.2.valid)).length, 0)])
  | 14, 0x54 => some (word [(chan.result.toNat, 4), (chanCode chan.st, 0)])
  | 14, 0x58 => some (BitVec.ofNat 32 (chan.desc / 64 * 64))
  | 14, 0x5C => some (BitVec.ofNat 32 (chan.desc / 2 ^ 32))
  | 14, 0x60 => some (maskBy 32 (chanActive h))
  | 15, 0x48 => some (word [(slotsFree h, 0)])
  | 15, 0x50 =>
    let k := 32 * cf c 15 0x4C 19 16 + cf c 15 0x4C 4 0
    some (word [(b2n ((cFind h.reel.mem k).join).isSome, 31), ((cGet 0 h.reel.memRid k).toNat, 0)])
  | 16, 0x4C => some (BitVec.ofNat 32 (cGet 0 (windowStart c h).qos.charge (cf c 16 0x48 7 0) % 2 ^ 22))
  | 16, 0x50 => some (word [(levelView c h, 0)])
  | 16, 0x58 => some (word [(tc0OutAll h, 0)])
  | _, _ => none

/-! ### Pages 17 to 25 -/

/-- LRT.ENT of the entry that LRT.ENT_SEL names (R315). -/
def lrtView (c : Cells Word) (h : Hw) : Word :=
  match cFind h.prot.lrt (cf c 19 0x48 4 0) with
  | some (w, s, n) => word [(1, 31), (n, 24), (w, 20), (s, 0)]
  | none => 0

/-- Word `k` of a log entry (R324). -/
def logWord (e : LogEnt) (k : Nat) : Word :=
  let r := e.rep
  match k with
  | 0 => word [(1, 31), (r.kind % 64, 24), (b2n r.place, 23), (r.cls % 16, 16), (min r.count 0xFFFF, 0)]
  | 1 => BitVec.ofNat 32 r.src
  | 2 => BitVec.ofNat 32 (r.src / 2 ^ 32 % 2 ^ 13)
  | 3 => r.wmask
  | 4 => word [(r.last.toNat, 16), (r.rid.toNat, 0)]
  | 5 => e.seq
  | 6 => r.cyc
  | _ => r.lastCyc

/-- The fault record with this index lies between HEAD and TAIL (R349). -/
def fltLive (h : Hw) (i : Nat) : Bool := decide ((i + 256 - rf h 21 0x48 7 0) % 256 < fltOcc h)

/-- FLT.REC0 to REC3 of the record that FLT.SEL names (R349). -/
def fltWord (c : Cells Word) (h : Hw) (k : Nat) : Word :=
  let i := cf c 21 0x58 7 0
  match cFind h.diag.recs i with
  | none => 0
  | some r =>
    match k with
    | 0 => word [(b2n (fltLive h i), 31), (b2n r.multi, 30), (r.kind % 4, 28), (r.atype % 4, 24), (min r.count 0xFFFF, 0)]
    | 1 => BitVec.ofNat 32 r.page
    | 2 => word [(r.win % 1024, 16), (r.page / 2 ^ 32 % 256, 0)]
    | _ => word [(r.label.toNat, 16), (r.rid.toNat, 0)]

/-- GAV.STAT.STEP (R353). -/
def gavCode (g : GavStep) : Nat :=
  match g with | .idle => 0 | .hold => 1 | .sort => 2 | .repair => 3 | .replay => 4 | .release => 5

/-- Word `k` of a sample entry (R471). -/
def smpWord (s : Sample) (k : Nat) : Word :=
  match k with
  | 0 => word [(s.num % 65536, 16), (s.rid.toNat, 0)]
  | 1 => word [(s.label.toNat, 16), (s.tc % 4, 12), (b2n s.vp, 8), (s.type % 64, 0)]
  | 2 => word [(b2n s.lost, 31), (b2n s.replayed, 30), (s.valid.toNat, 16), (s.outcome % 16, 8), (s.resp.toNat, 0)]
  | 3 => s.addr.setWidth 32
  | 4 => (s.addr >>> 32).setWidth 32
  | _ => if k ≤ 11 then cGet 0 s.stamps (k - 4) else 0

/-- Registers of pages 17 to 25 that show the present state (R309, R315, R324, R347, R349, R353, R455, R471, R475). -/
def view2 (c : Cells Word) (h : Hw) (p r : Nat) : Option Word :=
  match p, r with
  | 17, 0x94 => some (word [(h.prot.retry.length, 0)])
  | 19, 0x40 => some (word [(h.prot.lrt.length, 0)])
  | 19, 0x4C => some (lrtView c h)
  | 20, 0x40 => some (word [(h.diag.log.length, 0)])
  | 21, 0x50 => some (word [(fltOcc h, 0)])
  | 21, 0x70 => some (fltWord c h 0)
  | 21, 0x74 => some (fltWord c h 1)
  | 21, 0x78 => some (fltWord c h 2)
  | 21, 0x7C => some (fltWord c h 3)
  | 22, 0x44 => some (word [(b2n h.diag.gav.failed, 8), (gavCode h.diag.gav.step, 0)])
  | 22, 0x48 => some (h.diag.gav.cause.setWidth 32)
  | 23, 0x54 => some (word [(((List.range 1024).filter (fun w => bit (winWord c w 0) 0)).length, 0)])
  | 25, 0x50 => some (word [(smpOcc h, 0)])
  | 20, r =>
    if 0x800 ≤ r then
      some (match cFind h.diag.log ((r - 0x800) / 32) with | some e => logWord e (r % 32 / 4) | none => 0)
    else none
  | 25, r =>
    if 0x400 ≤ r ∧ r < 0x800 then
      some (match cFind h.perf.buf ((r - 0x400) / 64) with | some s => smpWord s (r % 64 / 4) | none => 0)
    else none
  | _, _ => none

/-! ### Registers of two words (R488) -/

/-- The number whose low word stands at this offset: the cycle count, the byte counters, the compatibility counters, the live
counters. -/
def wideAt (h : Hw) (o : Nat) : Option (BitVec 64) :=
  let n := fun (base num : Nat) => if base ≤ o ∧ o < base + 8 * num ∧ (o - base) % 8 = 0 then some ((o - base) / 8) else none
  if o = rg 0 0x50 then some h.cyc
  else match n (rg 16 0x100) 4, n (rg 16 0x200) 64, n (rg 24 0x108) 8, n 0x3C000 160 with
    | some t, _, _, _ => some (cGet 0 h.qos.tcBytes t)
    | _, some b, _, _ => some (cGet 0 h.qos.blkBytes b)
    | _, _, some k, _ => some ((cGet 0 h.perf.pc k).setWidth 64)
    | _, _, _, some e => some ((cGet 0 h.perf.ctr e).setWidth 64)
    | _, _, _, _ => if o = rg 24 0x100 then some ((cGet 0 h.perf.pc 8).setWidth 64) else none

/-- Low word of such a number. -/
def lowOf (x : BitVec 64) : Word := x.setWidth 32
/-- High word of such a number. -/
def highOf (x : BitVec 64) : Word := (x >>> 32).setWidth 32

/-- The capture register of an access path (R488). -/
def capOfPath (h : Hw) (p : Path) : Option (Nat × Word) :=
  match p with | .sp => h.path.capSp | .mp => h.path.capMp | .vp => h.path.capVp

/-- Set the capture register of an access path. -/
def setCap (p : Path) (v : Nat × Word) (h : Hw) : Hw :=
  h.setPath (match p with
    | .sp => { h.path with capSp := some v }
    | .mp => { h.path with capMp := some v }
    | .vp => { h.path with capVp := some v })

/-- A read of a low word captures the high word for its path (R8, R488). -/
def capture (p : Path) (o : Nat) (h : Hw) : Hw :=
  match wideAt h o with
  | some x => setCap p (o, highOf x) h
  | none => h

/-- The high word as a path reads it: the captured one while the capture names this register, else the live one. -/
def highFor (p : Path) (o : Nat) (h : Hw) (x : BitVec 64) : Word :=
  match capOfPath h p with
  | some (lo, v) => if lo + 4 = o then v else highOf x
  | none => highOf x

/-! ### A read -/

/-- The header of block page `p` (R478 to R483). -/
def headerView (c : Cells Word) (h : Hw) (p r : Nat) : Word :=
  match r with
  | 0x00 => word [(h.rst.id.toNat, 16), (p, 0)]
  | 0x04 => 0x0301
  | 0x0C =>
    let busy := if p = 8 then bit (roGet h (rg 8 0x44)) 31 else pgBusy h p
    word [(b2n busy, 31), (b2n (pgIrq c h p), 1), (b2n (roGet h (rg p 0x10) != 0), 0)]
  | 0x10 => roGet h (rg p 0x10)
  | 0x14 => cfgGet c (rg p 0x14)
  | 0x20 => roGet h (rg p 0x20)
  | _ => 0

/-- A register of pages 32 to 63 that is not a plain software-written word: OUT of a label (R253), the window counters (R449), the
shadow page (R461). -/
def arrayView (c : Cells Word) (h : Hw) (o : Nat) : Word :=
  if o < 0x24000 then cfgGet c o ||| word [(outOf h (BitVec.ofNat 12 ((o - 0x20000) / 4)) % 2 ^ 15, 16)]
  else if 0x3D000 ≤ o ∧ o < 0x3E000 then cGet 0 h.perf.shadow (o - 0x3D000)
  else cfgGet c o ||| roGet h o

/-- What a read of a register returns; a register that no other clause names stands in one of the two files, and an offset in
neither reads zero (R12). -/
def regView (p : Path) (c : Cells Word) (h : Hw) (o : Nat) : Word :=
  match wideAt h o, (if 4 ≤ o then wideAt h (o - 4) else none) with
  | some x, _ => lowOf x
  | none, some x => highFor p o h x
  | none, none =>
    let pg := o / 0x1000
    let r := o % 0x1000
    if 32 ≤ pg then arrayView c h o
    else if 26 ≤ pg then 0
    else if r < 0x40 then headerView c h pg r
    else match view0 c h pg r, view1 c h pg r, view2 c h pg r with
      | some x, _, _ => x
      | _, some x, _ => x
      | _, _, some x => x
      | none, none, none => cfgGet c o ||| roGet h o

end Sys2Proof.Machine
end

