-- ==== Sys2Proof/Machine/RegPath.lean ====
section
/-! DEFINITION. Writes of registers (R10 to R14, R478 to R489) and what some of them start: page commands, the checksum gate (R444),
the counters and the sampler (R461 to R467, R472), message-signalled interrupts (R379); and the register queue (R23, R377). -/
namespace Sys2Proof.Machine

/-! ### The checksum gate (R442 to R445) -/

/-- The word at this offset is covered. -/
def isCovered (o : Nat) : Bool :=
  decide (o % 4 = 0) &&
    (decide (0x28000 ≤ o ∧ o < 0x2C000) || decide (o = rg 6 0x4C) || decide (rg 6 0x100 ≤ o ∧ o < rg 6 0x200))

/-- A write of MAP.HMT_CSUM starts a check, or starts it anew (R444). -/
def hmtStart (c : Cells Word) (h : Hw) : Hw :=
  let h := hmtEnd c h
  roSet (rg 6 0x44) 0x80000000 (h.modUnits (fun it => { it with hmt := some (clkC h) }))

/-- A covered word is written: the gate closes, and a running check ends (R444). -/
def hmtClose (c : Cells Word) (h : Hw) : Hw :=
  let h := hmtEnd c h
  let st := roGet h (rg 6 0x44)
  if h.units.hmt.isSome then roSet (rg 6 0x44) 4 (h.modUnits (fun it => { it with hmt := none }))
  else roSet (rg 6 0x44) (st &&& 0xFFFFFFFE) h

/-- A write of MAP.HMT_CSUM. -/
def csumWrite (d : Word) (s : State) : State :=
  let h := hmtStart s.cfg s.hw
  { s with cfg := cfgPut s.cfg (rg 6 0x40) d, hw := h }

/-- A write of a covered word. -/
def coveredWrite (o : Nat) (d : Word) (s : State) : State :=
  let h := hmtClose s.cfg s.hw
  { s with cfg := cfgPut s.cfg o d, hw := h }

/-! ### Counters and the sampler -/

/-- Values of two words, low and high, at a shadow offset. -/
def shadowWide (o : Nat) (x : BitVec 48) (m : Cells Word) : Cells Word :=
  cPut 0 (cPut 0 m o (x.setWidth 32)) (o + 4) ((x >>> 32).setWidth 32)

/-- SNAP is taken: the counters as they stood at the end of the last CLK_P cycle go into the shadow page (R461, R473).
(DEDUCED, log entry 31) -/
def snapTake (h : Hw) : Hw :=
  let m := (List.range 160).foldl (fun m e =>
    shadowWide (8 * e) (cGet 0 h.perf.ctr e - BitVec.ofNat 48 (cGet 0 h.perf.inc e)) m) []
  let m := shadowWide 0x500 (cGet 0 h.perf.pc 8) m
  let m := (List.range 8).foldl (fun m k => shadowWide (0x508 + 8 * k) (cGet 0 h.perf.pc k) m) m
  let m := (List.range 6).foldl (fun m k =>
    cPut 0 m (0x580 + 4 * k) (roGet h (if k = 5 then rg 24 0xC0 else rg 24 (0x80 + 4 * k)))) m
  let t := h.cyc - 1
  let h := cntW 24 0x50 1 (roPut (rg 24 0x4C) (highOf t) (roPut (rg 24 0x48) (lowOf t) h))
  cmdTaken 24 1 0 (h.modPerf (fun it => { it with shadow := m }))

/-- The compatibility counter whose word stands at this offset, and whether it is the high word: 0 to 7 PCk, 8 CC (R474). -/
def compatAt (o : Nat) : Option (Nat × Bool) :=
  if rg 24 0x100 ≤ o ∧ o < rg 24 0x148 ∧ o % 4 = 0 then
    let i := (o - rg 24 0x100) / 4
    some (if i < 2 then 8 else (i - 2) / 2, decide (i % 2 = 1))
  else none

/-- A write of a word of a compatibility counter; the increment of this CLK_P cycle is discarded (R465). -/
def compatWrite (k : Nat) (high : Bool) (d : Word) (h : Hw) : Hw :=
  let x := cGet 0 h.perf.pc k
  let lo : BitVec 32 := if high then x.setWidth 32 else d
  let hi : BitVec 16 := if high then d.setWidth 16 else (x >>> 32).setWidth 16
  let v : BitVec 48 := (hi ++ lo).setWidth 48
  (h.modPerf (fun it => { it with
    pc := cPut 0 it.pc k v, wrote := if it.wrote.contains k then it.wrote else it.wrote ++ [k] }))

/-- The offset is that of PMU.EVSELk or PMU.CC_CTRL. -/
def isEvsel (o : Nat) : Bool :=
  decide (o = rg 24 0xC8) || (decide (rg 24 0x148 ≤ o ∧ o < rg 24 0x168) && decide (o % 4 = 0))

/-- A write of SMP.HEAD: from the present HEAD up to TAIL, modulo 32 (R472). -/
def smpHead (d : Word) (h : Hw) : Hw :=
  let n := fld d 4 0
  if (n + 32 - rf h 25 0x48 4 0) % 32 ≤ smpOcc h then put 25 0x48 n h else err 25 0 h

/-- A write of SMP.SEED loads the LFSR, 0 loading 1 (R467). (DEDUCED, log entry 32) -/
def seedWrite (d : Word) (s : State) : State :=
  let v : BitVec 23 := d.setWidth 23
  { s with cfg := cfgPut s.cfg (rg 25 0x44) d, hw := (s.hw.modPerf (fun it => { it with lfsr := if v = 0 then 1 else v })) }

/-- A write of PMU.MODE (R463); without the compatibility mode it stays 0 (R485). -/
def modeWrite (d : Word) (s : State) : State :=
  if bit capWord 9 then { s with cfg := cfgPut s.cfg (rg 24 0x40) d } else s

/-! ### Message-signalled interrupts (R379) -/

/-- Place of the notes on ARMED in this CLK_C cycle: written in [3:0], newly armed in [7:4], sent in [11:8]. -/
def armNote : Nat := rg 5 0x44

/-- ARMED[n]; the register keeps the bits inverted, so that it is 0xF after reset. -/
def armed (h : Hw) (n : Nat) : Bool := !(bit (roGet h (rg 5 0x40)) (8 + n))

/-- A write of SP.MSI_ARM. -/
def armWrite (d : Word) (h : Hw) : Hw :=
  let off := roGet h (rg 5 0x40)
  let w := d &&& 0xF
  let fresh := (off >>> 8) &&& w
  noteHw armNote (w ||| (fresh <<< 4)) (roPut (rg 5 0x40) (off &&& ~~~ (w <<< 8)) h)

/-- Interrupt `n` is due to be sent in this CLK_C cycle: enabled, armed before it, its condition high, and not sent in it.
(DEDUCED, log entry 25) -/
def msiDue (c : Cells Word) (h : Hw) (n : Nat) : Bool :=
  let w := wroteNow h armNote
  decide (n < 4) && bit (cfgGet c (rg 5 (0x50 + 8 * n))) 31 && armed h n && irqLevel c h n && !(bit w (4 + n)) && !(bit w (8 + n))

/-- The IntMsg of interrupt `n` is queued and ARMED[n] clears, unless it was written in this CLK_C cycle. -/
def msiSend (c : Cells Word) (n : Nat) (h : Hw) : Hw :=
  if !(msiDue c h n) then h else
  let cfg := cfgGet c (rg 5 (0x50 + 8 * n))
  let label : Label := BitVec.ofNat 12 (fld cfg 27 16)
  let m : OutMsg := {
    hdr := fromSlice h { type := 0x3D, dst := cfg.setWidth 16, label := label, arg2 := cfgGet c (rg 5 (0x54 + 8 * n)) }
    iseq := h.core.nextSeq }
  let off := roGet h (rg 5 0x40)
  let h := if bit (wroteNow h armNote) n then h else roPut (rg 5 0x40) (setBit off (8 + n) true) h
  send .mp (vcOf 3 (tcOf c (groupOf c label))) m (noteHw armNote (BitVec.ofNat 32 (2 ^ (8 + n))) h)

/-! ### Page commands (R483) -/

/-- The fields of PG_CMD that PG_CMD_STAT shows, where they stand at the same place. -/
def cmdFields (p : Nat) : Word :=
  match p with
  | 0 => 0x1FF | 9 => 0xFFF | 11 => 0x3FFFFF | 13 => 0x3FFFF | 14 => 0x1FFF | 15 => 0x3FFF | 17 => 0xFFF | 19 => 0x3FFF0FFF
  | 20 => 0x3FFF | _ => 0xFF

/-- A command with an undefined CODE: DECERR is recorded and nothing else happens. (DEDUCED, log entry 15) -/
def cmdUndefined (p : Nat) (d : Word) (h : Hw) : Hw :=
  cmdTaken p (if p = 7 then fld d 13 12 * 2 ^ 14 + fld d 11 8 * 2 ^ 8 + fld d 7 0 else (d &&& cmdFields p).toNat) 3 h

/-- Commands of pages 0 to 13. -/
def pageCmd0 (c : Cells Word) (p : Nat) (d : Word) (h : Hw) : Option Hw :=
  let way := fld d 11 8
  match p, fld d 7 0 with
  | 0, 1 => some (releaseTake (bit d 8) c h)
  | 0, 2 => some (warmTake (bit d 8) h)
  | 3, 1 => some (vpRetrain c h)
  | 3, 2 => some (vpDisable c h)
  | 7, 1 => some (setModeTake way (fld d 13 12) c h)
  | 7, 2 => some (lockTake way (fld d 13 12) c h)
  | 7, 3 => some (unlockTake way (fld d 13 12) c h)
  | 9, code => if 1 ≤ code ∧ code ≤ 9 then some (mntTake code way c h) else none
  | 11, code => if 1 ≤ code ∧ code ≤ 4 then some (queTake code (fld d 21 8) c h) else none
  | 13, 1 => some (selDefine (fld d 17 8) c h)
  | 13, 2 => some (selTake 2 (fld d 17 8) c h)
  | 13, 3 => some (selTake 3 (fld d 17 8) c h)
  | _, _ => none

/-- Commands of pages 14 to 24. -/
def pageCmd1 (c : Cells Word) (p : Nat) (d : Word) (h : Hw) : Option Hw :=
  let way := fld d 11 8
  let chan := fld d 12 8
  let ctx := fld d 13 8
  match p, fld d 7 0 with
  | 14, 1 => some (glpStart chan c h)
  | 14, 2 => some (glpStop chan c h)
  | 14, 3 => some (glpClear chan c h)
  | 14, 4 => some (glpFill chan c h)
  | 15, 1 => some (reelDefine ctx c h)
  | 15, 2 => some (reelStart ctx c h)
  | 15, 3 => some (reelStop ctx c h)
  | 15, 4 => some (reelRenew ctx c h)
  | 15, 5 => some (reelReadTake ctx c h)
  | 15, 6 => some (reelRelease ctx c h)
  | 16, 1 => some (clrCounters h)
  | 17, 1 => some (scrubStart way c h)
  | 17, 2 => some (scrubStop way c h)
  | 17, 3 => some (chkTake 3 .chkWrite way c h)
  | 17, 4 => some (chkTake 4 .chkRead way c h)
  | 17, 5 => some (clrWay way c h)
  | 18, 1 => some (marchRun c h)
  | 18, 2 => some (marchStop h)
  | 19, 1 => some (lrtMapTake way (fld d 29 16) c h)
  | 19, 2 => some (lrtUnmapTake way (fld d 29 16) c h)
  | 20, 1 => some (logFreeTake ctx (fld d 31 16) h)
  | 20, 2 => some (logFreeAllTake ctx h)
  | 22, 1 => some (recoverTake c h)
  | 24, 1 => some (snapTake h)
  | _, _ => none

/-- The pages that define commands (R485). -/
def pageHasCmd (p : Nat) : Bool := [0, 3, 7, 9, 11, 13, 14, 15, 16, 17, 18, 19, 20, 22, 24].contains p

/-- A write of PG_CMD of page `p`. -/
def pageCmd (c : Cells Word) (p : Nat) (d : Word) (h : Hw) : Hw :=
  if !(pageHasCmd p) then h
  else match pageCmd0 c p d h, pageCmd1 c p d h with
    | some h, _ => h
    | none, some h => h
    | none, none => cmdUndefined p d h

/-! ### A write (R487) -/

/-- A write that changes the slice's own part only: sticky bits, commands, injections, pointers, staging words, counters. -/
def writeHw (c : Cells Word) (o : Nat) (d : Word) (h : Hw) : Option Hw :=
  let p := o / 0x1000
  if w1cMask o ≠ 0 then some (clearSticky o d h)
  else if p < 26 ∧ o % 0x1000 = 0x1C then some (pageCmd c p d h)
  else if o = rg 17 0x18 then some (eccInj d h)
  else if o = rg 22 0x18 then some (gavInj d h)
  else if o = rg 5 0x44 then some (armWrite d h)
  else if o = rg 8 0x40 then some (fenceOp c (fld d 17 16) (BitVec.ofNat 12 (fld d 11 0)) h)
  else if (rg 11 0x80 ≤ o ∧ o < rg 11 0xC0) ∨ (rg 15 0x80 ≤ o ∧ o < rg 15 0xC0) ∨ o = rg 17 0x70 then some (swPut o d h)
  else if o = rg 17 0x74 then some (swPut o (d &&& 0x7F) h)
  else if o = rg 15 0x50 then some (groupWriteReg c d h)
  else if o = rg 21 0x48 then some (fltHead d h)
  else if o = rg 25 0x48 then some (smpHead d h)
  else (compatAt o).map (fun k => compatWrite k.1 k.2 d h)

/-- A write of a register: its effect, and nothing for an access that is none (R10) or an offset that no register has (R12).
(DEDUCED, log entry 14) -/
def regWrite (o : Nat) (d : Word) (s : State) : State :=
  if !(offOk o) then s
  else if isCovered o then coveredWrite o d s
  else if o = rg 0 0x58 then { s with cfg := cfgPutCtrl s.cfg d }
  else if o = rg 6 0x40 then csumWrite d s
  else if o = rg 16 0x40 then tc0Write d s
  else if o = rg 16 0x44 then { s with cfg := cfgPut s.cfg o d, hw := windowMark s.cfg s.hw }
  else if rg 16 0x800 ≤ o ∧ o < rg 17 0 ∧ o % 8 = 4 then
    { s with cfg := cfgPut s.cfg o d, hw := unitsKeep s.cfg ((o - rg 16 0x800) / 8) s.hw }
  else if o = rg 24 0x40 then modeWrite d s
  else if o = rg 25 0x44 then seedWrite d s
  else match writeHw s.cfg o d s.hw with
    | some h => { s with hw := h }
    | none => { s with cfg := cfgPut s.cfg o d }

/-- What follows a register write at once. -/
def settled (s : State) : State := { s with hw := settle s.cfg s.hw }

/-- A register write taken out of reset. -/
def actReg (f : State → State) (s : State) : State := if running s.hw then settled (f s) else s

/-- A read of a register: its effects beside the value returned (R162, R488). -/
def regRead (p : Path) (o : Nat) (s : State) : Word × State :=
  if !(offOk o) then (0, s)
  else
    let h := hmtEnd s.cfg s.hw
    if o = rg 11 0x44 then
      let (v, h) := evtRead h
      (v, { s with hw := h })
    else (regView p s.cfg h o, { s with hw := capture p o h })

/-- MSI_SEND (R379). -/
def execMsiSend (n : Nat) (s : State) : Out := .next (act (fun c h => msiSend c n h) s)
/-- MSI_ARM_WRITE (R379). -/
def execMsiArmWrite (data : BitVec 32) (s : State) : Out := .next (act (fun _ h => armWrite data h) s)
/-- HMT_CSUM_WRITE (R444). -/
def execHmtCsumWrite (data : BitVec 32) (s : State) : Out := .next (actReg (csumWrite data) s)
/-- HMT_CHECK_DONE (R444). -/
def execHmtCheckDone (s : State) : Out := .next (act hmtEnd s)
/-- COVERED_WORD_WRITE (R444). -/
def execCoveredWordWrite (off : Nat) (data : BitVec 32) (s : State) : Out :=
  .next (if isCovered off then actReg (coveredWrite off data) s else s)
/-- PMU_SNAP (R461). -/
def execPmuSnap (s : State) : Out := .next (act (fun _ h => snapTake h) s)
/-- PMU_MODE_WRITE (R463). -/
def execPmuModeWrite (data : BitVec 32) (s : State) : Out := .next (actReg (modeWrite data) s)
/-- COMPAT_COUNTER_WRITE (R465). -/
def execCompatCounterWrite (off : Nat) (data : BitVec 32) (s : State) : Out :=
  .next (match compatAt off with | some k => act (fun _ h => compatWrite k.1 k.2 data h) s | none => s)
/-- EVSEL_WRITE (R465). -/
def execEvselWrite (off : Nat) (data : BitVec 32) (s : State) : Out :=
  .next (if isEvsel off then actReg (fun s => { s with cfg := cfgPut s.cfg off data }) s else s)
/-- SMP_HEAD_WRITE (R472). -/
def execSmpHeadWrite (data : BitVec 32) (s : State) : Out := .next (act (fun _ h => smpHead data h) s)
/-- SMP_SEED_WRITE (R467). -/
def execSmpSeedWrite (data : BitVec 32) (s : State) : Out := .next (actReg (seedWrite data) s)
/-- LOW_WORD_READ (R488). -/
def execLowWordRead (path : Path) (off : Nat) (s : State) : Out := .next (act (fun _ h => capture path off h) s)
/-- W1C_WRITE (R13). -/
def execW1cWrite (off : Nat) (data : BitVec 32) (s : State) : Out :=
  .next (act (fun _ h => if w1cMask off = 0 then h else clearSticky off data h) s)
/-- SLC_CTRL_WRITE (R14). -/
def execSlcCtrlWrite (data : BitVec 32) (s : State) : Out := .next (actReg (fun s => { s with cfg := cfgPutCtrl s.cfg data }) s)
/-- REGISTER_WRITE (R487). -/
def execRegisterWrite (off : Nat) (data : BitVec 32) (s : State) : Out := .next (actReg (regWrite off data) s)

/-! ### The register queue (R23, R377) -/

/-- An access from SP or TP enters the queue; those of the mesh of the same CLK_C cycle follow at its end (R23). -/
def spEnter (a : Access) (h : Hw) : Hw :=
  h.modPath (fun it => { it with queue := it.queue ++ [{ a with at_ := clkC h }] })

/-- The address of an SP access has bits other than zero in [31:18] or [1:0]. -/
def spBad (addr : Word) : Bool := decide (addr.toNat % 4 ≠ 0) || decide (2 ^ 18 ≤ addr.toNat)

/-- An access that arrives as SP's do. -/
def spAccess (k : Carrier) (write : Bool) (addr data : Word) : Access :=
  { carrier := k, write := write, off := addr.toNat, data := data, bad := spBad addr }

/-- sp_req_ready: the queue has a free entry and fewer than four requests are outstanding. -/
def spReady (h : Hw) : Bool := decide (h.path.queue.length < 16) && decide (h.path.spOut.length < 4)

/-- An SP request transfers. -/
def spRequest (write : Bool) (addr data : Word) (h : Hw) : Hw :=
  if !(spReady h) then h else
  let h := spEnter (spAccess .sp write addr data) h
  (h.modPath (fun it => { it with spOut := it.spOut ++ [none] }))

/-- SP_REQUEST (R377). -/
def execSpRequest (write : Bool) (addr data : BitVec 32) (s : State) : Out :=
  .next (act (fun _ h => spRequest write addr data h) s)

/-- The oldest SP response transfers, once its access has executed. After WARM_RESET only those that R424 names still do. -/
def spResponse (h : Hw) : Hw :=
  match h.path.spOut with
  | some r :: rest =>
    let p := { h.path with spOut := rest, spPins := some r }
    if h.rst.cmd.isNone then h.setPath p
    else match h.path.spMay with
      | some (n + 1) =>
        let left := decide (n = 0) && h.path.spCarries
        ((h.setPath { p with spMay := some n }).setRst (if left then { h.rst with cmdLeft := some (now h) } else h.rst))
      | _ => h
  | _ => h

/-- SP_RESPONSE (R377). -/
def execSpResponse (s : State) : Out := .next (act (fun _ h => spResponse h) s)

/-- The access path that an access counts as: TP counts as SP (R488). -/
def pathOf (k : Carrier) : Path :=
  match k with | .sp | .tp => .sp | .mesh .mp _ _ _ => .mp | .mesh .vp _ _ _ => .vp

/-- An access takes effect: the value read, its response code, and what it leaves. -/
def accessDo (a : Access) (s : State) : Word × BitVec 3 × State :=
  if a.bad then (0, 3, { s with hw := err 5 0 (cnt 5 0x70 1 s.hw) })
  else if !(offOk a.off) then (0, 3, s)
  else if a.write then (0, 0, regWrite a.off a.data s)
  else
    let (v, s) := regRead (pathOf a.carrier) a.off s
    (v, 0, s)

/-- Fill the first response place that is still open. -/
def fillFirst (r : Word × BitVec 3) : List (Option (Word × BitVec 3)) → List (Option (Word × BitVec 3))
  | [] => []
  | none :: l => some r :: l
  | some x :: l => some x :: fillFirst r l

/-- The response of an executed access goes to its carrier. `took` = it took WARM_RESET (R424). -/
def accessReply (a : Access) (v : Word) (code : BitVec 3) (took : Bool) (h : Hw) : Hw :=
  let mine := fun (x : Access) => match x.carrier with | .tp => true | _ => false
  let h := match a.carrier with
    | .sp => (h.modPath (fun it => { it with spOut := fillFirst (v, code) it.spOut }))
    | .tp =>
      h.modPath (fun it => { it with
          tpDone := !((it.queue ++ it.tpWait).any mine), tpCode := code, tpData := v })
    | .mesh p x n tc =>
      let y := { compHdr h x x.tti 0x36 code with arg2 := v }
      send p (vcOf 3 tc) { hdr := y, note := if took then .warm n else .req n, iseq := n } h
  if !took then h else
  match a.carrier with
  | .sp =>
    let ready := (h.path.spOut.filter (·.isSome)).length
    (h.modPath (fun it => { it with spMay := some ready, spCarries := true }))
  | .tp => (h.modRst (fun it => { it with cmdLeft := some (now h) }))
  | .mesh .. => h

/-- The access that executes next: the oldest; in the failed hold the oldest of SP and TP (R343).
(DEDUCED, log entry 21) -/
def accessNext (h : Hw) : Option Access :=
  if h.diag.gav.failed then
    h.path.queue.find? (fun a => match a.carrier with | .mesh .. => false | _ => true)
  else h.path.queue.head?

/-- One access of the register queue executes (R23). -/
def queueExec (s : State) : State :=
  match accessNext s.hw with
  | none => s
  | some a =>
    let p := s.hw.path
    let s := { s with hw := ev 0x89 1 (s.hw.setPath { p with queue := dropFirst (fun x => x == a) p.queue }) }
    let before := s.hw.rst.cmd.isSome
    let (v, code, s) := accessDo a s
    let took := !before && s.hw.rst.cmd.isSome
    settled { s with hw := accessReply a v code took s.hw }

/-- At the end of a CLK_C cycle accesses enter the register queue behind those that SP brought in it, while there is room: those of
TP, then the mesh's in arrival order (R23, R430). -/
def queueFill (h : Hw) : Hw :=
  let room := 16 - h.path.queue.length
  let h := (h.path.tpWait.take room).foldl (fun h a => spEnter a h) h
  let h := h.modPath (fun it => { it with tpWait := it.tpWait.drop room })
  let room := 16 - h.path.queue.length
  let h := h.modPath (fun it => { it with queue := it.queue ++ it.mesh.take room, mesh := it.mesh.drop room })
  let room := if h.path.mesh.isEmpty then 16 - h.path.queue.length else 0
  let l := (h.core.adm.filter (fun r => isCfg r.kind)).take room
  let h := h.modCore (fun it => { it with adm := it.adm.filter (fun r => !(l.any (fun x => decide (x.iseq = r.iseq)))) })
  h.modPath (fun it => { it with queue := it.queue ++ l.map (fun r => meshAccess r (clkC h)) })

end Sys2Proof.Machine
end

