-- ==== Sys2Proof/Machine/TestPort.lean ====
section
/-! DEFINITION. The Test Port: the wrapper instruction register (R428, R429), SLC_REGACC (R430), SLC_MBIST (R431), and the boundary
register under WS_EXTEST (R406). Shifts go towards tp_wso from bit 0, and tp_wsi enters at the highest bit.
(PRESUMED, log entry 122) -/
namespace Sys2Proof.Machine

/-- Change the wrapper. -/
def setTp (f : RegPath → RegPath) (s : State) : State := { s with hw := (s.hw.setPath (f s.hw.path)) }

/-- The instruction that a code selects; every code that is not listed acts as WS_BYPASS (R429). -/
def tpInstr (code : BitVec 8) : BitVec 8 :=
  if code = 0x01 ∨ code = 0x02 ∨ code = 0x10 ∨ code = 0x11 then code else 0

/-- A register of the wrapper after one shift (R428). (PRESUMED, log entry 122) -/
def tpShift {n : Nat} (wsi : Bool) (x : BitVec n) : BitVec n := (x >>> 1) ||| (BitVec.ofBool wsi).setWidth n <<< (n - 1)

/-- A wrapper operation on the instruction register, or on the bypass register where that is the selected data register (R429). -/
def wirDo (op : WirOp) (s : State) : State :=
  let open_ := Config.tpOpen s.hw.free
  let bypassed := decide (tpInstr s.hw.path.wir = 0)
  match op with
  | .capture => { s with hw := drew (s.hw.modPath (fun p => { p with wirShift := open_.setWidth 8 })) }
  | .shift wsi => setTp (fun p => { p with wirShift := tpShift wsi p.wirShift, wso := p.wirShift.getLsbD 0 }) s
  | .update => setTp (fun p => { p with wir := p.wirShift }) s
  | .bypassCapture => if bypassed then { s with hw := drew (s.hw.modPath (fun p => { p with bypass := open_.getLsbD 0 })) } else s
  | .bypassShift wsi => if bypassed then setTp (fun p => { p with bypass := wsi, wso := p.bypass }) s else s

/-- TP_INSTRUCTION (R428, R429). -/
def execTpInstruction (op : WirOp) (s : State) : Out := .next (wirDo op s)

/-- WRAPPER_RESET (R429): tp_wrstn sets the instruction register to WS_BYPASS. (DEDUCED, log entry 26) -/
def execWrapperReset (s : State) : Out := .next (setTp (fun p => { p with wir := 0 }) s)

/-- An SLC_REGACC update starts an access, which enters the register queue as an SP access does, or waits for a place (R430).
(DESIGN CHOICE, log entry 27) -/
def tpAccess (v : BitVec 68) (h : Hw) : Hw :=
  let a := spAccess .tp (v.getLsbD 67) (v.extractLsb' 32 32) (v.extractLsb' 0 32)
  let h := h.modPath (fun it => { it with tpDone := false })
  if h.path.queue.length < 16 then spEnter a h
  else h.modPath (fun it => { it with tpWait := it.tpWait ++ [a] })

/-- What a capture of SLC_REGACC brings: DONE, the response code and the read data (R430). No rule names bits [63:32].
(DESIGN CHOICE, log entry 122) -/
def regAccView (h : Hw) : BitVec 68 :=
  BitVec.ofBool h.path.tpDone ++ h.path.tpCode ++ (Config.tpOpen h.free).extractLsb' 0 32 ++ h.path.tpData

/-- TP_REGACC (R430): in a reset an update clears DONE and starts no access. -/
def execTpRegacc (op : TpOp) (s : State) : Out :=
  .next (
    if tpInstr s.hw.path.wir ≠ 0x10 then s
    else match op with
      | .capture => { s with hw := drew (s.hw.modPath (fun p => { p with regAcc := regAccView s.hw })) }
      | .shift wsi => setTp (fun p => { p with regAcc := tpShift wsi p.regAcc, wso := p.regAcc.getLsbD 0 }) s
      | .update =>
        if running s.hw then { s with hw := tpAccess s.hw.path.regAcc s.hw }
        else setTp (fun p => { p with tpDone := false }) s)

/-- BUSY of a page clears; its result stays as it is. -/
def dropBusy (p : Nat) (h : Hw) : Hw := roPut (rg p 0x20) (setBit (roGet h (rg p 0x20)) 31 false) h

/-- What the start-up march clears beside the banks when SLC_MBIST starts it: tags, snoop filter, stream buffer, TT, ALB and Jig
(R418, R419). Work under way in them is lost, and the commands that it belonged to are no longer BUSY.
(DESIGN CHOICE, log entry 29) -/
def mbistClear (h : Hw) : Hw :=
  let banks := h.arr.banks.foldl (fun b p => cPut Bank.idle b p.1 { p.2 with pend := [], cur := none, fly := [] }) []
  let u := { Units.init with events := h.units.events, recs := h.units.recs, hmt := h.units.hmt }
  let h := h.modCore (fun it => { it with tt := [], adm := it.adm.filter (fun r => r.port.isSome) })
  let h := h.modHome (fun it => { it with tags := [], sf := [], sweep := none })
  let h := h.modArr (fun it => { it with banks := banks })
  let h := h.setNear { Near.init with stamp := h.near.stamp }
  let h := h.modReel (fun it => { it with sbuf := [] })
  let h := h.modXp (fun it => { it with wait := [] })
  let h := (h.modProt (fun it => { it with scrub := none, chk := none })).setUnits u
  let h := if bit (roGet h (rg 8 0x44)) 31 then roPut (rg 8 0x44) (setBit (roGet h (rg 8 0x44)) 31 false) h else h
  [9, 11, 13, 17, 18, 19].foldl (fun h p => dropBusy p h) h

/-- SLC_MBIST starts the start-up march in the HOLD step (R431). -/
def mbistStart (v : BitVec 64) (h : Hw) : Hw :=
  if tpInstr h.path.wir ≠ 0x11 ∨ !(v.getLsbD 0) ∨ h.rst.boot ≠ .hold then h else bootMarch (mbistClear h)

/-- What a capture of SLC_MBIST brings (R431). -/
def mbistView (h : Hw) : BitVec 64 :=
  let busy : Bool := match h.prot.march with | some m => m.boot | none => false
  let spareBad := (bitsOf (roGet h (rg 19 0x44)).toNat 32).length
  BitVec.ofBool busy ++ BitVec.ofBool (bit (roGet h (rg 19 0x10)) 1) ++ BitVec.ofNat 6 h.prot.lrt.length ++
    (roGet h (rg 18 0x4C)).setWidth 16 ++ roGet h (rg 18 0x48) ++ 0#2 ++ BitVec.ofNat 6 spareBad

/-- TP_MBIST (R431). -/
def execTpMbist (op : TpOp) (s : State) : Out :=
  .next (
    if tpInstr s.hw.path.wir ≠ 0x11 then s
    else match op with
      | .capture => setTp (fun p => { p with mbist := mbistView s.hw }) s
      | .shift wsi => setTp (fun p => { p with mbist := tpShift wsi p.mbist, wso := p.mbist.getLsbD 0 }) s
      | .update => act (fun _ h => mbistStart h.path.mbist h) s)

/-- The boundary register shifts by one cell: the core segment, then VPTX, then VPRX, then tp_wso (R406, R429). Cells of the core
segment that nothing has been shifted into hold 0. (DESIGN CHOICE, log entry 19) (DEDUCED, log entry 28) -/
def boundaryShift (wsi : Bool) (p : RegPath) : RegPath :=
  let l := wsi :: p.coreSeg
  let shift := fun (b : Bool) (x : BitVec 579) => (x <<< 1) ||| (BitVec.ofBool b).setWidth 579
  { p with coreSeg := l.take Config.coreLen, vptx := shift (l.getD Config.coreLen false) p.vptx
           vprx := shift (p.vptx.getLsbD 578) p.vprx, wso := p.vprx.getLsbD 578 }

/-- A boundary operation under WS_EXTEST (R406). -/
def boundaryDo (op : BoundaryOp) (p : RegPath) : RegPath :=
  if tpInstr p.wir ≠ 0x01 then p
  else match op with
    | .capture rx => { p with vprx := rx }
    | .shift wsi => boundaryShift wsi p
    | .update => { p with txPins := p.vptx }

/-- The levels of the transmit wires at the pins: under WS_EXTEST those that the last update put there (R406). -/
def vpTxPins (c : Cells Word) (h : Hw) (b : Nat) : Wires := if tpInstr h.path.wir = 0x01 then h.path.txPins else txWires c h b

/-- EXTEST_BOUNDARY_UPDATE (R406). -/
def execExtestBoundaryUpdate (op : BoundaryOp) (s : State) : Out := .next (setTp (boundaryDo op) s)

end Sys2Proof.Machine
end

