-- ==== Sys2Proof/Machine/Tick.lean ====
section
/-! DEFINITION. The passing of one CLK_P cycle: the events that count with time alone (R457 to R459), compatibility counting
(R463 to R465), the crossing of MP and its credit pulses (R355, R357, R358), and the register queue at a CLK_C edge (R23). -/
namespace Sys2Proof.Machine

/-! ### Occupancy events (R458) -/

/-- A port has a flit ready and no VC with a ready flit holds a credit. -/
def noCredit (c : Cells Word) (h : Hw) (p : Port) : Bool :=
  let ready := (List.range 10).filter (fun v => match egNext c h p v with | some m => !(egressHeld h m) | none => false)
  !ready.isEmpty && ready.all (fun v => decide (cGet 0 h.ports.crd (portKey p v) = 0))

/-- A port withholds REQ credits: the request at the head of a REQ VC waits for a full section (R27). -/
def reqStopped (h : Hw) (p : Port) : Bool :=
  [0, 1].any (fun vc => (cFind h.core.dec (portKey p vc)).isSome)

/-- Requests in the admission buffer that the transaction table takes. -/
def waiting (h : Hw) : List Req := h.core.adm.filter (fun r => needsTt r && (r.sect != .int))

/-- Entries that wait with this act at the head of what they do. -/
def heldAt (h : Hw) (a : Act) : Nat := cCount h.core.tt (fun _ e => e.busy && (e.todo.head? == some a))

/-- A bank issued an operation in the present CLK_M cycle. -/
def issuedNow (h : Hw) (b : Nat) : Bool := (bank h b).last == some (clkM h)

/-- Banks in which an operation that meets `f` is pending and which meet `g`. -/
def banksWith (h : Hw) (f : BankOp → Bool) (g : Nat → Bool) : Nat :=
  ((List.range 33).filter (fun b => g b && (bank h b).pend.any f)).length

/-- Bank cycles in which a Galop operation was pending and not granted (R248). -/
def glpStalled (h : Hw) : Nat := banksWith h (fun op => op.master == some .galop) (fun _ => true)

/-- The events that add with every CLK_P cycle: number and increment. -/
def steadyEvents (c : Cells Word) (h : Hw) : List (Nat × Nat) := [
  (0x00, 1), (0x29, b2n (noCredit c h .mp)), (0x2A, b2n ((h.vp.state == .up) && noCredit c h .vp)),
  (0x31, sectUse h .hi), (0x32, sectUse h .lo),
  (0x33, ((waiting h).filter (fun r => !(capOk c h r))).length),
  (0x34, ((waiting h).filter (fun r => (pickPool h r.elig false).isNone)).length),
  (0x35, b2n (reqStopped h .mp) + b2n (reqStopped h .vp)), (0x36, h.core.tt.length),
  (0x57, h.xp.rds.length), (0x58, h.xp.wait.length),
  (0x60, ((List.range 32).filter (fun b => (pwr h b).st == .ret)).length), (0x6C, heldAt h .jig),
  (0x80, cCount h.core.tt (fun i e => e.busy && (e.todo.head? == some .merge) && !(h.units.merge.any (fun m => decide (m.2.1 = i))))),
  (0x9C, b2n (gavBusy h))]

/-- The events that add once in every CLK_M cycle, counted in its second CLK_P cycle. (DEDUCED, log entry 30) -/
def bankEvents (c : Cells Word) (h : Hw) : List (Nat × Nat) :=
  if now h % 2 = 0 then [] else [
    (0x5C, banksWith h (fun op => (demandOf c h 0 op).isSome) (fun b => !(issuedNow h b))),
    (0x5D, ((List.range 32).filter (fun b => ((pwr h b).st == .on) && !(pwr h b).dead && !(issuedNow h b))).length),
    (0x82, glpStalled h)]

/-- Every event that time alone counts in this CLK_P cycle. -/
def timeEvents (c : Cells Word) (h : Hw) : List (Nat × Nat) := steadyEvents c h ++ bankEvents c h

/-- They are counted. -/
def countTime (c : Cells Word) (h : Hw) : Hw :=
  let stall := if now h % 2 = 0 then 0 else glpStalled h
  cntW 14 0x74 stall ((timeEvents c h).foldl (fun h e => ev e.1 e.2 h) h)

/-! ### Compatibility counters (R463 to R465) -/

/-- The level of the event that EVSELk selects, in this CLK_P cycle; above 0x9F it is 0. -/
def selLevel (c : Cells Word) (h : Hw) (k : Nat) : Bool :=
  let e := cf c 24 (0x148 + 4 * k) 7 0
  decide (e < 160) && decide (cGet 0 h.perf.inc e ≠ 0)

/-- Counter `k` adds 1 in this CLK_P cycle: 0 to 7 PCk, 8 CC. -/
def compatAdds (c : Cells Word) (h : Hw) (k : Nat) : Bool :=
  decide (cf c 24 0x40 0 0 = 1) && !(h.perf.wrote.contains k) &&
    (if k = 8 then decide (cf c 24 0xC8 0 0 = 1)
     else decide (cf c 24 (0x148 + 4 * k) 31 31 = 1) && selLevel c h k &&
       (decide (cf c 24 (0x148 + 4 * k) 8 8 = 0) || !(cGet false h.perf.prev k)))

/-- One compatibility counter at the end of a CLK_P cycle; a wrap sets its bit of PMU.CMP_OVF. -/
def compatStep (k : Nat) (h : Hw) : Hw :=
  let v := cGet 0 h.perf.pc k
  let h := h.modPerf (fun it => { it with pc := cPut 0 it.pc k (v + 1) })
  if v + 1 = 0 then sticky (rg 24 0xC0) (BitVec.ofNat 32 (2 ^ k)) h else h

/-- The compatibility counters at the end of a CLK_P cycle, and what the next one needs of it. -/
def compatEnd (c : Cells Word) (h : Hw) : Hw :=
  let adds := (List.range 9).filter (compatAdds c h)
  let prev := (List.range 8).foldl (fun m k => cPut false m k (selLevel c h k)) []
  let h := adds.foldl (fun h k => compatStep k h) h
  (h.modPerf (fun it => { it with inc := [], wrote := [], prev := prev }))

/-! ### MP -/

/-- The VCs for which mp_in_crd returns a credit in this cycle: one flit each; REQ credits wait while Gavotte runs (R335). -/
def creditVcs (h : Hw) : List Nat :=
  if !h.ports.initDone then [] else
  (List.range 10).filter (fun v => decide (0 < cGet 0 h.ports.owed v) && !(gavBusy h && decide (v < 2)))

/-- The pulses of one cycle. -/
def creditPulse (h : Hw) : Hw :=
  let l := creditVcs h
  (h.modPorts (fun it => { it with
    crdPins := BitVec.ofNat 10 (maskOf l), vcrstPins := 0
    owed := l.foldl (fun o v => cPut 0 o v (cGet 0 o v - 1)) it.owed
    initOwed := l.foldl (fun o v => cPut 0 o v (cGet 0 o v - 1)) it.initOwed }))

/-! ### The cycle -/

/-- The count advances (R7). -/
def cycleOn (h : Hw) : Hw := h.setCyc (h.cyc + 1)

/-- The contexts whose lease is spent become EXPIRED at the end of the cycle, behind a STOP of the same cycle (R240, R243). -/
def leasesEnd (c : Cells Word) (h : Hw) : Hw :=
  if gavBusy h then h else (h.reel.ctx.map (·.1)).foldl (fun h n => leaseCheck c n h) h

/-- One CLK_P cycle out of reset. At a CLK_C edge accesses enter the register queue and one executes. -/
def tickRun (s : State) : State :=
  let h := compatEnd s.cfg (countTime s.cfg (leasesEnd s.cfg s.hw))
  let h := fenceDrain (cycleOn (creditPulse (xingMove h)))
  let h := reelFeed s.cfg (xpPresent (mpDepart s.cfg (creditIn h)))
  settled (if now h % 4 = 0 then queueExec { s with hw := queueFill h } else { s with hw := h })

/-- One CLK_P cycle. In a power-on reset the count stays 0 (R7); in a warm reset it alone goes on. -/
def tick (s : State) : State :=
  match s.hw.rst.mode with
  | .run => tickRun s
  | .por => s
  | .warm | .warmPor => { s with hw := cycleOn s.hw }

/-- The value of a counter that time alone moves: a native one, or 0xA0 for CC. -/
def timeCounter (h : Hw) (e : Nat) : BitVec 48 := if e = 0xA0 then cGet 0 h.perf.pc 8 else cGet 0 h.perf.ctr e

/-- The counter carries past 48 bits in this CLK_P cycle through what time alone adds (R459, R464). -/
def timeWraps (c : Cells Word) (h : Hw) (e : Nat) : Bool :=
  let n := if e = 0xA0 then b2n (compatAdds c h 8)
    else ((timeEvents c h).filter (fun p => decide (p.1 = e))).foldl (fun n p => n + p.2) 0
  decide (2 ^ 48 ≤ (timeCounter h e).toNat + n)

/-- CYCLES_COUNTER_WRAP (R459): the CLK_P cycle in which that counter wraps. -/
def execCyclesCounterWrap (event : Nat) (s : State) : Out :=
  .next (if running s.hw && timeWraps s.cfg s.hw event then tick s else s)

end Sys2Proof.Machine
end

