-- ==== Sys2Proof/Machine/Dispatch.lean ====
section
/-! DEFINITION. The dispatch: one arm for each command, each a call of its meaning. -/
namespace Sys2Proof.Machine

/-- What a command does to everything but the queue of waiting commands. -/
def exec (i : Instr) (s : State) : Host.Outcome State Fault Refusal :=
  match i with
  | .porAssert => Sys2Proof.Machine.execPorAssert s
  | .porRelease id coord march hold => Sys2Proof.Machine.execPorRelease id coord march hold s
  | .warmResetAssert => Sys2Proof.Machine.execWarmResetAssert s
  | .warmResetRelease id coord march hold => Sys2Proof.Machine.execWarmResetRelease id coord march hold s
  | .warmReset fill => Sys2Proof.Machine.execWarmReset fill s
  | .warmResetTakeEffect => Sys2Proof.Machine.execWarmResetTakeEffect s
  | .startupPowerDone => Sys2Proof.Machine.execStartupPowerDone s
  | .startupBankTmo bank => Sys2Proof.Machine.execStartupBankTmo bank s
  | .zeroFillDone => Sys2Proof.Machine.execZeroFillDone s
  | .startupMarchDone => Sys2Proof.Machine.execStartupMarchDone s
  | .release fill => Sys2Proof.Machine.execRelease fill s
  | .pwrAckRise bank => Sys2Proof.Machine.execPwrAckRise bank s
  | .pwrAckFall bank => Sys2Proof.Machine.execPwrAckFall bank s
  | .pwrHandshakeTmo bank => Sys2Proof.Machine.execPwrHandshakeTmo bank s
  | .bankOnDelay bank => Sys2Proof.Machine.execBankOnDelay bank s
  | .retentionIdleExpire bank => Sys2Proof.Machine.execRetentionIdleExpire bank s
  | .mpFlitIn vc isHdr flit emptyRead => Sys2Proof.Machine.execMpFlitIn vc isHdr flit emptyRead s
  | .mpInitCredits => Sys2Proof.Machine.execMpInitCredits s
  | .mpOutCredit vc => Sys2Proof.Machine.execMpOutCredit vc s
  | .mpFlitOut mtag xing => Sys2Proof.Machine.execMpFlitOut mtag xing s
  | .mpVcrstIn vc => Sys2Proof.Machine.execMpVcrstIn vc s
  | .mpVcrstWaitDone vc => Sys2Proof.Machine.execMpVcrstWaitDone vc s
  | .malformedMsg p vc => Sys2Proof.Machine.execMalformedMsg p vc s
  | .staleMsg p vc => Sys2Proof.Machine.execStaleMsg p vc s
  | .readShared p vc => Sys2Proof.Machine.execReadShared p vc s
  | .readOwn p vc => Sys2Proof.Machine.execReadOwn p vc s
  | .readNoSnoop p vc => Sys2Proof.Machine.execReadNoSnoop p vc s
  | .writeInvalidate p vc => Sys2Proof.Machine.execWriteInvalidate p vc s
  | .writePartialInvalidate p vc => Sys2Proof.Machine.execWritePartialInvalidate p vc s
  | .atomic p vc => Sys2Proof.Machine.execAtomic p vc s
  | .accumulate p vc => Sys2Proof.Machine.execAccumulate p vc s
  | .tangoRead p vc => Sys2Proof.Machine.execTangoRead p vc s
  | .fence p vc => Sys2Proof.Machine.execFence p vc s
  | .fenceComplete n => Sys2Proof.Machine.execFenceComplete n s
  | .enqueue p vc => Sys2Proof.Machine.execEnqueue p vc s
  | .dequeue p vc => Sys2Proof.Machine.execDequeue p vc s
  | .enqueueBatch p vc => Sys2Proof.Machine.execEnqueueBatch p vc s
  | .dequeueBatch p vc => Sys2Proof.Machine.execDequeueBatch p vc s
  | .selOffer p vc => Sys2Proof.Machine.execSelOffer p vc s
  | .selOfferPairs p vc => Sys2Proof.Machine.execSelOfferPairs p vc s
  | .selReadReset p vc => Sys2Proof.Machine.execSelReadReset p vc s
  | .selReset p vc => Sys2Proof.Machine.execSelReset p vc s
  | .selMergeStart => Sys2Proof.Machine.execSelMergeStart s
  | .selMergeDone unit => Sys2Proof.Machine.execSelMergeDone unit s
  | .streamctlRenew p vc => Sys2Proof.Machine.execStreamctlRenew p vc s
  | .streamctlStop p vc => Sys2Proof.Machine.execStreamctlStop p vc s
  | .cfgRead p vc => Sys2Proof.Machine.execCfgRead p vc s
  | .cfgWrite p vc => Sys2Proof.Machine.execCfgWrite p vc s
  | .evict p vc tt => Sys2Proof.Machine.execEvict p vc tt s
  | .writeBack p vc tt => Sys2Proof.Machine.execWriteBack p vc tt s
  | .noCopy p vc => Sys2Proof.Machine.execNoCopy p vc s
  | .keptShared p vc => Sys2Proof.Machine.execKeptShared p vc s
  | .passedShared p vc => Sys2Proof.Machine.execPassedShared p vc s
  | .passedGone p vc => Sys2Proof.Machine.execPassedGone p vc s
  | .passedKept p vc => Sys2Proof.Machine.execPassedKept p vc s
  | .wbInFlight p vc => Sys2Proof.Machine.execWbInFlight p vc s
  | .passedDirty p vc => Sys2Proof.Machine.execPassedDirty p vc s
  | .lineBack p vc => Sys2Proof.Machine.execLineBack p vc s
  | .fwdDataToHome p vc => Sys2Proof.Machine.execFwdDataToHome p vc s
  | .compAck p vc => Sys2Proof.Machine.execCompAck p vc s
  | .agentFence p vc => Sys2Proof.Machine.execAgentFence p vc s
  | .fenceSnoopComplete tt cai => Sys2Proof.Machine.execFenceSnoopComplete tt cai s
  | .mcastResidual p vc => Sys2Proof.Machine.execMcastResidual p vc s
  | .mcastListAck p vc => Sys2Proof.Machine.execMcastListAck p vc s
  | .engineComp p vc => Sys2Proof.Machine.execEngineComp p vc s
  | .admitReq tt => Sys2Proof.Machine.execAdmitReq tt s
  | .lineActivate tt => Sys2Proof.Machine.execLineActivate tt s
  | .sfAllocRetry tt => Sys2Proof.Machine.execSfAllocRetry tt s
  | .snoopTmo tt cai => Sys2Proof.Machine.execSnoopTmo tt cai s
  | .xpSlotGrant tag => Sys2Proof.Machine.execXpSlotGrant tag s
  | .xpReadTransfer tag => Sys2Proof.Machine.execXpReadTransfer tag s
  | .xpReadBeat tag sector data poison => Sys2Proof.Machine.execXpReadBeat tag sector data poison s
  | .xpWriteBeat => Sys2Proof.Machine.execXpWriteBeat s
  | .xpReadTmo tag => Sys2Proof.Machine.execXpReadTmo tag s
  | .bankGrant bank => Sys2Proof.Machine.execBankGrant bank s
  | .bankOpComplete bank upsets => Sys2Proof.Machine.execBankOpComplete bank upsets s
  | .jigEntriesGrant => Sys2Proof.Machine.execJigEntriesGrant s
  | .jigHoldExpire n => Sys2Proof.Machine.execJigHoldExpire n s
  | .albEntryTake tt => Sys2Proof.Machine.execAlbEntryTake tt s
  | .atomicExecute cell => Sys2Proof.Machine.execAtomicExecute cell s
  | .atomicResult cell => Sys2Proof.Machine.execAtomicResult cell s
  | .accGroupIssue cell => Sys2Proof.Machine.execAccGroupIssue cell s
  | .accGroupWrite cell => Sys2Proof.Machine.execAccGroupWrite cell s
  | .cohFence cai => Sys2Proof.Machine.execCohFence cai s
  | .cohUnfence cai => Sys2Proof.Machine.execCohUnfence cai s
  | .cohSweep cai => Sys2Proof.Machine.execCohSweep cai s
  | .cohFenceNop cai => Sys2Proof.Machine.execCohFenceNop cai s
  | .sweepSet => Sys2Proof.Machine.execSweepSet s
  | .setMode way mode => Sys2Proof.Machine.execSetMode way mode s
  | .lock way mode => Sys2Proof.Machine.execLock way mode s
  | .unlock way mode => Sys2Proof.Machine.execUnlock way mode s
  | .setModeDrained => Sys2Proof.Machine.execSetModeDrained s
  | .setModeStepDone => Sys2Proof.Machine.execSetModeStepDone s
  | .cleanPa way => Sys2Proof.Machine.execCleanPa way s
  | .invPa way => Sys2Proof.Machine.execInvPa way s
  | .clinvPa way => Sys2Proof.Machine.execClinvPa way s
  | .cleanSw way => Sys2Proof.Machine.execCleanSw way s
  | .invSw way => Sys2Proof.Machine.execInvSw way s
  | .clinvSw way => Sys2Proof.Machine.execClinvSw way s
  | .preloadLock way => Sys2Proof.Machine.execPreloadLock way s
  | .albFlush way => Sys2Proof.Machine.execAlbFlush way s
  | .albFlushPa way => Sys2Proof.Machine.execAlbFlushPa way s
  | .mntWalkIssue tt => Sys2Proof.Machine.execMntWalkIssue tt s
  | .mntComplete => Sys2Proof.Machine.execMntComplete s
  | .queDefine q => Sys2Proof.Machine.execQueDefine q s
  | .queEnable q => Sys2Proof.Machine.execQueEnable q s
  | .queDisable q => Sys2Proof.Machine.execQueDisable q s
  | .queRead q => Sys2Proof.Machine.execQueRead q s
  | .queCmdDone => Sys2Proof.Machine.execQueCmdDone s
  | .queEvtRead => Sys2Proof.Machine.execQueEvtRead s
  | .selDefine r => Sys2Proof.Machine.execSelDefine r s
  | .selUndefine r => Sys2Proof.Machine.execSelUndefine r s
  | .selCmdReset r => Sys2Proof.Machine.execSelCmdReset r s
  | .selCmdDone => Sys2Proof.Machine.execSelCmdDone s
  | .glpStart chan => Sys2Proof.Machine.execGlpStart chan s
  | .glpStop chan => Sys2Proof.Machine.execGlpStop chan s
  | .glpClear chan => Sys2Proof.Machine.execGlpClear chan s
  | .initFill chan => Sys2Proof.Machine.execInitFill chan s
  | .initFillDone => Sys2Proof.Machine.execInitFillDone s
  | .glpDescLoaded chan => Sys2Proof.Machine.execGlpDescLoaded chan s
  | .glpLineIssue => Sys2Proof.Machine.execGlpLineIssue s
  | .glpDescEnd chan => Sys2Proof.Machine.execGlpDescEnd chan s
  | .glpStatusCommit chan => Sys2Proof.Machine.execGlpStatusCommit chan s
  | .reelDefine ctx => Sys2Proof.Machine.execReelDefine ctx s
  | .reelStart ctx => Sys2Proof.Machine.execReelStart ctx s
  | .reelStop ctx => Sys2Proof.Machine.execReelStop ctx s
  | .reelRenew ctx => Sys2Proof.Machine.execReelRenew ctx s
  | .reelRead ctx => Sys2Proof.Machine.execReelRead ctx s
  | .reelRelease ctx => Sys2Proof.Machine.execReelRelease ctx s
  | .reelGroupWrite data => Sys2Proof.Machine.execReelGroupWrite data s
  | .chunkStart => Sys2Proof.Machine.execChunkStart s
  | .chunkReady ctx => Sys2Proof.Machine.execChunkReady ctx s
  | .streamChunkSend ctx upsets => Sys2Proof.Machine.execStreamChunkSend ctx upsets s
  | .clrCounters => Sys2Proof.Machine.execClrCounters s
  | .windowBoundary => Sys2Proof.Machine.execWindowBoundary s
  | .tc0CfgWrite data => Sys2Proof.Machine.execTc0CfgWrite data s
  | .scrubStart way => Sys2Proof.Machine.execScrubStart way s
  | .scrubStop way => Sys2Proof.Machine.execScrubStop way s
  | .scrubReadIssue bank => Sys2Proof.Machine.execScrubReadIssue bank s
  | .scrubPassEnd => Sys2Proof.Machine.execScrubPassEnd s
  | .chkWrite way => Sys2Proof.Machine.execChkWrite way s
  | .chkRead way => Sys2Proof.Machine.execChkRead way s
  | .chkDone => Sys2Proof.Machine.execChkDone s
  | .clrWay way => Sys2Proof.Machine.execClrWay way s
  | .eccErrInj data => Sys2Proof.Machine.execEccErrInj data s
  | .repairStart tt => Sys2Proof.Machine.execRepairStart tt s
  | .repairStep tt => Sys2Proof.Machine.execRepairStep tt s
  | .wayDisableStart way => Sys2Proof.Machine.execWayDisableStart way s
  | .wayDisableWalk tt => Sys2Proof.Machine.execWayDisableWalk tt s
  | .wayDisableDone => Sys2Proof.Machine.execWayDisableDone s
  | .marchRun => Sys2Proof.Machine.execMarchRun s
  | .marchStop => Sys2Proof.Machine.execMarchStop s
  | .marchRowOp upsets => Sys2Proof.Machine.execMarchRowOp upsets s
  | .marchPassEnd => Sys2Proof.Machine.execMarchPassEnd s
  | .lrtMap way set => Sys2Proof.Machine.execLrtMap way set s
  | .lrtUnmap way set => Sys2Proof.Machine.execLrtUnmap way set s
  | .lrtCmdDone => Sys2Proof.Machine.execLrtCmdDone s
  | .logApply => Sys2Proof.Machine.execLogApply s
  | .logFree index count => Sys2Proof.Machine.execLogFree index count s
  | .logFreeAll index count => Sys2Proof.Machine.execLogFreeAll index count s
  | .fltHeadWrite data => Sys2Proof.Machine.execFltHeadWrite data s
  | .recover => Sys2Proof.Machine.execRecover s
  | .gavErrInj data => Sys2Proof.Machine.execGavErrInj data s
  | .gavHoldEnd => Sys2Proof.Machine.execGavHoldEnd s
  | .gavWaitExpire => Sys2Proof.Machine.execGavWaitExpire s
  | .gavSortDone => Sys2Proof.Machine.execGavSortDone s
  | .gavRepairDone => Sys2Proof.Machine.execGavRepairDone s
  | .bankRepairTmo bank => Sys2Proof.Machine.execBankRepairTmo bank s
  | .gavReplayDone => Sys2Proof.Machine.execGavReplayDone s
  | .gavRelease => Sys2Proof.Machine.execGavRelease s
  | .vpRetrain => Sys2Proof.Machine.execVpRetrain s
  | .vpDisable => Sys2Proof.Machine.execVpDisable s
  | .vpFrameIn ctl data => Sys2Proof.Machine.execVpFrameIn ctl data s
  | .vpFrameOut => Sys2Proof.Machine.execVpFrameOut s
  | .vpReplayLimit => Sys2Proof.Machine.execVpReplayLimit s
  | .vpClockLoss => Sys2Proof.Machine.execVpClockLoss s
  | .vpAckTmo => Sys2Proof.Machine.execVpAckTmo s
  | .vpMarkerLoss => Sys2Proof.Machine.execVpMarkerLoss s
  | .trainPhaseEnd bad => Sys2Proof.Machine.execTrainPhaseEnd bad s
  | .trainWordRx beats => Sys2Proof.Machine.execTrainWordRx beats s
  | .trainAttemptTmo => Sys2Proof.Machine.execTrainAttemptTmo s
  | .spRequest write addr data => Sys2Proof.Machine.execSpRequest write addr data s
  | .spResponse => Sys2Proof.Machine.execSpResponse s
  | .msiSend n => Sys2Proof.Machine.execMsiSend n s
  | .msiArmWrite data => Sys2Proof.Machine.execMsiArmWrite data s
  | .hmtCsumWrite data => Sys2Proof.Machine.execHmtCsumWrite data s
  | .hmtCheckDone => Sys2Proof.Machine.execHmtCheckDone s
  | .coveredWordWrite off data => Sys2Proof.Machine.execCoveredWordWrite off data s
  | .pmuSnap => Sys2Proof.Machine.execPmuSnap s
  | .pmuModeWrite data => Sys2Proof.Machine.execPmuModeWrite data s
  | .compatCounterWrite off data => Sys2Proof.Machine.execCompatCounterWrite off data s
  | .evselWrite off data => Sys2Proof.Machine.execEvselWrite off data s
  | .smpHeadWrite data => Sys2Proof.Machine.execSmpHeadWrite data s
  | .smpSeedWrite data => Sys2Proof.Machine.execSmpSeedWrite data s
  | .lowWordRead path off => Sys2Proof.Machine.execLowWordRead path off s
  | .w1cWrite off data => Sys2Proof.Machine.execW1cWrite off data s
  | .slcCtrlWrite data => Sys2Proof.Machine.execSlcCtrlWrite data s
  | .registerWrite off data => Sys2Proof.Machine.execRegisterWrite off data s
  | .tpInstruction op => Sys2Proof.Machine.execTpInstruction op s
  | .tpRegacc op => Sys2Proof.Machine.execTpRegacc op s
  | .tpMbist op => Sys2Proof.Machine.execTpMbist op s
  | .cyclesCounterWrap event => Sys2Proof.Machine.execCyclesCounterWrap event s
  | .wrapperReset => Sys2Proof.Machine.execWrapperReset s
  | .extestBoundaryUpdate op => Sys2Proof.Machine.execExtestBoundaryUpdate op s

end Sys2Proof.Machine
end

