-- ==== Sys2Proof/Machine/Step.lean ====
section
/-! DEFINITION. One step: the command at the front of the queue, or with none waiting one CLK_P cycle. -/
namespace Sys2Proof.Machine

/-- Take the command at the front of the queue and answer its outcome; with none waiting, one CLK_P cycle passes.
(DESIGN CHOICE, log entry 5) -/
def step (s : State) : Host.Outcome State Fault Refusal :=
  match s.pending with
  | [] => .next (tick s)
  | i :: rest => exec i { s with pending := rest }

/-- The command that a word spells stands at the front of the queue; no row of the table gives bits, so that no word spells one. -/
def State.withFetchWord (s : State) (nbits w : Nat) : State :=
  match decodeTableWord nbits w with
  | some i => { s with pending := i :: s.pending }
  | none => s

end Sys2Proof.Machine
end

