-- ==== Sys2Proof/Safety.lean ====
section
/-! DEFINITION. What counts as a safe run, and the forms of the state that every run keeps. -/
namespace Sys2Proof.Machine

/-- The stored code words are in canonical form: places strictly rising, no word listed that an unlisted place reads as. -/
def Memory.wf (m : Cells Code) : Bool := cWf 0 m

/-- One software-written register as it is stored: it differs from its reset value, and only in bits that software may write
(R11, R489). -/
def cfgEntryWf (p : Nat × Word) : Bool :=
  decide (p.2 ≠ (regRow p.1).rst) && ((p.2 ^^^ (regRow p.1).rst) &&& ~~~((regRow p.1).rw ||| (regRow p.1).rwl) == 0)

/-- The software-written registers are in canonical form, and no bit that software cannot write differs from its reset value. -/
def cfgWf (c : Cells Word) : Bool := cRising 0 c && c.all cfgEntryWf

/-- The step answers a next state. -/
def SafeStep (s : State) : Prop := ∃ t, step s = .next t

/-- A safe run of `n` steps: no step stops. -/
def SafeRun (n : Nat) (s : State) : Prop := ∃ t, core.run n s = .next t

/-- The commands that bring a snoop response (R85): of these a wrong form is excluded by an assumption on the surroundings, and
only these may stop. -/
def answersSnoop : Instr → Bool
  | .noCopy .. | .keptShared .. | .passedShared .. | .passedGone .. | .passedKept .. | .wbInFlight .. | .passedDirty .. | .lineBack .. => true
  | _ => false

/-! ### Terms of the statements -/

/-- The registers that the slice writes read the same in both, but for the listed offsets. -/
def SameRegs (l : List Nat) (a b : Hw) : Prop := ∀ o, o ∉ l → roGet b o = roGet a o

/-- A report with this KIND, FORM, SRC and CLASS waits for the error log (R317, R321). -/
def Reported (kind : Nat) (place : Bool) (src cls : Nat) (h : Hw) : Prop :=
  ∃ r, r ∈ h.diag.rq ∧ r.kind = kind ∧ r.place = place ∧ r.src = src % 2 ^ 45 ∧ r.cls = cls

/-- Gavotte begins its hold step for cause `b`, in round 1; `x`, `u` and `l` are what it has to repair and what it has lost (R333,
R335, R353). -/
def gavBegun (a : Hw) (b : Nat) (x u : List Nat) (l : List (Nat × Nat × BitVec 12)) : Gav :=
  { a.diag.gav with
    step := .hold, start := now a, stepCyc := now a, round := 1, cause := BitVec.ofNat 6 (2 ^ b), tried := [], waited := false
    next := 0, xing := x, unnamed := u, lost := l }

/-- PMU.OVF0 to OVF4, which show the wrap of an event's counter (R459). -/
def regOvf : List Nat := [0x18080, 0x18084, 0x18088, 0x1808C, 0x18090]

/-- What transactions that go on by themselves leave as it is, from `a` to `b`: the count, resets, the register path, the Vertical
Port, regulation, everything of the ports but the messages that wait for egress, fences, way modes and locks, the main banks'
words, every register below page 8, the error log and the fault queue, Gavotte, the event FIFO, the march. With no transaction and
nothing in the ALB they change nothing. -/
structure Further (a b : Hw) : Prop where
  cyc : b.cyc = a.cyc
  rst : b.rst = a.rst
  path : b.path = a.path
  vp : b.vp = a.vp
  qos : b.qos = a.qos
  ports : { b.ports with eg := a.ports.eg } = a.ports
  fenced : b.home.fenced = a.home.fenced
  swept : b.home.swept = a.home.swept
  sweep : b.home.sweep = a.home.sweep
  mode : b.home.mode = a.home.mode
  locked : b.home.locked = a.home.locked
  regs : ∀ o, o < 0x8000 → roGet b o = roGet a o
  words : ∀ k, k < 8388608 → cGet 0 b.arr.words k = cGet 0 a.arr.words k
  fill : b.glp.fill = a.glp.fill
  members : b.reel.mem = a.reel.mem
  log : b.diag.log = a.diag.log
  recs : b.diag.recs = a.diag.recs
  gav : b.diag.gav = a.diag.gav
  events : b.units.events = a.units.events
  march : b.prot.march = a.prot.march
  still : a.core.tt = [] → a.near.alb = [] → b = a

/-- The command completes: its own effect leaves the slice as `P` says, nothing else of the state changes, and then the transactions
go on by themselves. -/
def After (i : Instr) (s : State) (P : Hw → Prop) : Prop :=
  ∃ h, exec i s = .next { s with hw := settle s.cfg h } ∧ P h ∧ Further h (settle s.cfg h)

/-- As `After`, for a command that changes software-written registers too. -/
def AfterCfg (i : Instr) (s : State) (P : Cells Word → Hw → Prop) : Prop :=
  ∃ c h, exec i s = .next { cfg := c, hw := settle c h, pending := s.pending } ∧ P c h ∧ Further h (settle c h)

/-- What the slice holds while a reset is asserted, from the state `s` before it (R410, R414, R415): `warm` for a reset carried out as
a warm one. The wrapper of TP has a reset of its own (R428). -/
structure ResetLeaves (warm : Bool) (s t : State) : Prop where
  pending : t.pending = s.pending
  cfg : ∀ o, o ≠ 0x3044 → cfgGet t.cfg o = (regRow o).rst
  auto : cfgGet t.cfg 0x3044 = setBit 0x00200813 4 (!warm || bit (cfgGet s.cfg 0x3044) 4)
  regs : ∀ o, roGet t.hw o =
    if warm ∧ ((0x11054 ≤ o ∧ o ≤ 0x11060) ∨ o = 0x11068 ∨ (0x1107C ≤ o ∧ o ≤ 0x11090) ∨ o = 0x11098 ∨ o = 0x1109C ∨ (0x110C0 ≤ o ∧ o < 0x11100) ∨ o = 0x13044 ∨
      o = 0x14044 ∨ o = 0x14048 ∨ o = 0x16060) then roGet s.hw o else 0
  arrays : t.hw.arr.words = [] ∧ t.hw.arr.banks = [] ∧ t.hw.reel = Reel.init ∧ t.hw.near = Near.init ∧ t.hw.home = Home.init
  units : t.hw.core = Core.init ∧ t.hw.ports = Ports.init ∧ t.hw.xp = Xp.init ∧ t.hw.glp = Glp.init ∧ t.hw.units = Units.init ∧
    t.hw.qos = Qos.init ∧ t.hw.perf = Perf.init
  remap : t.hw.prot = if warm then { Prot.init with lrt := s.hw.prot.lrt } else Prot.init
  log : t.hw.diag = if warm then { Diag.init with log := s.hw.diag.log, rq := s.hw.diag.rq } else Diag.init
  vp : t.hw.vp = { Vp.init with state := .disabled, attempt := 0, gen := if warm then s.hw.vp.gen else 0 }
  power : ∀ b, b < 32 → (pwr t.hw b).req = false ∧ (pwr t.hw b).st = .chg ∧ (pwr t.hw b).ack = (pwr s.hw b).ack
  path : t.hw.path = { RegPath.init with
    wir := s.hw.path.wir, wirShift := s.hw.path.wirShift, bypass := s.hw.path.bypass, regAcc := s.hw.path.regAcc
    mbist := s.hw.path.mbist, tpDone := s.hw.path.tpDone, tpCode := s.hw.path.tpCode, tpData := s.hw.path.tpData
    vptx := s.hw.path.vptx, vprx := s.hw.path.vprx, coreSeg := s.hw.path.coreSeg, wso := s.hw.path.wso, txPins := s.hw.path.txPins }
  rst : t.hw.rst = { Rst.init with
    mode := t.hw.rst.mode, porLow := t.hw.rst.porLow, warmLow := t.hw.rst.warmLow, own := t.hw.rst.own, id := s.hw.rst.id
    coord := s.hw.rst.coord, march := s.hw.rst.march, hold := s.hw.rst.hold, once := warm, mpRstN := false, xpRstN := false }

/-- A page's command is taken: PG_CMD_STAT shows it (BUSY as it stood), CMD_RESULT its result, and STATE sets CMD_STATE (R332). -/
def CmdTook (p stat code : Nat) (a b : Hw) : Prop :=
  roGet b (rg p 0x20) = BitVec.ofNat 32 (2 ^ 31 * b2n (pgBusy a p) + stat) ∧ roGet b (rg p 0x64) = BitVec.ofNat 32 code ∧
    (code = 5 → bit (roGet b (rg p 0x10)) 0 = true)

/-- A page's command runs: PG_CMD_STAT shows it with BUSY = 1 (R332). -/
def CmdRuns (p stat : Nat) (b : Hw) : Prop := roGet b (rg p 0x20) = BitVec.ofNat 32 (2 ^ 31 + stat)

/-- A page's command ends: BUSY clears and CMD_RESULT shows the result; STATE sets CMD_STATE (R332). -/
def CmdEnds (p code : Nat) (a b : Hw) : Prop :=
  roGet b (rg p 0x20) = BitVec.ofNat 32 ((roGet a (rg p 0x20)).toNat % 2 ^ 31) ∧ roGet b (rg p 0x64) = BitVec.ofNat 32 code ∧
    (code = 5 → bit (roGet b (rg p 0x10)) 0 = true)

/-- PG_CMD_STAT, CMD_RESULT and PG_ERR of a page. -/
def cmdRegs (p : Nat) : List Nat := [rg p 0x20, rg p 0x64, rg p 0x10]

/-- The complete message with header `x` at the head of an ingress buffer has left it, and each of its flits owes one credit; of
the ports nothing else changes but the messages that wait for egress (R357, R358). -/
def MsgGone (p : Port) (vc : Nat) (x : Hdr) (a b : Hw) : Prop :=
  let k := portKey p vc
  let n := x.dfl.toNat + 1
  (∀ j, cGet [] b.ports.ing j = if j = k then (cGet [] a.ports.ing k).drop n else cGet [] a.ports.ing j) ∧
    (∀ j, cGet 0 b.ports.owed j = if j = k then cGet 0 a.ports.owed k + n else cGet 0 a.ports.owed j) ∧
    b.ports = { a.ports with ing := b.ports.ing, owed := b.ports.owed, eg := b.ports.eg }

/-- A message has joined the queue for egress of a VC; every other VC's queue is as before. -/
def Queued (p : Port) (vc : Nat) (m : OutMsg) (a b : Hw) : Prop :=
  ∀ k, cGet [] b.ports.eg k = if k = portKey p vc then cGet [] a.ports.eg k ++ [m] else cGet [] a.ports.eg k

/-- A Comp with this code answers the message with header `x`, in the RSP VC of some class: it goes to the sender with its RTAG,
from the slice (R15, R361, R362, R366). -/
def Answered (p : Port) (x : Hdr) (code : BitVec 3) (a b : Hw) : Prop :=
  ∃ tc m, tc ≤ 3 ∧ Queued p (vcOf 3 tc) m a b ∧ m.hdr.type = 0x36 ∧ m.hdr.resp = code ∧ m.hdr.dst = x.src ∧ m.hdr.rtag = x.rtag ∧
    m.hdr.skind = true ∧ m.hdr.src = a.rst.id.setWidth 16 ∧ m.sent = 0

/-- The command of the table that takes a request with this header, by TYPE and, where a TYPE has several, by its operation
(R134, R166, R184, R243, R364). -/
def reqCmd (p : Port) (vc : Nat) (x : Hdr) : Option Instr :=
  let op := fld x.arg2 4 0
  match x.type.toNat with
  | 1 => some (.readShared p vc)
  | 2 => some (.readOwn p vc)
  | 3 => some (.readNoSnoop p vc)
  | 4 => some (.writeInvalidate p vc)
  | 5 => some (.writePartialInvalidate p vc)
  | 6 => some (if 0x10 ≤ op ∧ op ≤ 0x14 then .accumulate p vc else if op = 0x18 then .tangoRead p vc else .atomic p vc)
  | 7 => some (.fence p vc)
  | 8 => some (.enqueue p vc)
  | 9 => some (.dequeue p vc)
  | 10 => some (.enqueueBatch p vc)
  | 11 => some (.dequeueBatch p vc)
  | 12 => some (.selOffer p vc)
  | 13 => some (.selOfferPairs p vc)
  | 14 => some (.selReadReset p vc)
  | 15 => some (.selReset p vc)
  | 16 => some (if fld x.arg2 1 0 = 2 then .streamctlStop p vc else .streamctlRenew p vc)
  | 17 => some (.cfgRead p vc)
  | 18 => some (.cfgWrite p vc)
  | _ => none

/-- The registers that intake and decode may write: QOS demotions and VC mismatches, the sampler's, and overflow bits (R255, R264,
R468). -/
def regIntake : List Nat := [0x10010, 0x1005C, 0x10060, 0x10068, 0x19010, 0x19058, 0x1905C] ++ regOvf

/-- The command of the table that takes a snoop response of this TYPE (R86). -/
def answerCmd (p : Port) (vc t : Nat) : Option Instr :=
  match t with
  | 0x30 => some (.noCopy p vc)
  | 0x31 => some (.keptShared p vc)
  | 0x32 => some (.passedShared p vc)
  | 0x33 => some (.passedGone p vc)
  | 0x34 => some (.passedKept p vc)
  | 0x35 => some (.wbInFlight p vc)
  | 0x19 => some (.passedDirty p vc)
  | 0x1A => some (.lineBack p vc)
  | _ => none

/-- Every entry of the transaction table but entry `i` is as before. -/
def OtherEnts (i : Nat) (a b : Hw) : Prop := ∀ k, k ≠ i → ent b k = ent a k

/-- A request or an EVT-class message has become entry `i`, from pool `pl`: with the next arrival number, not yet active, its lookup
before it; an injection puts its errors into the entry's copies. What is not the slice's own counts as an admission of this CLK_P cycle
(R19, R25, R26, R352). -/
def Admitted (i : Nat) (r : Req) (pl : Pool) (a b : Hw) : Prop :=
  OtherEnts i a b ∧ ent b i = some { injEnt a { req := r, pool := pl, arr := 0 } with arr := a.core.nextArr } ∧
    b.core.nextArr = a.core.nextArr + 1 ∧ b.prot = { a.prot with injTt := 0 } ∧
    b.core.admCyc = (if r.sect = .int then a.core.admCyc else now a) ∧
    b.core.admNum = (if r.sect = .int then a.core.admNum else if a.core.admCyc = now a then a.core.admNum + 1 else 1)

/-- The new target value of an integer atomic: target `t`, operand `x`, compare value `c` (R134, opcodes 0x00 to 0x09). -/
def intAtomic {b : Nat} (op : Nat) (t x c : BitVec b) : BitVec b :=
  match op with
  | 0 => t + x
  | 1 => if x.slt t then x else t
  | 2 => if t.slt x then x else t
  | 3 => if x.ult t then x else t
  | 4 => if t.ult x then x else t
  | 5 => t &&& x
  | 6 => t ||| x
  | 7 => t ^^^ x
  | 8 => x
  | _ => if t = c then x else t

/-- The word that a list of written words leaves at a row and word of a bank: the last of them for it, or the word before. -/
def afterWords (done : List (Nat × Nat)) (data : List (Nat × Code)) (row w : Nat) (old : Code) : Code :=
  match data.reverse.find? (fun d => decide ((done.find? (fun r => r.1 = d.1 / 16)).map (·.2) = some row ∧ d.1 % 16 = w)) with
  | some d => d.2
  | none => old

/-- Every other ALB entry is as before. -/
def OtherAlb (n : Nat) (a b : Hw) : Prop := ∀ k, k ≠ n → cFind b.near.alb k = cFind a.near.alb k

/-- The power state of a bank that has been asked for `x` in CLK_P cycle `t`: a failed bank answers nothing; while a handshake is
under way the state is kept to be asked for next (R56, R380). -/
def askedPwr (x : PwrSt) (t : Nat) (p : Pwr) : Pwr :=
  if p.dead then p
  else if p.req || p.ack then { p with next := some x }
  else { p with st := .chg, want := x, req := true, since := t, tmo := false, onAt := none, next := none }

/-- Bank `b`, where it is in retention, is asked to come on for an operation that joins it (R56). -/
def Woken (b : Nat) (s h : Hw) : Prop :=
  ∀ v, pwr h v = if v = b ∧ b < 32 ∧ (pwr s b).st = .ret then askedPwr .on (now s) (pwr s b) else pwr s v

/-- The ALB lines of a way write back, and the hold of its Jig entries has ended (R44). -/
def WayPushed (w : Nat) (s h : Hw) : Prop :=
  (∀ n a, cFind s.near.alb n = some a → lineIn s w a.line = true →
    ∃ b, cFind h.near.alb n = some b ∧ b.wb = true ∧ b.line = a.line ∧ b.data = a.data) ∧
  (∀ n a, cFind s.near.alb n = some a → ∃ b, cFind h.near.alb n = some b ∧ b.line = a.line ∧ b.data = a.data) ∧
  (∀ n j, cFind s.near.jig n = some j → (∀ q ∈ s.near.jig, q.1 = n → q.2 = j) → cFind h.near.jig n = some
    (if j.way = w ∧ j.base = none ∧ j.writing = false then
      { j with writing := true, left := if touched j.mask 16 = covered j.mask 16 then 1 else 2 } else j)) ∧
  h.home.mode = s.home.mode ∧ h.home.locked = s.home.locked ∧ h.arr.words = s.arr.words ∧ h.diag = s.diag ∧ h.prot = s.prot

/-- A context that asks for them has sent an EngineEvent of this number; of the ports nothing else changes (R245). -/
def ReelEvent (c : Cells Word) (n : Nat) (x : Ctx) (event : Nat) (a b : Hw) : Prop :=
  (x.notify = false → b.ports = a.ports) ∧ b.ports = { a.ports with eg := b.ports.eg } ∧
  (x.notify = true → Queued .mp (vcOf 3 (tcOf c (groupOf c x.label))) { hdr := fromSlice a {
    type := 0x3C, dst := x.rid, label := x.label, arg2 := BitVec.ofNat 32 (1 + event * 256), arg0 := BitVec.ofNat 64 (streamId a n)
    arg1 := BitVec.ofNat 64 (x.delivered % 2 ^ 32) } } a b)

end Sys2Proof.Machine
end

