-- ==== Sys2Proof/Certificates/Slice0/Obligations.lean ====
section
/-! DEFINITION. The statements about the slice, from the numbered rules. A statement of what a command does has the form
`After i s P`: exec answers a next state, in which the command's own effect has left the slice as `P` says and the transactions have
then gone on by themselves. In `P` an equation h = s.hw with some parts of h put in is the frame: every part not put in is
unchanged, every register not listed reads as before. -/
open Sys2Proof Sys2Proof.Machine

/-! ### The machine as a whole -/

/-- A step on a state whose queue has the command `c` at its front is `exec c` on the state with the queue's rest. The queue is the
model's. -/
def Obligations.StepTakesTheFrontCommand : Prop :=
  ∀ (s : State) (c : Instr) (rest : List Instr), s.pending = c :: rest → step s = exec c { s with pending := rest }

/-- With no command waiting, one CLK_P cycle passes: out of reset the count increments and wraps; in a power-on reset nothing
changes, and in a warm reset the count alone goes on (R7; that an empty queue passes a cycle is the model's choice, log entry 5). -/
def Obligations.EmptyQueueIsOneCycle : Prop :=
  ∀ s : State, s.pending = [] → ∃ t, step s = .next t ∧ t.pending = [] ∧
    (s.hw.rst.mode = .run → t.hw.cyc = s.hw.cyc + 1) ∧
    (s.hw.rst.mode = .por → t = s) ∧
    (s.hw.rst.mode = .warm ∨ s.hw.rst.mode = .warmPor → t = { s with hw := { s.hw with cyc := s.hw.cyc + 1 } })

/-- Every command but the eight snoop responses answers a next state in every state (of the eight a wrong form is excluded by an
assumption on the surroundings). No command touches the queue of commands that wait. The queue is the model's. -/
def Obligations.EveryCommandCompletes : Prop :=
  (∀ (i : Instr) (s : State), answersSnoop i = false → ∃ t, exec i s = .next t) ∧
  (∀ (i : Instr) (s t : State), exec i s = .next t → t.pending = s.pending)

/-! ### Invariants -/

/-- Software-written registers keep their canonical form, and no bit that software cannot write leaves its reset value, over every
step. -/
def Obligations.SoftwareRegistersStayWellFormed : Prop :=
  ∀ s t : State, cfgWf s.cfg = true → step s = .next t → cfgWf t.cfg = true

/-- At reset the software-written registers have that form, and the stored words, the slice's own registers and the stream buffer
are in canonical form. -/
def Obligations.ResetIsWellFormed : Prop :=
  cfgWf State.reset.cfg = true ∧ Memory.wf State.reset.hw.arr.words = true ∧ Memory.wf State.reset.hw.reel.sbuf = true ∧
    cWf 0 State.reset.hw.ro = true

/-- The stored words, the slice's own registers and the stream buffer keep their canonical form over every step. -/
def Obligations.StoredWordsStayCanonical : Prop :=
  ∀ s t : State, Memory.wf s.hw.arr.words = true → Memory.wf s.hw.reel.sbuf = true → cWf 0 s.hw.ro = true →
    step s = .next t →
      Memory.wf t.hw.arr.words = true ∧ Memory.wf t.hw.reel.sbuf = true ∧ cWf 0 t.hw.ro = true

/-- SLC.CTRL.LOCK, once 1, stays 1 over every step that does not enter a reset, and every RWL field keeps its value (R11, R14). -/
def Obligations.LockHoldsUntilAReset : Prop :=
  ∀ s t : State, locked s.cfg = true → step s = .next t → t.hw.rst.mode = .run →
    locked t.cfg = true ∧ ∀ o, cfgGet t.cfg o &&& (regRow o).rwl = cfgGet s.cfg o &&& (regRow o).rwl

/-! ### Messages -/

/-- The header flit of a message carries each field in the bits that the layout gives it (R361). -/
def Obligations.HeaderFlitHasTheLayout : Prop :=
  ∀ x : Hdr,
    (hdrEnc x).extractLsb' 0 6 = x.type ∧ (hdrEnc x).extractLsb' 6 3 = x.dfl ∧ (hdrEnc x).extractLsb' 9 3 = x.resp ∧
    (hdrEnc x).getLsbD 12 = x.strm ∧ (hdrEnc x).extractLsb' 13 2 = x.dkind ∧ (hdrEnc x).extractLsb' 15 16 = x.dst ∧
    (hdrEnc x).extractLsb' 31 16 = x.src ∧ (hdrEnc x).extractLsb' 47 16 = x.route ∧ (hdrEnc x).extractLsb' 63 14 = x.tti ∧
    (hdrEnc x).extractLsb' 77 16 = x.rtag ∧ (hdrEnc x).extractLsb' 93 12 = x.label ∧ (hdrEnc x).extractLsb' 105 52 = x.addr ∧
    (hdrEnc x).extractLsb' 157 64 = x.pmask ∧ (x.dkind ≠ 3 → (hdrEnc x).extractLsb' 221 128 = x.bmask) ∧
    (x.dkind = 3 → (hdrEnc x).extractLsb' 221 64 = x.bmask.setWidth 64 ∧ (hdrEnc x).extractLsb' 285 12 = x.mtag) ∧
    (hdrEnc x).extractLsb' 349 64 = x.arg0 ∧ (hdrEnc x).extractLsb' 413 64 = x.arg1 ∧ (hdrEnc x).extractLsb' 477 32 = x.arg2 ∧
    (hdrEnc x).getLsbD 509 = x.skind ∧ (hdrEnc x).extractLsb' 510 2 = 0

/-- Reading the flit of a header gives the header back, for every header that the layout can carry: a multicast has no byte mask
above its target mask, anything else no multicast tag (R361). -/
def Obligations.HeaderReadsBackAsSent : Prop :=
  ∀ x : Hdr, (x.dkind = 3 → x.bmask.extractLsb' 64 64 = 0) → (x.dkind ≠ 3 → x.mtag = 0) → hdrDec (hdrEnc x) = x

/-! ### Resets and start-up -/

/-- While rst_por_n is low the slice is in power-on reset: the count is cleared, every register and structure has its reset value,
every power request is low, and so are mp_rst_n, xp_rst_n and rel_ready (R7, R410, R412, R414, R415). A warm reset, by its pin or by
the WARM_RESET command, keeps the records of defects and errors and clears the rest; before rel_ready has first risen it is carried
out as a power-on reset; and in a reset rst_warm_n changes nothing but its own level (R412, R415, R424). The commanded reset asserts in
the CLK_C cycle after its completion has left or 64 cycles after it was taken. -/
def Obligations.ResetsClearAndKeep : Prop :=
  (∀ s : State, ∃ t, exec .porAssert s = .next t ∧ t.hw.rst.mode = .por ∧ t.hw.rst.porLow = true ∧ t.hw.cyc = 0 ∧
      ResetLeaves false s t) ∧
  (∀ (s : State) (n : Nat),
      (s.hw.rst.mode = .run → ∃ t, exec .warmResetAssert s = .next t ∧ t.hw.cyc = s.hw.cyc ∧ t.hw.rst.warmLow = true ∧
        t.hw.rst.mode = (if s.hw.rst.once then .warm else .warmPor) ∧ ResetLeaves s.hw.rst.once s t) ∧
      (s.hw.rst.mode ≠ .run → exec .warmResetAssert s = .next { s with hw := { s.hw with rst := { s.hw.rst with warmLow := true } } }) ∧
      (s.hw.rst.mode = .run → s.hw.rst.cmd = some n → (n / 4 + 64 ≤ clkC s.hw ∨ ∃ l, s.hw.rst.cmdLeft = some l ∧ l / 4 < clkC s.hw) →
        ∃ t, exec .warmResetTakeEffect s = .next t ∧ t.hw.cyc = s.hw.cyc ∧ t.hw.rst.own = some (now s.hw) ∧
          t.hw.rst.mode = (if s.hw.rst.once then .warm else .warmPor) ∧ ResetLeaves s.hw.rst.once s t))

/-- A release edge raises mp_rst_n and xp_rst_n, samples the straps and starts the POWER step: every bank whose acknowledgement is low gets its on request, one
whose acknowledgement is still high gets it later, a failed bank of a warm reset none; VP starts training where VP.CTRL.AUTO is 1.
The count of a warm reset goes on to the next one on which all four clocks rise together; after a warm reset carried out as a
power-on reset it restarts from zero (R396, R410 to R414, R416, R417, R425). -/
def Obligations.ReleaseStartsTheSlice : Prop :=
  ∀ (s : State) (id : BitVec 8) (coord : BitVec 16) (march hold : Bool),
    let auto := bit (cfgGet s.cfg 0x3044) 4
    let v := s.hw.vp
    let starts := fun (t : State) (warm : Bool) =>
      t.cfg = s.cfg ∧ t.pending = s.pending ∧
      t.hw.rst = { Rst.init with id := id, coord := coord, march := march, hold := hold, bootCyc := now t.hw, relCyc := now t.hw
                                 warm := warm, once := warm } ∧
      (∀ b, b < 32 →
        let p := pwr t.hw b
        p.ack = (pwr s.hw b).ack ∧ p.st = .chg ∧
        (bit (roGet s.hw 0x16060) b = true → p.req = false ∧ p.dead = true ∧ p.next = none) ∧
        (bit (roGet s.hw 0x16060) b = false → (pwr s.hw b).ack = true → p.req = false ∧ p.next = some .on) ∧
        (bit (roGet s.hw 0x16060) b = false → (pwr s.hw b).ack = false → p.req = true ∧ p.want = .on)) ∧
      (auto = true → t.hw.vp = { v with
          state := .training, gen := v.gen + 1, attempt := 1, phase := .a, phaseCyc := now t.hw, attCyc := now t.hw, runMax := 3
          gotRepair := [], gotProp := none, gotConfirm := none, gotCyc := 0, resend := [], nakDue := false } ∧
        roGet t.hw 0x306C = BitVec.ofNat 32 (((roGet s.hw 0x306C).toNat + 1) % 2 ^ 32) ∧
        (∀ k, cGet [] t.hw.ports.eg k = if 16 ≤ k ∧ k < 26 then (cGet [] s.hw.ports.eg k).map (fun m => { m with sent := 0 })
          else cGet [] s.hw.ports.eg k)) ∧
      (auto = false → t.hw.vp = v ∧ t.hw.ro = s.hw.ro ∧ t.hw.ports = s.hw.ports) ∧
      SameRegs [0x306C] s.hw t.hw ∧
      t.hw = { s.hw with cyc := t.hw.cyc, rst := t.hw.rst, arr := { s.hw.arr with pwr := t.hw.arr.pwr }, ro := t.hw.ro
                         ports := { s.hw.ports with eg := t.hw.ports.eg }, vp := t.hw.vp }
    (s.hw.rst.mode = .por → s.hw.rst.warmLow = false →
      ∃ t, exec (.porRelease id coord march hold) s = .next t ∧ t.hw.cyc = s.hw.cyc ∧ starts t false) ∧
    (s.hw.rst.mode = .warm → now s.hw + 100 < 2 ^ 64 → s.hw.rst.own = none →
      ∃ t, exec (.warmResetRelease id coord march hold) s = .next t ∧ now t.hw % 12 = 0 ∧ now s.hw ≤ now t.hw ∧
        now t.hw < now s.hw + 12 ∧ starts t true) ∧
    (s.hw.rst.mode = .warmPor →
      ∃ t, exec (.warmResetRelease id coord march hold) s = .next t ∧ t.hw.cyc = 0 ∧ starts t false)

/-- The start-up steps follow one another: POWER ends when every bank that has not failed is on; the zero fill takes 16,384 CLK_M
cycles and leaves every row, tag and snoop-filter entry clear; the start-up march takes 344,064 and leaves the rows it ran over
zero. From the beginning of FILL or MARCH on the unlocked CACHE ways of failed banks wait to be disabled; the step ends in HOLD or in
READY, as the strap says, once no way is left to disable, and rel_ready rises with READY (R416 to R420, R422; how long the step then
lasts is the model's choice, log entry 90). -/
def Obligations.StartUpRunsItsSteps : Prop :=
  ∀ (s : State) (m : March), running s.hw = true →
    let p := s.hw.prot
    let quiet := p.dis = none ∧ p.disWait = []
    let after := if s.hw.rst.hold then { s.hw.rst with boot := .hold, bootCyc := now s.hw }
      else { s.hw.rst with boot := .ready, bootCyc := now s.hw, once := true, relReady := true }
    let ends := fun (h : Hw) => (quiet → h.rst = after) ∧ (¬ quiet → h.rst = s.hw.rst)
    let asked := fun (h : Hw) => ∀ d, d ∈ h.prot.disWait ↔ d ∈ p.disWait ∨
      (d.1 < 16 ∧ d.2 = clkC s.hw ∧ ((pwr s.hw (2 * d.1)).dead = true ∨ (pwr s.hw (2 * d.1 + 1)).dead = true) ∧ wayMode s.hw d.1 = 0 ∧
        d.1 ∉ s.hw.home.locked ∧ (∀ x ∈ p.disWait, x.1 ≠ d.1) ∧ ∀ w st, p.dis = some (w, st) → w ≠ d.1)
    (s.hw.rst.boot = .power → (∀ b, b < 32 → (pwr s.hw b).dead = true ∨ (pwr s.hw b).st = .on) →
      (s.hw.rst.march = false → After .startupPowerDone s (fun h => asked h ∧
        h = { s.hw with rst := { s.hw.rst with boot := .fill, bootCyc := now s.hw }
                        prot := { p with disWait := h.prot.disWait } })) ∧
      (s.hw.rst.march = true → After .startupPowerDone s (fun h => asked h ∧
        h.rst = { s.hw.rst with boot := .march, bootCyc := now s.hw, marched := true } ∧
        (∃ x, h.prot.march = some x ∧ x.destroy = true ∧ x.boot = true ∧ x.spare = true ∧ x.endAt = clkM s.hw + 344064 ∧
          ∀ b, b < 32 → bit x.banks b = !(pwr s.hw b).dead) ∧
        roGet h 0x12048 = 0 ∧ roGet h 0x1204C = 0 ∧ roGet h 0x12050 = 0 ∧ SameRegs [0x12048, 0x1204C, 0x12050, 0x12054] s.hw h ∧
        (∀ b row w, b < 32 → row < 16384 → w < 16 →
          wordAt h b row w = if (pwr s.hw b).dead then wordAt s.hw b row w else 0) ∧
        h = { s.hw with rst := h.rst, arr := { s.hw.arr with words := h.arr.words }
                        prot := { p with march := h.prot.march, disWait := h.prot.disWait }, ro := h.ro }))) ∧
    (s.hw.rst.boot = .fill → s.hw.rst.bootCyc / 2 + 16384 ≤ clkM s.hw → After .zeroFillDone s (fun h => ends h ∧
      h = { s.hw with rst := h.rst, arr := { s.hw.arr with words := [] }, home := { s.hw.home with tags := [], sf := [] } })) ∧
    (p.march = some m → m.boot = true → m.endAt ≤ clkM s.hw → After .startupMarchDone s (fun h => ends h ∧
      (∀ b row w, b < 32 → row < 16384 → w < 16 → wordAt h b row w = if bit m.banks b then 0 else wordAt s.hw b row w) ∧
      (m.spare = true → ∀ row w, row < 64 → w < 16 → wordAt h 32 row w = 0) ∧
      h = { s.hw with rst := h.rst, arr := { s.hw.arr with words := h.arr.words }, prot := { p with march := none } })) ∧
    (p.march = none → s.hw.rst.boot = .march → After .startupMarchDone s (fun h => ends h ∧ h = { s.hw with rst := h.rst })) ∧
    (s.hw.rst.boot ≠ .power ∨ (∃ b, b < 32 ∧ (pwr s.hw b).dead = false ∧ (pwr s.hw b).st ≠ .on) →
      After .startupPowerDone s (fun h => h = s.hw)) ∧
    (s.hw.rst.boot ≠ .fill ∨ clkM s.hw < s.hw.rst.bootCyc / 2 + 16384 → After .zeroFillDone s (fun h => h = s.hw)) ∧
    ((p.march = some m ∧ (m.boot = false ∨ clkM s.hw < m.endAt)) ∨ (p.march = none ∧ s.hw.rst.boot ≠ .march) →
      After .startupMarchDone s (fun h => h = s.hw))

/-- A bank whose handshake gets no acknowledgement within ALLOC.PWR_TMO in the POWER step has failed: PWR_TMO is flagged, its bit of
GAV.BANK_FAIL set, its request lowered for good, its way, if an unlocked CACHE way, waits to be disabled, and BANK is logged with class
1 (R339, R417). No bank operation is pending then. A handshake without acknowledgement within ALLOC.PWR_TMO sets PWR_TMO, logs BANK with
class 0, keeps the request open, and is a cause of Gavotte: an idle one starts its hold step, one in hold or sort takes the cause in
(R59, R333, R335). Before its time, and once recorded, a timeout does nothing. -/
def Obligations.PowerTimeoutsAct : Prop :=
  ∀ (s : State) (b : Nat), running s.hw = true →
    let p := pwr s.hw b
    let g := s.hw.diag.gav
    let tmo := cf s.cfg 7 0x58 15 0
    let out := wayMode s.hw (b / 2) = 0 ∧ ¬ b / 2 ∈ s.hw.home.locked ∧ (∀ x ∈ s.hw.prot.disWait, x.1 ≠ b / 2) ∧
      (∀ x, s.hw.prot.dis = some x → x.1 ≠ b / 2)
    let fails := s.hw.rst.boot = .power ∧ b < 32 ∧ p.dead = false ∧ p.st ≠ .on ∧ p.onAt = none ∧ s.hw.rst.bootCyc / 4 + tmo ≤ clkC s.hw
    let late := s.hw.rst.boot ≠ .power ∧ b < 32 ∧ p.req = true ∧ p.dead = false ∧ p.tmo = false ∧ p.since / 4 + tmo ≤ clkC s.hw
    (fails → (bank s.hw b).pend = [] → After (.startupBankTmo b) s (fun h =>
      bit (roGet h 0x7010) 1 = true ∧ roGet h 0x16060 = setBit (roGet s.hw 0x16060) b true ∧ bit (roGet h 0x16010) 3 = true ∧
      (∀ k, pwr h k = if k = b then { p with dead := true, req := false, st := .chg, next := none, onAt := none } else pwr s.hw k) ∧
      (s.hw.diag.rq.length < 32 → Reported 0xB false b 1 h) ∧
      (out → h.prot.disWait = s.hw.prot.disWait ++ [(b / 2, clkC s.hw)]) ∧ (¬ out → h.prot = s.hw.prot) ∧
      SameRegs ([0x7010, 0x16060, 0x16010, 0x14010, 0x14048] ++ regOvf) s.hw h ∧
      h = { s.hw with
        ro := h.ro, hwSet := h.hwSet, arr := { s.hw.arr with pwr := h.arr.pwr }, diag := { s.hw.diag with rq := h.diag.rq }
        perf := h.perf, prot := { s.hw.prot with disWait := h.prot.disWait } })) ∧
    (¬ fails → After (.startupBankTmo b) s (fun h => h = s.hw)) ∧
    (late → g.failed = false → After (.pwrHandshakeTmo b) s (fun h =>
      bit (roGet h 0x7010) 1 = true ∧ (∀ k, pwr h k = if k = b then { p with tmo := true } else pwr s.hw k) ∧
      (s.hw.diag.rq.length < 32 → Reported 0xB false b 0 h) ∧
      (g.step = .idle → h.diag.gav = { gavBegun s.hw 4 g.xing g.unnamed g.lost with banks := g.banks ++ [b] }) ∧
      (g.step = .hold ∨ g.step = .sort → h.diag.gav = { g with cause := setBit g.cause 4 true, banks := g.banks ++ [b] }) ∧
      (g.step = .release → h.diag.gav = { g with next := setBit g.next 4 true, banks := g.banks ++ [b] }) ∧
      SameRegs ([0x7010, 0x16010, 0x14010, 0x14048] ++ regOvf) s.hw h ∧
      h = { s.hw with
        arr := { s.hw.arr with pwr := h.arr.pwr }, ro := h.ro, hwSet := h.hwSet, perf := h.perf
        diag := { s.hw.diag with rq := h.diag.rq, gav := h.diag.gav } })) ∧
    (¬ late → After (.pwrHandshakeTmo b) s (fun h => h = s.hw))

/-- RELEASE ends the HOLD step, in EXTFILL while an INIT_FILL runs or is asked for, else in READY, where rel_ready rises; outside HOLD,
and with FILL = 1 while an INIT_FILL runs, it records STATE and does nothing else. WARM_RESET is taken in every step, and a second one
changes only the status (R421, R422, R424, R427). -/
def Obligations.SlcCommandsAct : Prop :=
  ∀ (s : State) (fill : Bool), running s.hw = true →
    let frame := fun (h : Hw) => SameRegs (cmdRegs 0 ++ [0xE020]) s.hw h ∧
      h = { s.hw with ro := h.ro, hwSet := h.hwSet, rst := h.rst, glp := { s.hw.glp with fill := h.glp.fill }
                      path := { s.hw.path with spMay := h.path.spMay } }
    (s.hw.rst.boot = .hold → s.hw.glp.fill = none → fill = false ∨ cf s.cfg 14 0x68 27 0 = 0 →
      After (.release fill) s (fun h => CmdTook 0 (b2n fill * 256 + 1) 0 s.hw h ∧ frame h ∧ h.glp.fill = none ∧
        h.path.spMay = s.hw.path.spMay ∧ roGet h 0xE020 = roGet s.hw 0xE020 ∧
        h.rst = { s.hw.rst with boot := .ready, bootCyc := now s.hw, once := true, relReady := true })) ∧
    (s.hw.rst.boot = .hold → s.hw.glp.fill = none → fill = true → cf s.cfg 14 0x68 27 0 ≠ 0 →
      After (.release fill) s (fun h => CmdTook 0 0x101 0 s.hw h ∧ frame h ∧ bit (roGet h 0xE020) 31 = true ∧
        h.path.spMay = s.hw.path.spMay ∧
        h.glp.fill = some { next := 0, total := 2 * cf s.cfg 14 0x68 27 0, pattern := cfgGet s.cfg 0xE06C, boot := true } ∧
        h.rst = { s.hw.rst with boot := .extfill, bootCyc := now s.hw })) ∧
    (s.hw.rst.boot = .hold → s.hw.glp.fill.isSome = true → fill = false →
      After (.release fill) s (fun h => CmdTook 0 1 0 s.hw h ∧ frame h ∧ h.glp = s.hw.glp ∧ h.path.spMay = s.hw.path.spMay ∧
        roGet h 0xE020 = roGet s.hw 0xE020 ∧ h.rst = { s.hw.rst with boot := .extfill, bootCyc := now s.hw })) ∧
    (s.hw.rst.boot ≠ .hold ∨ (fill = true ∧ s.hw.glp.fill.isSome = true) →
      After (.release fill) s (fun h => CmdTook 0 (b2n fill * 256 + 1) 5 s.hw h ∧ SameRegs (cmdRegs 0) s.hw h ∧
        h = { s.hw with ro := h.ro, hwSet := h.hwSet })) ∧
    (s.hw.rst.cmd = none → After (.warmReset fill) s (fun h => CmdTook 0 (b2n fill * 256 + 2) 0 s.hw h ∧ frame h ∧
      h.glp = s.hw.glp ∧ roGet h 0xE020 = roGet s.hw 0xE020 ∧ h.rst = { s.hw.rst with cmd := some (now s.hw) } ∧
      h.path.spMay = some ((s.hw.path.spOut.filter (·.isSome)).length))) ∧
    (s.hw.rst.cmd ≠ none → After (.warmReset fill) s (fun h => CmdTook 0 (b2n fill * 256 + 2) 0 s.hw h ∧ SameRegs (cmdRegs 0) s.hw h ∧
      h = { s.hw with ro := h.ro, hwSet := h.hwSet }))

/-! ### Bank power -/

/-- The four phases of the power handshake: an acknowledgement lowers the request, and the bank is off, in retention, or on 4 CLK_M
cycles later; once pwr_ack is low again the request that waits opens; a bank idle for RET_CFG.IDLE cycles asks for retention
(R56, R57, R380). In a reset, and of a failed bank, only the level of pwr_ack is followed (R339, R414, R417). -/
def Obligations.BankPowerHandshake : Prop :=
  ∀ (s : State) (b t : Nat) (x : PwrSt), b < 32 →
    let gives := fun (h : Hw) (p : Pwr) => pwr h b = p ∧ (∀ k, k ≠ b → pwr h k = pwr s.hw k) ∧ SameRegs regOvf s.hw h ∧
      h = { s.hw with arr := { s.hw.arr with pwr := h.arr.pwr }, perf := h.perf, ro := h.ro, hwSet := h.hwSet }
    let p := pwr s.hw b
    (p.dead = true ∨ p.req = false → running s.hw = true → After (.pwrAckRise b) s (fun h => gives h { p with ack := true })) ∧
    (p.dead = true → running s.hw = true →
      (p.ack = true → After (.pwrAckFall b) s (fun h => gives h { p with ack := false, next := none }))) ∧
    (running s.hw = false → exec (.pwrAckRise b) s = .next { s with hw := setPwr b { p with ack := true } s.hw } ∧
      exec (.pwrAckFall b) s = .next { s with hw := setPwr b { p with ack := false } s.hw }) ∧
    (p.dead = false →
    (running s.hw = true → p.req = true → p.want = .on →
      After (.pwrAckRise b) s (fun h => gives h { p with ack := true, req := false, tmo := false, onAt := some (now s.hw) })) ∧
    (running s.hw = true → p.req = true → p.want = .off →
      After (.pwrAckRise b) s (fun h => gives h { p with ack := true, req := false, tmo := false, st := .off })) ∧
    (running s.hw = true → p.req = true → p.want = .ret →
      After (.pwrAckRise b) s (fun h => gives h { p with ack := true, req := false, tmo := false, st := .ret
                                                         next := if (bank s.hw b).pend.isEmpty then p.next else some .on })) ∧
    (running s.hw = true → p.ack = true → p.next = none →
      After (.pwrAckFall b) s (fun h => gives h { p with ack := false })) ∧
    (running s.hw = true → p.ack = true → p.req = true → p.next = some x →
      After (.pwrAckFall b) s (fun h => gives h { p with ack := false })) ∧
    (running s.hw = true → p.ack = true → p.req = false → p.next = some x →
      After (.pwrAckFall b) s (fun h => gives h { p with ack := false, st := .chg, want := x, req := true, since := now s.hw
                                                         tmo := false, onAt := none, next := none })) ∧
    (running s.hw = true → p.onAt = some t → t / 2 + 4 ≤ clkM s.hw →
      After (.bankOnDelay b) s (fun h => gives h { p with st := .on, onAt := none, last := now s.hw })) ∧
    (running s.hw = true → cf s.cfg 7 0x50 31 31 = 1 → bit (cfgGet s.cfg 0x7054) b = true → wayMode s.hw (b / 2) ≠ 3 →
      setting s.hw (b / 2) = none → marchDestroys s.hw b = false →
      (bank s.hw b).pend = [] → (bank s.hw b).cur = none → (bank s.hw b).fly = [] → p.st = .on → p.req = false → p.ack = false →
      p.last / 2 + max 64 (cf s.cfg 7 0x50 11 0) ≤ clkM s.hw →
      After (.retentionIdleExpire b) s (fun h => gives h { p with st := .chg, want := .ret, req := true, since := now s.hw
                                                                  tmo := false, onAt := none, next := none }))) ∧
    (running s.hw = true →
      (p.ack = false → After (.pwrAckFall b) s (fun h => h = s.hw)) ∧
      (p.onAt = none ∨ (p.onAt = some t ∧ clkM s.hw < t / 2 + 4) ∨ p.dead = true → After (.bankOnDelay b) s (fun h => h = s.hw)) ∧
      (cf s.cfg 7 0x50 31 31 = 0 ∨ bit (cfgGet s.cfg 0x7054) b = false ∨ wayMode s.hw (b / 2) = 3 ∨ (setting s.hw (b / 2)).isSome = true ∨
        marchDestroys s.hw b = true ∨ (bank s.hw b).pend ≠ [] ∨ (bank s.hw b).cur ≠ none ∨ (bank s.hw b).fly ≠ [] ∨ p.st ≠ .on ∨
        p.dead = true ∨ p.req = true ∨ p.ack = true ∨ clkM s.hw < p.last / 2 + max 64 (cf s.cfg 7 0x50 11 0) →
        After (.retentionIdleExpire b) s (fun h => h = s.hw)))
/-! ### The Mesh Port -/

/-- Inbound flits and credits at MP: a flit goes behind those in its VC's crossing FIFO; VC numbers 10 to 15 are discarded without a
credit (R33, R356, R357). A flit written into a full FIFO, or met by a read of an empty one, is lost: MP.XING_CNT counts it, PG_ERR.XING is
set, it is logged as MP_XING with its class, and Gavotte starts, or takes the cause in while it holds or sorts; a lost header flit cuts
the rest of its message and is logged as a lost message of an unknown sender; any other flit cuts its message and takes what has arrived
of it out of the buffers, and the message that its header names is logged, and counts as lost where a transaction awaits it (R33, R319,
R333, R336). 8 CLK_P cycles after release 16 credits are owed on each inbound VC (R358); a pulse of mp_out_crd is an outbound credit two
CLK_P cycles later (R357, R359). -/
def Obligations.MeshPortTakesFlitsAndCredits : Prop :=
  ∀ (s : State) (vc : BitVec 4) (isHdr empty : Bool) (flit : BitVec 512) (v : Nat), running s.hw = true →
    let v4 := vc.toNat
    let buf := cGet [] s.hw.ports.ing v4 ++ cGet [] s.hw.ports.xin v4
    let keep := buf.take (buf.length - (openFlits buf).length)
    let cls := if empty then 1 else 0
    let g := s.hw.diag.gav
    (v4 < 10 → empty = false → (cGet [] s.hw.ports.xin v4).length < 4 → After (.mpFlitIn vc isHdr flit empty) s (fun h =>
      (∀ k, cGet [] h.ports.xin k = if k = v4 then cGet [] s.hw.ports.xin v4 ++ [{ hdr := isHdr, bits := flit, at_ := now s.hw }]
        else cGet [] s.hw.ports.xin k) ∧
      SameRegs regOvf s.hw h ∧
      h = { s.hw with ports := { s.hw.ports with xin := h.ports.xin }, perf := h.perf, ro := h.ro, hwSet := h.hwSet })) ∧
    (10 ≤ v4 → After (.mpFlitIn vc isHdr flit empty) s (fun h => h = s.hw)) ∧
    (v4 < 10 → empty = true ∨ 4 ≤ (cGet [] s.hw.ports.xin v4).length → s.hw.diag.rq.length < 30 →
      After (.mpFlitIn vc isHdr flit empty) s (fun h =>
        bit (roGet h 0x2010) 0 = true ∧ roGet h 0x2054 = satAdd (roGet s.hw 0x2054) 1 ∧ Reported 0xC false (16 + v4) cls h ∧
        16 + v4 ∈ h.diag.gav.xing ∧
        (g.failed = false → g.step = .idle →
          h.diag.gav = gavBegun s.hw 0 h.diag.gav.xing h.diag.gav.unnamed h.diag.gav.lost) ∧
        (g.failed = false → g.step = .hold ∨ g.step = .sort → h.diag.gav = { g with
          cause := setBit g.cause 0 true, xing := h.diag.gav.xing, unnamed := h.diag.gav.unnamed, lost := h.diag.gav.lost }) ∧
        v4 ∈ h.ports.cut ∧
        (isHdr = true → Reported 0xF false (16 + v4) 3 h ∧ h.diag.gav.unnamed = g.unnamed ++ [v4 / 2] ∧ h.diag.gav.lost = g.lost ∧
          h.ports = { s.hw.ports with cut := h.ports.cut }) ∧
        (isHdr = false → v4 ∈ s.hw.ports.cut → h.diag.gav.unnamed = g.unnamed ∧ h.diag.gav.lost = g.lost ∧ h.ports = s.hw.ports) ∧
        (isHdr = false → ¬ v4 ∈ s.hw.ports.cut → h.diag.gav.unnamed = g.unnamed ∧
          (∀ k, cGet [] h.ports.ing k = if k = v4 then keep.take (cGet [] s.hw.ports.ing v4).length else cGet [] s.hw.ports.ing k) ∧
          (∀ k, cGet [] h.ports.xin k = if k = v4 then keep.drop (cGet [] s.hw.ports.ing v4).length else cGet [] s.hw.ports.xin k) ∧
          (∀ f r a aw, openFlits buf = f :: r → loseNamed s.cfg s.hw (hdrDec f.bits) = some (a, aw) →
            Reported 0xF false a.1 a.2.1 h ∧ h.diag.gav.lost = g.lost ++ (if aw then [a] else [])) ∧
          (∀ f r, openFlits buf = f :: r → loseNamed s.cfg s.hw (hdrDec f.bits) = none → h.diag.gav.lost = g.lost) ∧
          (openFlits buf = [] → h.diag.gav.lost = g.lost)) ∧
        SameRegs ([0x2010, 0x2054, 0x16010] ++ regOvf) s.hw h ∧
        h = { s.hw with ports := { s.hw.ports with xin := h.ports.xin, ing := h.ports.ing, cut := h.ports.cut }, perf := h.perf
                        ro := h.ro, hwSet := h.hwSet, diag := { s.hw.diag with rq := h.diag.rq, gav := h.diag.gav } })) ∧
    (s.hw.ports.initDone = false → s.hw.rst.relCyc + 8 ≤ now s.hw → After .mpInitCredits s (fun h =>
      (∀ k, cGet 0 h.ports.owed k = if k < 10 then cGet 0 s.hw.ports.owed k + 16 else cGet 0 s.hw.ports.owed k) ∧
      (∀ k, cGet 0 h.ports.initOwed k = if k < 10 then 16 else 0) ∧
      h = { s.hw with ports := { s.hw.ports with owed := h.ports.owed, initOwed := h.ports.initOwed, initDone := true } })) ∧
    (s.hw.ports.initDone = true ∨ now s.hw < s.hw.rst.relCyc + 8 → After .mpInitCredits s (fun h => h = s.hw)) ∧
    (v < 10 → After (.mpOutCredit v) s (fun h =>
      h = { s.hw with ports := { s.hw.ports with crdIn := s.hw.ports.crdIn ++ [(v, now s.hw)] } })) ∧
    (10 ≤ v → After (.mpOutCredit v) s (fun h => h = s.hw)) ∧
    (s.pending = [] → now s.hw + 1 < 2 ^ 64 → ∃ t, step s = .next t ∧
      ∀ k, cGet 0 t.hw.ports.crd k = cGet 0 s.hw.ports.crd k +
        (s.hw.ports.crdIn.filter (fun q => decide (q.1 = k ∧ q.2 + 2 ≤ now s.hw + 1))).length)

/-- The egress arbiter picks the message at the head of a VC: a high-priority VC goes first, and within a priority the classes go in
rotation, which goes on after the class served; the pick costs one credit, a multicast takes the tag, and at most one flit is picked in a
CLK_P cycle (R357, R359, R369). The flit enters the crossing FIFO of its VC and departs two CLK_P cycles later; with the first flit of its
completion a request is paid (R33, R113, R359). What waits for VP while VP is not up may leave through MP, and joins MP's queue only as
it leaves (R20, R404). A flit that the crossing loses is counted, logged as MP_XING with its class, and starts Gavotte; its message is sent again as
a whole, but for a StreamChunk, all of whose targets count as residual (R33, R238, R319, R333, R336). -/
def Obligations.MeshPortSendsTheFlitPicked : Prop :=
  (∀ (s : State) (tag : BitVec 12) (xing : Option Bool) (vc : Nat) (m : OutMsg), running s.hw = true →
    s.hw.ports.outCyc ≠ now s.hw + 1 →
    let h0 := vpSpill s.cfg vc m s.hw
    let free := (cFind s.hw.ports.mtags tag.toNat).isNone
    let first := decide (m.hdr.dkind = 3 ∧ m.sent = 0)
    let m1 := if m.hdr.dkind = 3 ∧ m.sent = 0 then { m with hdr := { m.hdr with mtag := tag } } else m
    let start := cGet 0 s.hw.ports.rot (vc % 2)
    let rotated := fun (h : Hw) =>
      ∀ k, cGet 0 h.ports.rot k = if k = vc % 2 then (vc / 2 + 1) % 5 else cGet 0 s.hw.ports.rot k
    pickVc s.cfg s.hw .mp free = some (vc, m) →
    (egReady s.cfg s.hw .mp vc free = some m ∧
      (vc % 2 = 1 → ∀ v, v < 10 → v % 2 = 0 → egReady s.cfg s.hw .mp v free = none) ∧
      (∀ j i, vc / 2 = (start + j) % 5 → j < 5 → i < j → egReady s.cfg s.hw .mp (2 * ((start + i) % 5) + vc % 2) free = none)) ∧
    (outLost s.hw vc xing = none → After (.mpFlitOut tag xing) s (fun h =>
      h.ports.outCyc = now s.hw + 1 ∧
      h.ports.xout = s.hw.ports.xout ++ [{
        vc := vc, flit := { hdr := decide (m.sent = 0), bits := (msgFlits m1).getD m.sent 0, at_ := now s.hw }, msg := m1
        cyc := now s.hw }] ∧
      (∀ k, cGet 0 h.ports.crd k = if k = vc then cGet 0 s.hw.ports.crd vc - 1 else cGet 0 s.hw.ports.crd k) ∧
      rotated h ∧
      (∀ k, cGet [] h.ports.eg k = if k = vc then
          (if m.sent + 1 < (msgFlits m1).length then [{ m1 with sent := m.sent + 1 }] else []) ++
            dropFirst (fun x => x == m) (cGet [] h0.ports.eg vc)
        else cGet [] h0.ports.eg k) ∧
      (∀ k, cFind h.ports.mtags k = if first = true ∧ k = tag.toNat then some m.note else cFind s.hw.ports.mtags k) ∧
      h = { s.hw with ports := { s.hw.ports with
        eg := h.ports.eg, crd := h.ports.crd, rot := h.ports.rot, xout := h.ports.xout, outCyc := h.ports.outCyc
        mtags := h.ports.mtags } })) ∧
    (∀ cls, outLost s.hw vc xing = some cls → s.hw.diag.rq.length < 30 →
      s.hw.diag.gav.failed = false ∨ s.hw.diag.gav.step ≠ .idle → After (.mpFlitOut tag xing) s (fun h =>
        bit (roGet h 0x2010) 0 = true ∧ roGet h 0x2054 = satAdd (roGet s.hw 0x2054) 1 ∧ Reported 0xC false vc cls h ∧
        vc ∈ h.diag.gav.xing ∧
        (s.hw.diag.gav.step = .idle →
          h.diag.gav = gavBegun s.hw 0 h.diag.gav.xing s.hw.diag.gav.unnamed s.hw.diag.gav.lost) ∧
        rotated h ∧ h.ports.outCyc = now s.hw + 1 ∧
        (∀ k, k ≠ vc → cGet [] h.ports.eg k = cGet [] h0.ports.eg k) ∧
        (∀ n k j, m.note = .chunk n k j →
          cGet [] h.ports.eg vc = dropFirst (fun x => x == m) (cGet [] h0.ports.eg vc) ∧
          h.reel = { s.hw.reel with late := s.hw.reel.late ++ [(n, k, j, m.hdr.bmask.setWidth 32)] } ∧
          ∀ u, cFind h.ports.mtags u = if m.sent ≠ 0 ∧ u = m.hdr.mtag.toNat then none else cFind s.hw.ports.mtags u) ∧
        ((∀ n k j, m.note ≠ .chunk n k j) →
          cGet [] h.ports.eg vc = (cGet [] h0.ports.eg vc).map (fun x => { x with sent := 0 }) ∧ h.reel = s.hw.reel ∧
          ∀ u, let back := ∃ x, (cGet [] h0.ports.eg vc).head? = some x ∧ x.sent ≠ 0 ∧ x.hdr.dkind = 3 ∧ x.hdr.mtag.toNat = u
            (back → cFind h.ports.mtags u = none) ∧ (¬ back → cFind h.ports.mtags u = cFind s.hw.ports.mtags u)) ∧
        SameRegs ([0x2010, 0x2054, 0x16010] ++ regOvf) s.hw h ∧
        h = { s.hw with
          ports := { s.hw.ports with eg := h.ports.eg, rot := h.ports.rot, outCyc := h.ports.outCyc, mtags := h.ports.mtags }
          perf := h.perf, ro := h.ro, hwSet := h.hwSet, diag := { s.hw.diag with rq := h.diag.rq, gav := h.diag.gav }
          reel := h.reel }))) ∧
  (∀ (s : State) (tag : BitVec 12) (xing : Option Bool), running s.hw = true →
    s.hw.ports.outCyc = now s.hw + 1 ∨ pickVc s.cfg s.hw .mp (cFind s.hw.ports.mtags tag.toNat).isNone = none →
    After (.mpFlitOut tag xing) s (fun h => h = s.hw)) ∧
  (∀ (s : State), running s.hw = true → s.pending = [] → now s.hw + 1 < 2 ^ 64 →
    (∀ l rest, s.hw.ports.xout = l :: rest → l.cyc + 2 ≤ now s.hw + 1 → ∃ t, step s = .next t ∧
      t.hw.ports.outFlit = some (l.vc, { l.flit with at_ := now s.hw + 1 }) ∧ t.hw.ports.xout = rest ∧
      (∀ n, l.msg.note = .req n → l.msg.sent = 0 → ∀ o ∈ t.hw.core.owing, o.1 ≠ n)) ∧
    ((∀ l rest, s.hw.ports.xout = l :: rest → now s.hw + 1 < l.cyc + 2) → ∃ t, step s = .next t ∧
      t.hw.ports.outFlit = none ∧ t.hw.ports.xout = s.hw.ports.xout))

/-- A reset of a VC: at the router's answer the outbound credits are zero, those still in the crossing with them; 8 CLK_P cycles later the
incomplete inbound message is discarded, what was complete in the crossing joins the ingress buffer, and a credit is owed for each
free flit of it. With no reset under way in that step the events do nothing (R360). -/
def Obligations.VcResetRunsItsSteps : Prop :=
  ∀ (s : State) (v t : Nat), running s.hw = true →
    let buf := cGet [] s.hw.ports.ing v ++ cGet [] s.hw.ports.xin v
    let keep := buf.take (buf.length - (openFlits buf).length)
    (cFind s.hw.ports.vcrst v = some none → After (.mpVcrstIn v) s (fun h =>
      (∀ k, cGet 0 h.ports.crd k = if k = v then 0 else cGet 0 s.hw.ports.crd k) ∧
      (∀ k, cFind h.ports.vcrst k = if k = v then some (some (now s.hw)) else cFind s.hw.ports.vcrst k) ∧
      h = { s.hw with ports := { s.hw.ports with
        crd := h.ports.crd, crdIn := s.hw.ports.crdIn.filter (fun q => decide (q.1 ≠ v)), vcrst := h.ports.vcrst } })) ∧
    (cFind s.hw.ports.vcrst v ≠ some none → After (.mpVcrstIn v) s (fun h => h = s.hw)) ∧
    (cFind s.hw.ports.vcrst v = some (some t) → t + 8 ≤ now s.hw → After (.mpVcrstWaitDone v) s (fun h =>
      (∀ k, cGet [] h.ports.xin k = if k = v then [] else cGet [] s.hw.ports.xin k) ∧
      (∀ k, cGet [] h.ports.ing k = if k = v then keep else cGet [] s.hw.ports.ing k) ∧
      (∀ k, cGet 0 h.ports.owed k = if k = v then 16 - keep.length else cGet 0 s.hw.ports.owed k) ∧
      (∀ k, cFind h.ports.initOwed k = if k = v then none else cFind s.hw.ports.initOwed k) ∧
      (∀ k, cFind h.ports.vcrst k = if k = v then none else cFind s.hw.ports.vcrst k) ∧
      h.ports.cut = s.hw.ports.cut.filter (· ≠ v) ∧
      h = { s.hw with ports := { s.hw.ports with
        xin := h.ports.xin, ing := h.ports.ing, owed := h.ports.owed, initOwed := h.ports.initOwed, vcrst := h.ports.vcrst
        cut := h.ports.cut } })) ∧
    (cFind s.hw.ports.vcrst v = some (some t) → now s.hw < t + 8 → After (.mpVcrstWaitDone v) s (fun h => h = s.hw))

/-- A malformed message leaves its buffer, returns its credits, increments MP.BAD_MSG_CNT and sets BAD_MSG; one in a REQ VC whose TYPE is
undefined or a request's is answered DECERR and takes an intake number, any other is discarded (R368). Before READY so is every
message of another class (R423). A well-formed message that nothing awaits leaves its buffer, returns its credits and increments
GAV.STALE_CNT, and nothing else happens (R493): a snoop response that no transaction awaits, a Comp, CompData or FwdData that no engine
awaits, a Doorbell, EngineEvent, IntMsg, StreamChunk, EvictComp, WbComp or McastList, and a McastListAck without a list. -/
def Obligations.WrongMessagesAreAnsweredOrDiscarded : Prop :=
  (∀ (s : State) (p : Port) (vc : Nat) (x : Hdr) (pay : List PWord) (n : Nat), running s.hw = true →
      headMsg s.hw p vc = some (x, pay, n) → (wellFormed vc x = false ∨ (vc / 2 ≠ 0 ∧ s.hw.rst.boot ≠ .ready)) →
      let answers := vc / 2 = 0 ∧ (typeClass x.type.toNat = none ∨ typeClass x.type.toNat = some 0)
      After (.malformedMsg p vc) s (fun h =>
        MsgGone p vc x s.hw h ∧ roGet h 0x2050 = satAdd (roGet s.hw 0x2050) 1 ∧ bit (roGet h 0x2010) 1 = true ∧
        (answers → Answered p x 3 s.hw h ∧ h.core = { s.hw.core with nextSeq := s.hw.core.nextSeq + 1 }) ∧
        (¬ answers → h.ports.eg = s.hw.ports.eg ∧ h.core = s.hw.core) ∧ SameRegs [0x2050, 0x2010] s.hw h ∧
        h = { s.hw with ports := h.ports, ro := h.ro, hwSet := h.hwSet, core := h.core })) ∧
  (∀ (s : State) (p : Port) (vc : Nat) (x : Hdr) (pay : List PWord) (n : Nat), running s.hw = true →
      headMsg s.hw p vc = some (x, pay, n) → wellFormed vc x = true → vc / 2 = 0 ∨ s.hw.rst.boot = .ready →
      exec (.malformedMsg p vc) s = .next s) ∧
  (∀ (s : State) (p : Port) (vc : Nat) (x : Hdr) (pay : List PWord) (n : Nat), running s.hw = true →
      headMsg s.hw p vc = some (x, pay, n) → wellFormed vc x = true → vc / 2 ≠ 0 → s.hw.rst.boot = .ready →
      isStale s.cfg s.hw x pay = true →
      After (.staleMsg p vc) s (fun h =>
        MsgGone p vc x s.hw h ∧ h.ports.eg = s.hw.ports.eg ∧ roGet h 0x1605C = satAdd (roGet s.hw 0x1605C) 1 ∧
        SameRegs [0x1605C] s.hw h ∧ h = { s.hw with ports := h.ports, ro := h.ro }))

/-! ### Requests -/

/-- A well-formed request at the head of a REQ VC passes intake when its port may deliver: it gets the next intake number, its completion
is owed, and decode fixes its label, group, class and units. Where decode refuses it, it leaves its buffer and its Comp with that code is
queued; it takes no entry. Where decode makes it a transaction and its section has room for it, it leaves its buffer and joins the
admission buffer; else it waits at decode, its flits in their buffer, and joins later with the number it has (R18, R19, R22, R24, R27,
R255). One CLK_P cycle takes one request from a port, and of two ports that have one VP delivers first in an even cycle, MP in an odd
one (R18). -/
def Obligations.IntakeTakesARequest : Prop :=
  (∀ (s : State) (p : Port) (vc : Nat) (x : Hdr) (pay : List PWord) (acc : Nat) (i : Instr),
    running s.hw = true → headMsg s.hw p vc = some (x, pay, acc) → wellFormed vc x = true → vc / 2 = 0 → reqCmd p vc x = some i →
    mayIntake s.hw p = true → cFind s.hw.core.dec (portKey p vc) = none →
    let d := decodeReq s.cfg (hintOf x) s.hw
    let k := classOf s.cfg s.hw vc (hintOf x) d.2.1
    let n := s.hw.core.nextSeq
    let sect : Sect := if k.elig then .hi else .lo
    let before := ∃ q, q ∈ s.hw.core.dec ∧ isEvt q.2.kind = false ∧ q.2.sect = sect ∧ q.2.iseq < n
    let taken := fun (h : Hw) => SameRegs regIntake d.1 h ∧
      h.core = { s.hw.core with
        nextSeq := n + 1, owing := s.hw.core.owing ++ [(n, x.src)], inMp := if p = .mp then some (now s.hw) else s.hw.core.inMp
        inVp := if p = .vp then some (now s.hw) else s.hw.core.inVp, adm := h.core.adm, dec := h.core.dec } ∧
      h = { d.1 with ports := h.ports, core := h.core, perf := h.perf, ro := h.ro, hwSet := h.hwSet }
    let isReq := fun (r : Req) (kind : Kind) (lines : List LineKey) (par : Nat) =>
      r.iseq = n ∧ r.kind = kind ∧ r.port = some p ∧ r.hdr = hintOf x ∧ r.pay = pay ∧ r.lines = lines ∧ r.label = d.2.1 ∧
      r.group = groupOf s.cfg d.2.1 ∧ r.tc = k.tc ∧ r.elig = k.elig ∧ r.demoted = k.demoted ∧ r.par = par ∧ r.sect = sect ∧
      r.units = (if k.elig then tc0Units s.cfg s.hw (hintOf x) else 0) ∧ r.counted = true ∧ r.eng = none
    (∀ kind lines par, d.2.2 = .go kind lines par →
      kind ≠ .streamCtl → kind ≠ .cfgRead → kind ≠ .cfgWrite → kind ≠ .fence →
      (sectRoom s.hw sect = true → ¬ before → After i s (fun h => taken h ∧ MsgGone p vc x d.1 h ∧ h.ports.eg = d.1.ports.eg ∧
        h.core.dec = s.hw.core.dec ∧ ∃ r, h.core.adm = s.hw.core.adm ++ [r] ∧ isReq r kind lines par)) ∧
      (sectRoom s.hw sect = false ∨ before → After i s (fun h => taken h ∧ h.ports = d.1.ports ∧ h.core.adm = s.hw.core.adm ∧
        ∃ r, isReq r kind lines par ∧
          ∀ j, cFind h.core.dec j = if j = portKey p vc then some r else cFind s.hw.core.dec j))) ∧
    (∀ code arg2, d.2.2 = .code code arg2 →
      After i s (fun h => taken h ∧ MsgGone p vc x d.1 h ∧ h.core.adm = s.hw.core.adm ∧ h.core.dec = s.hw.core.dec ∧
        Answered p x code d.1 h))) ∧
  (∀ (s : State) (p : Port) (vc : Nat) (x : Hdr) (pay : List PWord) (acc : Nat) (i : Instr),
    running s.hw = true → headMsg s.hw p vc = some (x, pay, acc) → wellFormed vc x = true → vc / 2 = 0 → reqCmd p vc x = some i →
    (mayIntake s.hw p = false → cFind s.hw.core.dec (portKey p vc) = none → exec i s = .next s) ∧
    (∀ r, cFind s.hw.core.dec (portKey p vc) = some r → r.kind ≠ .cfgRead → r.kind ≠ .cfgWrite → r.kind ≠ .fence →
      (sectRoom s.hw r.sect = true → decBefore s.hw r = false → After i s (fun h => MsgGone p vc x s.hw h ∧
        h.ports.eg = s.hw.ports.eg ∧
        (∀ j, cFind h.core.dec j = if j = portKey p vc then none else cFind s.hw.core.dec j) ∧
        h = { s.hw with ports := h.ports, core := { s.hw.core with adm := s.hw.core.adm ++ [r], dec := h.core.dec } })) ∧
      (sectRoom s.hw r.sect = false ∨ decBefore s.hw r = true → exec i s = .next s))) ∧
  (∀ (h : Hw) (p : Port), inDone h p = true → mayIntake h p = false) ∧
  (∀ (h : Hw), inDone h .mp = false → inDone h .vp = false → inHas h .mp = true → inHas h .vp = true →
    mayIntake h .vp = decide (now h % 2 = 0) ∧ mayIntake h .mp = decide (now h % 2 = 1))

/-- Requests that take no entry of the transaction table pass intake like any other. CfgRead and CfgWrite go to the register queue, behind
what waits there, at the end of their CLK_C cycle; a FENCE goes to the fence table; where that has no room they wait in the admission
buffer (R23, R27, R114). A StreamCtl is applied at once to a context in RUNNING or EXPIRED and answered OK: a RENEW adds its bytes to the
lease, which saturates, and takes an EXPIRED context with 4 KB or more back to RUNNING; a STOP asks the context to stop, which it does at
once, with its EngineEvent where it is asked for, when no chunk is under way and some remain; in any other state it is answered STATE and has no effect
(R240, R241, R243, R244). -/
def Obligations.RequestsWithoutATransaction : Prop :=
  ∀ (s : State) (p : Port) (vc : Nat) (x : Hdr) (pay : List PWord) (acc : Nat) (i : Instr) (par : Nat),
    running s.hw = true → headMsg s.hw p vc = some (x, pay, acc) → wellFormed vc x = true → vc / 2 = 0 → reqCmd p vc x = some i →
    mayIntake s.hw p = true → cFind s.hw.core.dec (portKey p vc) = none →
    let d := decodeReq s.cfg (hintOf x) s.hw
    let k := classOf s.cfg s.hw vc (hintOf x) d.2.1
    let n := s.hw.core.nextSeq
    let sect : Sect := if k.elig then .hi else .lo
    let before := ∃ q, q ∈ s.hw.core.dec ∧ isEvt q.2.kind = false ∧ q.2.sect = sect ∧ q.2.iseq < n
    let waits := ∃ r, r ∈ decoded s.hw ∧ (r.kind = .cfgRead ∨ r.kind = .cfgWrite) ∧ r.iseq < n
    let ctx := ctxAt s.hw par
    let lease := min 0xFFFFFFFF (ctx.lease + fld x.arg0 31 0)
    let taken := fun (h : Hw) => MsgGone p vc x d.1 h ∧ SameRegs regIntake d.1 h ∧
      h.core = { s.hw.core with
        nextSeq := n + 1, owing := s.hw.core.owing ++ [(n, x.src)], inMp := if p = .mp then some (now s.hw) else s.hw.core.inMp
        inVp := if p = .vp then some (now s.hw) else s.hw.core.inVp, adm := h.core.adm, fences := h.core.fences }
    let stream := fun (h : Hw) => taken h ∧ h.core.adm = s.hw.core.adm ∧ h.core.fences = s.hw.core.fences ∧
      (∀ j, j ≠ par → ctxAt h j = ctxAt s.hw j) ∧
      h = { s.hw with
        ports := h.ports, core := h.core, perf := h.perf, ro := h.ro, hwSet := h.hwSet
        reel := { s.hw.reel with ctx := h.reel.ctx } }
    (∀ kind, kind = .cfgRead ∨ kind = .cfgWrite → d.2.2 = .go kind [] par →
      (s.hw.path.queue.length + s.hw.path.mesh.length < 16 → ¬ waits →
        After i s (fun h => taken h ∧ h.core.adm = s.hw.core.adm ∧ h.core.fences = s.hw.core.fences ∧
          h.ports.eg = s.hw.ports.eg ∧
          h = { d.1 with
            ports := h.ports, core := h.core, perf := h.perf, ro := h.ro, hwSet := h.hwSet
            path := { s.hw.path with mesh := s.hw.path.mesh ++ [{
              carrier := .mesh p (hintOf x) n k.tc, write := kind == .cfgWrite, off := par, data := x.arg2, at_ := clkC s.hw }] } })) ∧
      (16 ≤ s.hw.path.queue.length + s.hw.path.mesh.length ∨ waits → sectRoom s.hw sect = true → ¬ before →
        After i s (fun h => taken h ∧ h.core.fences = s.hw.core.fences ∧ h.ports.eg = s.hw.ports.eg ∧
          (∃ r, h.core.adm = s.hw.core.adm ++ [r] ∧ r.kind = kind ∧ r.iseq = n ∧ r.hdr = hintOf x ∧ r.par = par ∧ r.tc = k.tc) ∧
          h = { d.1 with ports := h.ports, core := h.core, perf := h.perf, ro := h.ro, hwSet := h.hwSet }))) ∧
    (d.2.2 = .go .fence [] par →
      (s.hw.core.fences.length < 64 →
        After i s (fun h => taken h ∧ h.core.adm = s.hw.core.adm ∧ h.ports.eg = s.hw.ports.eg ∧
          h.core.fences = s.hw.core.fences ++ [{ iseq := n, hdr := hintOf x, port := p, tc := k.tc }] ∧
          h = { d.1 with ports := h.ports, core := h.core, perf := h.perf, ro := h.ro, hwSet := h.hwSet })) ∧
      (64 ≤ s.hw.core.fences.length → sectRoom s.hw sect = true → ¬ before →
        After i s (fun h => taken h ∧ h.core.fences = s.hw.core.fences ∧ h.ports.eg = s.hw.ports.eg ∧
          (∃ r, h.core.adm = s.hw.core.adm ++ [r] ∧ r.kind = .fence ∧ r.iseq = n ∧ r.hdr = hintOf x ∧ r.tc = k.tc) ∧
          h = { d.1 with ports := h.ports, core := h.core, perf := h.perf, ro := h.ro, hwSet := h.hwSet }))) ∧
    (d.2.2 = .go .streamCtl [] par → ctx.st = .running ∨ ctx.st = .expired →
      (fld x.arg2 1 0 = 1 → After i s (fun h => stream h ∧ Answered p x 0 s.hw h ∧ ctxAt h par = { ctx with
        lease := lease, st := if ctx.st = .expired ∧ 4096 ≤ lease then .running else ctx.st })) ∧
      (fld x.arg2 1 0 = 2 → ctx.chunks ≠ [] ∨ ctx.total ≤ ctx.started →
        After i s (fun h => stream h ∧ Answered p x 0 s.hw h ∧ ctxAt h par = { ctx with
          stop := true, st := if ctx.st = .running then .stopping else ctx.st })) ∧
      (fld x.arg2 1 0 = 2 → ctx.chunks = [] → ctx.started < ctx.total →
        After i s (fun h => stream h ∧ ctxAt h par = { ctx with stop := true, st := .stopped } ∧
          (∃ tc m, m ∈ cGet [] h.ports.eg (portKey p (vcOf 3 tc)) ∧ m.hdr.type = 0x36 ∧ m.hdr.resp = 0 ∧ m.hdr.dst = x.src ∧
            m.hdr.rtag = x.rtag ∧ m.note = .req n) ∧
          (ctx.notify = true → ∃ m, m ∈ cGet [] h.ports.eg (vcOf 3 (tcOf s.cfg (groupOf s.cfg ctx.label))) ∧ m.hdr.type = 0x3C ∧
            m.hdr.dst = ctx.rid ∧ fld m.hdr.arg2 15 8 = 2) ∧
          (ctx.notify = false → Answered p x 0 s.hw h)))) ∧
    (d.2.2 = .go .streamCtl [] par → ctx.st ≠ .running → ctx.st ≠ .expired →
      After i s (fun h => stream h ∧ Answered p x 5 s.hw h ∧ h.reel = s.hw.reel))

/-- What decode makes of a request that names a line by its address, after READY, with no march pass and not from a bridge: the
transaction of its type on the line of HMT space or of the PINNED way; an alias write for a write to the set or clear alias;
an accumulation or a TANGO_READ
on every line of its span; DECERR for a caching read of a PINNED line, for a misaligned atomic, for an Atomic of an undefined opcode or with
fields that no row admits, and for one to an alias; STATE for a caching read without a caching agent below
COH.CAI_LIMIT that is not fenced (R53, R54, R77, R84, R135, R147, R170). -/
def Obligations.DecodeOfLineRequests : Prop :=
  ∀ (s : State) (x : Hdr) (l : List LineKey), isBridge s.cfg x.src = false → s.hw.rst.boot = .ready → s.hw.prot.march = none →
    let pa := x.addr.toNat
    let gives := fun (d : Dec) => decodeReq s.cfg x s.hw = (s.hw, x.label, d)
    let cai : BitVec 12 := x.arg2.setWidth 12
    let caches := bit x.arg2 31 && caiOk s.cfg cai && !(fenced s.hw cai)
    let op := fld x.arg2 4 0
    let two := fld x.arg2 5 5 = 1
    let fits := ¬ (op = 0xD ∧ ¬ two) ∧ pa % (if two then 8 else 4) = 0
    let spanned :=
      (0x10 ≤ op → op ≤ 0x14 → accFieldsOk x = true → accLines s.cfg s.hw x pa = some l → gives (.go .acc l 0)) ∧
      (op = 0x18 → accFieldsOk x = true → accLines s.cfg s.hw x pa = some l → gives (.go .tangoRead l 0)) ∧
      (0x10 ≤ op → accFieldsOk x = false ∨ accLines s.cfg s.hw x pa = none → gives (.code 3 0)) ∧
      (op = 0xE ∨ op = 0xF ∨ (0x15 ≤ op ∧ op ≠ 0x18) → gives (.code 3 0))
    (decodePa s.cfg s.hw pa = .home →
      (x.type = 1 → gives (if caches then .go .readShared [.pa (pa / 128)] 0 else .code 5 0)) ∧
      (x.type = 2 → gives (if caches then .go .readOwn [.pa (pa / 128)] 0 else .code 5 0)) ∧
      (x.type = 3 → gives (.go .readNoSnoop [.pa (pa / 128)] 0)) ∧
      (x.type = 4 → gives (.go .writeInv [.pa (pa / 128)] 0)) ∧
      (x.type = 5 → gives (.go .writePart [.pa (pa / 128)] 0)) ∧
      (x.type = 6 → op ≤ 0xD → gives (if fits then .go .atomic [.pa (pa / 128)] 0 else .code 3 0)) ∧ (x.type = 6 → spanned)) ∧
    (∀ al w t, decodePa s.cfg s.hw pa = .pin al w t →
      (x.type = 1 ∨ x.type = 2 → gives (.code 3 0)) ∧
      (x.type = 3 → gives (.go .readNoSnoop [.loc w t] 0)) ∧
      (x.type = 4 → al = 0 → gives (.go .writeInv [.loc w t] 0)) ∧
      (x.type = 5 → al = 0 → gives (.go .writePart [.loc w t] 0)) ∧
      (x.type = 4 ∨ x.type = 5 → al = 1 → gives (.go (.aliasW false) [.loc w t] 0)) ∧
      (x.type = 4 ∨ x.type = 5 → al = 2 → gives (.go (.aliasW true) [.loc w t] 0)) ∧
      (x.type = 6 → al = 0 → op ≤ 0xD → gives (if fits then .go .atomic [.loc w t] 0 else .code 3 0)) ∧
      (x.type = 6 → al = 0 → spanned) ∧
      (x.type = 6 → al ≠ 0 → gives (.code 3 0)))

/-- Before READY every request but a configuration access that passes decode is answered RETRY (R423); a configuration access at an
aligned offset of this slice's configuration space is served from the release edge on (R10, R364, R423). What decode makes of queue and selection requests after READY: the operation on the descriptor's line of a QUEUE way, RETRY
while SET_MODE turns the way into one, DECERR for a way in another mode; the operation on a defined record's lines, DECERR for one
that is not defined (R45, R156, R202). -/
def Obligations.DecodeBeforeReadyAndOfQueues : Prop :=
  (∀ (s : State) (x : Hdr), s.hw.rst.boot ≠ .ready →
      (x.type.toNat ≤ 16 → ∀ kind lines par, (decodeReq s.cfg x s.hw).2.2 ≠ .go kind lines par) ∧
      (1 ≤ x.type.toNat → x.type.toNat ≤ 5 → isBridge s.cfg x.src = false → decodePa s.cfg s.hw x.addr.toNat = .home →
        decodeReq s.cfg x s.hw = (s.hw, x.label, .code 6 0)) ∧
      (∀ o, decodePa s.cfg s.hw x.addr.toNat = .cfg o → o % 4 = 0 →
        (x.type = 0x11 → decodeReq s.cfg x s.hw = (s.hw, x.label, .go .cfgRead [] o)) ∧
        (x.type = 0x12 → decodeReq s.cfg x s.hw = (s.hw, x.label, .go .cfgWrite [] o)))) ∧
  (∀ (s : State) (x : Hdr) (e : Nat) (t : Rec), s.hw.rst.boot = .ready → s.hw.prot.march = none →
      let gives := fun (d : Dec) => decodeReq s.cfg x s.hw = (s.hw, x.label, d)
      let q := fld x.addr 13 0
      let w := queWay q
      let n := fld x.arg2 13 8
      let r := fld x.addr 9 0
      let vc := fld x.arg2 10 4
      (8 ≤ x.type.toNat → x.type.toNat ≤ 11 → fld x.addr 21 14 = s.hw.rst.id.toNat → esize (fld x.arg2 2 0) = some e →
        n ≠ 0 → n * e ≤ 256 → n ≤ (if x.type.toNat ≤ 9 then 1 else 32) →
        (wayMode s.hw w = 2 → setting s.hw w = none →
          gives (.go (if x.type = 8 then .enq else if x.type = 9 then .deq else if x.type = 10 then .enqB else .deqB)
            [.loc w (queSet q)] q)) ∧
        (wayMode s.hw w ≠ 2 → setting s.hw w = none → gives (.code 3 0)) ∧
        (∀ u, setting s.hw w = some u → u.mode = 2 → gives (.code 6 0))) ∧
      (12 ≤ x.type.toNat → x.type.toNat ≤ 15 → recAt s.hw r = none → gives (.code 3 0)) ∧
      (14 ≤ x.type.toNat → x.type.toNat ≤ 15 → recAt s.hw r = some t → fld x.addr 17 10 = s.hw.rst.id.toNat → fld x.arg2 1 0 ≠ 3 →
        gives (.go (if x.type = 14 then .selReadReset else .selReset) (recKeys t) r)) ∧
      (12 ≤ x.type.toNat → x.type.toNat ≤ 13 → recAt s.hw r = some t → fld x.addr 17 10 = s.hw.rst.id.toNat → fld x.arg2 1 0 ≠ 3 →
        vc ≠ 0 → vc ≤ selN (decide (x.type = 13)) (fld x.arg2 1 0) (fld x.arg2 2 2) →
        gives (.go (if x.type = 12 then .selOffer else .selPairs) (recKeys t) r)))
/-! ### Snoop responses and the other messages of the coherence flows -/

/-- A response in a form that R85 gives to the snoop leaves its buffer and answers the snoop: it is done, with the data forwarded or not and
the agent's copy kept or gone as the form says; WbInFlight makes it wait for the WriteBack; PassedDirty and LineBack bring data, which is
home data from then on, dirty for PassedDirty and as ARG2[0] says for LineBack (R85, R86, R91, R93). The entry is then read (R333). Where
Gavotte had lost a recall's first response from the owner, NoCopy makes the line poisoned, counted and logged (R337). WbInFlight for the
transaction of a WriteBack of that agent makes the WriteBack's own data home data; for a WriteBack that is held it brings that one's
data, or discards it where the transaction discards dirty data; to any other answer a held WriteBack acts at once (R82, R92, R93). A
response that nothing awaits does nothing here, and a form that R85 does not give stops: the assumption on the agents is broken (log entry
10). -/
def Obligations.SnoopResponseAnswersItsSnoop : Prop :=
  ∀ (s : State) (p : Port) (vc : Nat) (x : Hdr) (pay : List PWord) (acc : Nat) (i : Instr),
    running s.hw = true → s.hw.rst.boot = .ready → headMsg s.hw p vc = some (x, pay, acc) → wellFormed vc x = true →
    answerCmd p vc x.type.toNat = some i →
    let t := x.type.toNat
    let n := x.tti.toNat
    let data := decide (t = 0x19 ∨ t = 0x1A)
    let dirty := decide (t = 0x19) || (decide (t = 0x1A) && bit x.arg2 0)
    let fwd := decide (t = 0x32 ∨ t = 0x33 ∨ t = 0x34 ∨ t = 0x19)
    let gone := decide (t = 0x30 ∨ t = 0x33 ∨ t = 0x1A)
    (awaited s.cfg s.hw x = none → exec i s = .next s) ∧
    ∀ (e : Ent) (sn : Snp), awaited s.cfg s.hw x = some (n, e, sn) →
      let wbSnp : Snp := { sn with st := .wb, gone := true, cyc := now s.hw, tmo := false }
      let ended := e.snp.map (fun y => if y = sn then (if t = 0x35 then wbSnp else { y with st := .done fwd, gone := gone }) else y)
      let own := e.req.kind = .writeBack ∧ senderCai e.req.hdr = sn.cai
      let held := wbHeld s.hw n (lineOf e sn.li) sn.cai
      let lossy := t = 0x30 ∧ sn.lost = true ∧ sn.kind = .recall ∧ sn.own = true
      let brings := fun (f : Ent) (li : Nat) (ws : List PWord) (d : Bool) =>
        (∀ w, w < ws.length → bufWord f li w = ws.getD w PWord.zero) ∧ f.held = e.held ||| 2 ^ li ∧
          f.dirty = if d then e.dirty ||| 2 ^ li else e.dirty
      let keeps := fun (f : Ent) => f.buf = e.buf ∧ f.held = e.held ∧ f.dirty = e.dirty
      let after := fun (P : Hw → Prop) => After i s (fun h => ∃ g, h = ttSee s.cfg n g ∧ (ttClean e = true → h = g) ∧
        MsgGone p vc x s.hw g ∧ P g)
      (respAllowed sn.kind t = false → exec i s = .fault .assumptionBroken) ∧
      (respAllowed sn.kind t = true → held = none → ¬ lossy → ¬ (t = 0x35 ∧ own) → after (fun g =>
        OtherEnts n s.hw g ∧ g.ports.eg = s.hw.ports.eg ∧
        (∃ f, ent g n = some f ∧ f.snp = ended ∧ (data = true → brings f sn.li pay dirty) ∧ (data = false → keeps f) ∧
          f = { e with snp := f.snp, buf := f.buf, held := f.held, dirty := f.dirty }) ∧
        SameRegs regOvf s.hw g ∧
        g = { s.hw with ports := g.ports, core := { s.hw.core with tt := g.core.tt }, perf := g.perf, ro := g.ro, hwSet := g.hwSet })) ∧
      (respAllowed sn.kind t = true → held = none → lossy → s.hw.diag.rq.length < 30 → after (fun g =>
        OtherEnts n s.hw g ∧ g.ports.eg = s.hw.ports.eg ∧
        ent g n = some { e with snp := ended, toPoison := e.toPoison ||| 2 ^ sn.li } ∧
        roGet g 0x16058 = satAdd (roGet s.hw 0x16058) 1 ∧ bit (roGet g 0x16010) 2 = true ∧
        Reported 0x10 false (lineSrc s.cfg s.hw (lineOf e sn.li)) 0 g ∧ SameRegs ([0x16058, 0x16010] ++ regOvf) s.hw g ∧
        g = { s.hw with
          ports := g.ports, core := { s.hw.core with tt := g.core.tt }, perf := g.perf, ro := g.ro, hwSet := g.hwSet
          diag := { s.hw.diag with rq := g.diag.rq } })) ∧
      (t = 0x35 → respAllowed sn.kind t = true → own → after (fun g =>
        OtherEnts n s.hw g ∧ g.ports.eg = s.hw.ports.eg ∧
        (∃ f, ent g n = some f ∧
          f.snp = ended.map (fun y => if y.cai = sn.cai ∧ y.st = .wb then { y with st := .done false } else y) ∧
          brings f 0 e.req.pay true ∧ f = { e with snp := f.snp, buf := f.buf, held := f.held, dirty := f.dirty, aux2 := 1 }) ∧
        SameRegs regOvf s.hw g ∧
        g = { s.hw with ports := g.ports, core := { s.hw.core with tt := g.core.tt }, perf := g.perf, ro := g.ro, hwSet := g.hwSet })) ∧
      (∀ j w, t = 0x35 → respAllowed sn.kind t = true → ¬ own → held = some (j, w) → j ≠ n →
        let drops := e.req.kind = .writeInv ∨ e.req.kind = .maint 2
        after (fun g =>
          (∀ k, k ≠ n → k ≠ j → ent g k = ent s.hw k) ∧ g.ports.eg = s.hw.ports.eg ∧
          (∃ f, ent g n = some f ∧
            f.snp = ended.map (fun y => if y.cai = sn.cai ∧ y.st = .wb ∧ y.li = sn.li then { y with st := .done false, gone := true }
              else y) ∧
            (drops → keeps f) ∧ (¬ drops → brings f sn.li w.req.pay true) ∧
            f = { e with snp := f.snp, buf := f.buf, held := f.held, dirty := f.dirty }) ∧
          (drops → ∃ v, ent s.hw j = some v ∧ ent g j = some { v with todo := .commit :: answerTail, busy := false }) ∧
          (¬ drops → ent g j = ent s.hw j) ∧
          (∀ q, q ∈ g.home.gaveUp ↔ q ∈ s.hw.home.gaveUp ∧ ¬ (q.1 = sn.cai ∧ lineOf e sn.li = .pa q.2)) ∧
          SameRegs regOvf s.hw g ∧
          g = { s.hw with
            ports := g.ports, core := { s.hw.core with tt := g.core.tt }, perf := g.perf, ro := g.ro, hwSet := g.hwSet
            home := { s.hw.home with gaveUp := g.home.gaveUp } })) ∧
      (∀ j w, t ≠ 0x35 → respAllowed sn.kind t = true → held = some (j, w) → j ≠ n →
        After i s (fun h => ∃ g, MsgGone p vc x s.hw g ∧ g.ports.eg = s.hw.ports.eg ∧ OtherEnts n s.hw g ∧
          ent g n = some { e with snp := ended } ∧
          g = { s.hw with ports := g.ports, core := { s.hw.core with tt := g.core.tt } } ∧
          let acted := evtApply s.cfg j w g
          let given := if data = true then takeData n sn.li pay dirty acted
            else if lossy then recoverPoison s.cfg n sn.li 0 acted else acted
          h = ttSee s.cfg n (if fwd = true then ev 0x4F 1 given else given)))

/-- FwdData for the home brings the line to the transaction that awaits it, CompAck completes the exchange of a ReadShared or ReadOwn, and
the entry of either is then read (R89, R118, R333). AgentFence fences its agent, clears the swept bit, and lets no further snoop to the
agent depart; one that names no caching agent is discarded (R95, R99). A multicast's residual report frees its tag; the residual targets
of a coarse-group snoop that are still to answer and not fenced are snooped again by unicast; a StreamChunk's report reaches its context,
after release while Gavotte holds the slice; one for an unused tag sets MP.PG_ERR.MCAST (R80, R219, R238, R369).
McastListAck answers one list (R370). Each message leaves its buffer. -/
def Obligations.CoherenceMessagesActOnTheirTransaction : Prop :=
  ∀ (s : State) (p : Port) (vc : Nat) (x : Hdr) (pay : List PWord) (acc : Nat) (e : Ent),
    running s.hw = true → s.hw.rst.boot = .ready → headMsg s.hw p vc = some (x, pay, acc) → wellFormed vc x = true →
    let i := x.tti.toNat
    let y : BitVec 12 := x.arg2.setWidth 12
    let tag := fld x.arg2 11 0
    let g := fld x.arg2 3 0
    let read := fun (P : Hw → Prop) (h : Hw) => ∃ g, h = ttSee s.cfg i g ∧ (ttClean e = true → h = g) ∧ P g
    (x.type = 0x18 → ent s.hw i = some e → awaitsFwd s.hw i x = true → After (.fwdDataToHome p vc) s (read (fun h =>
      MsgGone p vc x s.hw h ∧ OtherEnts i s.hw h ∧
      (∃ f, ent h i = some f ∧ (∀ w, w < pay.length → bufWord f 0 w = pay.getD w PWord.zero) ∧ f.held = e.held ||| 1 ∧
        f = { e with buf := f.buf, held := f.held }) ∧
      h = { s.hw with ports := { h.ports with eg := s.hw.ports.eg }, core := { s.hw.core with tt := h.core.tt } }))) ∧
    (x.type = 0x39 → ent s.hw i = some e → awaitsAck s.hw i (senderCai x) = true → fenced s.hw (senderCai x) = false →
      After (.compAck p vc) s (read (fun h => MsgGone p vc x s.hw h ∧ OtherEnts i s.hw h ∧ ent h i = some { e with aux2 := 1 } ∧
        h = { s.hw with ports := { h.ports with eg := s.hw.ports.eg }, core := { s.hw.core with tt := h.core.tt } }))) ∧
    (x.type = 0x3A → caiOk s.cfg y = true → fenced s.hw y = false → After (.agentFence p vc) s (fun h =>
      MsgGone p vc x s.hw h ∧ (∀ k, cGet [] h.ports.eg k = (cGet [] s.hw.ports.eg k).filterMap (unsnooped y)) ∧
      h = { s.hw with
        ports := h.ports
        home := { s.hw.home with fenced := s.hw.home.fenced ++ [y], swept := s.hw.home.swept.filter (· != y) } })) ∧
    (x.type = 0x3A → caiOk s.cfg y = false ∨ fenced s.hw y = true → After (.agentFence p vc) s (fun h =>
      MsgGone p vc x s.hw h ∧ h = { s.hw with ports := { h.ports with eg := s.hw.ports.eg } })) ∧
    (x.type = 0x3E → cFind s.hw.ports.mtags tag = none → After (.mcastResidual p vc) s (fun h =>
      MsgGone p vc x s.hw h ∧ bit (roGet h 0x2010) 2 = true ∧ SameRegs (0x2010 :: regOvf) s.hw h ∧
      h = { s.hw with ports := { h.ports with eg := s.hw.ports.eg }, perf := h.perf, ro := h.ro, hwSet := h.hwSet })) ∧
    (∀ note, x.type = 0x3E → cFind s.hw.ports.mtags tag = some note →
      let freed := fun (h : Hw) =>
        (∀ k, cGet [] h.ports.ing k = if k = portKey p vc then (cGet [] s.hw.ports.ing k).drop (x.dfl.toNat + 1)
          else cGet [] s.hw.ports.ing k) ∧
        (∀ k, cGet 0 h.ports.owed k = if k = portKey p vc then cGet 0 s.hw.ports.owed k + (x.dfl.toNat + 1)
          else cGet 0 s.hw.ports.owed k) ∧
        (∀ k, cFind h.ports.mtags k = if k = tag then none else cFind s.hw.ports.mtags k) ∧ SameRegs regOvf s.hw h ∧
        h = { s.hw with
          ports := { s.hw.ports with ing := h.ports.ing, owed := h.ports.owed, mtags := h.ports.mtags, eg := h.ports.eg }
          perf := h.perf, ro := h.ro, hwSet := h.hwSet, reel := { s.hw.reel with late := h.reel.late } }
      ((∀ n k m, note ≠ .chunk n k m) → (∀ n j, note ≠ .snpGroup n j) → After (.mcastResidual p vc) s (fun h =>
        freed h ∧ h.ports.eg = s.hw.ports.eg ∧ h.reel = s.hw.reel)) ∧
      (∀ n j, note = .snpGroup n j → ent s.hw n = some e →
        let asked := fun (u : Nat) (sn : Snp) => u < 64 ∧ bit x.arg0 u = true ∧ fenced s.hw sn.cai = false ∧
          e.snp.find? (fun q => decide (q.cai.toNat = 64 * j + u) && (q.st == .out)) = some sn
        let snoop := fun (sn : Snp) (m : OutMsg) => m.hdr.type.toNat = sn.kind.type ∧ m.hdr.dkind = 1 ∧
          m.hdr.dst = sn.cai.setWidth 16 ∧ m.hdr.tti = BitVec.ofNat 14 n ∧ m.sent = 0
        let key := fun (sn : Snp) => portKey (if viaVp s.cfg s.hw sn.cai then .vp else .mp) (vcOf 1 e.req.tc)
        After (.mcastResidual p vc) s (fun h => freed h ∧ h.reel = s.hw.reel ∧
          (∀ k, ∃ l, cGet [] h.ports.eg k = cGet [] s.hw.ports.eg k ++ l ∧
            (∀ m ∈ l, ∃ u sn, asked u sn ∧ snoop sn m ∧ key sn = k) ∧
            (∀ u sn, asked u sn → key sn = k → ∃ m, m ∈ l ∧ snoop sn m)))) ∧
      (∀ n j, note = .snpGroup n j → ent s.hw n = none → After (.mcastResidual p vc) s (fun h =>
        freed h ∧ h.ports.eg = s.hw.ports.eg ∧ h.reel = s.hw.reel)) ∧
      (∀ n k m, note = .chunk n k m → gavBusy s.hw = true → After (.mcastResidual p vc) s (fun h =>
        freed h ∧ h.ports.eg = s.hw.ports.eg ∧ h.reel.late = s.hw.reel.late ++ [(n, k, m, x.arg0.setWidth 32)])) ∧
      (∀ n k m, note = .chunk n k m → gavBusy s.hw = false → After (.mcastResidual p vc) s (fun h =>
        ∃ q, freed (popMsg p vc q) ∧ q.ports.ing = s.hw.ports.ing ∧ q.ports.eg = s.hw.ports.eg ∧ q.reel = s.hw.reel ∧
          h = popMsg p vc (reelReport s.cfg n k m (x.arg0.setWidth 32) q)))) ∧
    (x.type = 0x2D → cGet 0 s.hw.reel.lists g ≠ 0 → After (.mcastListAck p vc) s (fun h =>
      MsgGone p vc x s.hw h ∧ (∀ k, cGet 0 h.reel.lists k = if k = g then cGet 0 s.hw.reel.lists g - 1 else cGet 0 s.hw.reel.lists k) ∧
      h = { s.hw with ports := { h.ports with eg := s.hw.ports.eg }, reel := { s.hw.reel with lists := h.reel.lists } }))

/-- The response of another slice to an engine's request is consumed: CompData, a failed Comp, a Comp for a write or one whose data
have come end the request and reach the engine, or wait for release while Gavotte holds the slice; a Comp for a read whose data
have not come, and FwdData of DKIND 0 before its Comp, are kept for each other (R87, R217, R219, R226, R362). An Evict or WriteBack passes
intake at its port and takes an intake number. One from a fenced agent is discarded; one that decode refuses is answered at once: DECERR for a
line of a PINNED way or of configuration space, STATE for a CAI at or above COH.CAI_LIMIT. One for a line of HMT space homed here waits in
its buffer, past intake, until it is the lowest-numbered message or request that may be admitted, and then becomes the named entry of
the transaction table (R18, R19, R24, R25, R77, R88, R97). -/
def Obligations.EventsAndRemoteResponsesAreTaken : Prop :=
  (∀ (s : State) (p : Port) (vc : Nat) (x : Hdr) (pay : List PWord) (acc : Nat) (r : Remote),
      running s.hw = true → s.hw.rst.boot = .ready → headMsg s.hw p vc = some (x, pay, acc) → wellFormed vc x = true →
      cFind s.hw.glp.remote x.rtag.toNat = some r →
      let tag := x.rtag.toNat
      let out := s.hw.modGlp (fun g => { g with remote := cDel g.remote tag })
      let ends := fun (code : BitVec 3) (ws : List PWord) => After (.engineComp p vc) s (fun h =>
        h = popMsg p vc (if gavBusy s.hw then { out with glp := { out.glp with late := out.glp.late ++ [(r.eng, code, ws)] } }
          else engResult r.eng code ws out))
      let keeps := fun (q : Remote) => After (.engineComp p vc) s (fun h => MsgGone p vc x s.hw h ∧
        (∀ k, cFind h.glp.remote k = if k = tag then some q else cFind s.hw.glp.remote k) ∧
        h = { s.hw with ports := { h.ports with eg := s.hw.ports.eg }, glp := { s.hw.glp with remote := h.glp.remote } })
      (x.type = 0x1B → ends x.resp pay) ∧
      (x.type = 0x36 → r.read = false ∨ 3 ≤ x.resp.toNat → ends x.resp []) ∧
      (∀ ws, x.type = 0x36 → r.read = true → x.resp.toNat < 3 → r.data = some ws → ends (if ws.any (·.poi) then 2 else 0) ws) ∧
      (x.type = 0x36 → r.read = true → x.resp.toNat < 3 → r.data = none → r.comp = none → keeps { r with comp := some x.resp }) ∧
      (x.type = 0x18 → x.dkind = 0 → r.read = true → r.data = none → r.comp = none → keeps { r with data := some pay }) ∧
      (∀ v, x.type = 0x18 → x.dkind = 0 → r.read = true → r.data = none → r.comp = some v →
        ends (if pay.any (·.poi) then 2 else 0) pay)) ∧
  (∀ (s : State) (p : Port) (vc tt : Nat) (x : Hdr) (pay : List PWord) (acc : Nat),
      running s.hw = true → s.hw.rst.boot = .ready → headMsg s.hw p vc = some (x, pay, acc) → wellFormed vc x = true →
      (x.type = 0x28 ∨ x.type = 0x29) →
      let i : Instr := if x.type = 0x28 then .evict p vc tt else .writeBack p vc tt
      let kind : Kind := if x.type = 0x28 then .evict else .writeBack
      let n := s.hw.core.nextSeq
      let key := portKey p vc
      let past : Core := { s.hw.core with
        nextSeq := n + 1, inMp := if p = .mp then some (now s.hw) else s.hw.core.inMp
        inVp := if p = .vp then some (now s.hw) else s.hw.core.inVp }
      let r := evtReq s.cfg p n x pay kind [.pa (x.addr.toNat / 128)]
      let waiting : Hw := { s.hw with core := { past with dec := cIns s.hw.core.dec key r } }
      (cFind s.hw.core.dec key = none →
        (mayIntake s.hw p = false → exec i s = .next s) ∧
        (mayIntake s.hw p = true → fenced s.hw (senderCai x) = true → After i s (fun h => MsgGone p vc x s.hw h ∧
          h = { s.hw with ports := { h.ports with eg := s.hw.ports.eg }, core := past })) ∧
        (∀ code arg2 h1, mayIntake s.hw p = true → fenced s.hw (senderCai x) = false →
          decEvt s.cfg x { s.hw with core := past } = (h1, .code code arg2) → After i s (fun h => MsgGone p vc x h1 h ∧
            (∃ tc m, tc ≤ 3 ∧ Queued p (vcOf 3 tc) m h1 h ∧ m.hdr.type = (if x.type = 0x28 then 0x37 else 0x38) ∧ m.hdr.resp = code ∧
              m.hdr.arg2 = arg2 ∧ m.hdr.dkind = 1 ∧ m.hdr.dst = x.src &&& 0xFFF ∧ m.hdr.rtag = x.rtag ∧ m.hdr.addr = x.addr) ∧
            h = { h1 with ports := h.ports })) ∧
        (mayIntake s.hw p = true → fenced s.hw (senderCai x) = false → decodePa s.cfg s.hw x.addr.toNat = .home →
          caiOk s.cfg (senderCai x) = true →
          ((admNext s.cfg waiting).map (·.iseq) ≠ some n → After i s (fun h => h = waiting)) ∧
          (∀ pl, admReady s.cfg waiting r = true → poolFor waiting r = some pl →
            (∀ q ∈ waitsTt s.hw, admReady s.cfg waiting q = true → n < q.iseq) → (∀ q ∈ s.hw.core.dec, q.2.iseq ≠ n) →
            tt < 16384 → ent s.hw tt = none →
            After i s (fun h => MsgGone p vc x s.hw h ∧ Admitted tt r pl s.hw h ∧
              (∀ k, cFind h.core.dec k = cFind s.hw.core.dec k) ∧ SameRegs regOvf s.hw h ∧
              h = { s.hw with
                ports := { h.ports with eg := s.hw.ports.eg }, perf := h.perf, ro := h.ro, hwSet := h.hwSet, prot := h.prot
                core := { past with
                  tt := h.core.tt, dec := h.core.dec, nextArr := h.core.nextArr, admCyc := h.core.admCyc
                  admNum := h.core.admNum } })))) ∧
      (∀ q pl, cFind s.hw.core.dec key = some q → isEvt q.kind = true → q.port = some p →
        ((admNext s.cfg s.hw).map (·.iseq) ≠ some q.iseq → After i s (fun h => h = s.hw)) ∧
        (admNext s.cfg s.hw = some q → cSeek (fun _ y => decide (y.iseq = q.iseq)) s.hw.core.dec = some (key, q) →
          tt < 16384 → ent s.hw tt = none →
          (fenced s.hw (senderCai q.hdr) = true → After i s (fun h => MsgGone p vc x s.hw h ∧
            (∀ k, cFind h.core.dec k = if k = key then none else cFind s.hw.core.dec k) ∧
            h = { s.hw with ports := { h.ports with eg := s.hw.ports.eg }, core := { s.hw.core with dec := h.core.dec } })) ∧
          (fenced s.hw (senderCai q.hdr) = false → poolFor s.hw q = some pl → After i s (fun h => MsgGone p vc x s.hw h ∧
            Admitted tt q pl s.hw h ∧ (∀ k, cFind h.core.dec k = if k = key then none else cFind s.hw.core.dec k) ∧
            SameRegs regOvf s.hw h ∧
            h = { s.hw with
              ports := { h.ports with eg := s.hw.ports.eg }, perf := h.perf, ro := h.ro, hwSet := h.hwSet, prot := h.prot
              core := { s.hw.core with
                tt := h.core.tt, dec := h.core.dec, nextArr := h.core.nextArr, admCyc := h.core.admCyc
                admNum := h.core.admNum } }))))) ∧
  (∀ (s : State) (x : Hdr), (∃ o, decodePa s.cfg s.hw x.addr.toNat = .cfg o) ∨ (∃ a w t, decodePa s.cfg s.hw x.addr.toNat = .pin a w t) →
      decEvt s.cfg x s.hw = (s.hw, .code 3 0)) ∧
  (∀ (s : State) (x : Hdr), decodePa s.cfg s.hw x.addr.toNat = .home → caiOk s.cfg (senderCai x) = false →
      decEvt s.cfg x s.hw = (s.hw, .code 5 0))

/-! ### Fences and the sweep -/

/-- COH.FENCE: FENCE fences a CAI, clears its swept bit and lets no further snoop to it depart, and does nothing to one that is fenced; UNFENCE
returns a swept CAI, whose swept bit stays until a new fence, and is refused with STATE for one that is not swept; SWEEP starts over the
sets for a fenced CAI, and is refused with STATE for another; a CAI at or above COH.CAI_LIMIT gives DECERR; while a sweep runs UNFENCE
and SWEEP only set COH.PG_ERR.CMD_STATE, and FENCE acts without changing the status (R95, R99, R101, R102). -/
def Obligations.FenceOperationsAct : Prop :=
  ∀ (s : State) (cai : BitVec 12), running s.hw = true →
    let ok := caiOk s.cfg cai
    let idle := s.hw.home.sweep.isNone
    let stat := fun (h : Hw) (b r op : Nat) =>
      roGet h 0x8044 = if idle then BitVec.ofNat 32 (b * 2 ^ 31 + r * 2 ^ 16 + op * 2 ^ 12 + cai.toNat) else roGet s.hw 0x8044
    let refused := fun (h : Hw) (l : List Nat) => bit (roGet h 0x8010) 0 = true ∧ SameRegs l s.hw h ∧
      h = { s.hw with ro := h.ro, hwSet := h.hwSet }
    (ok = true → fenced s.hw cai = false → After (.cohFence cai) s (fun h =>
      stat h 0 0 1 ∧ (∀ k, cGet [] h.ports.eg k = (cGet [] s.hw.ports.eg k).filterMap (unsnooped cai)) ∧ SameRegs [0x8044] s.hw h ∧
      h = { s.hw with
        ro := h.ro, ports := { s.hw.ports with eg := h.ports.eg }
        home := { s.hw.home with fenced := s.hw.home.fenced ++ [cai], swept := s.hw.home.swept.filter (· != cai) } })) ∧
    (ok = true → fenced s.hw cai = true → After (.cohFence cai) s (fun h =>
      stat h 0 0 1 ∧ SameRegs [0x8044] s.hw h ∧ h = { s.hw with ro := h.ro })) ∧
    (ok = true → idle = true → cai ∈ s.hw.home.swept → After (.cohUnfence cai) s (fun h =>
      stat h 0 0 2 ∧ SameRegs [0x8044] s.hw h ∧
      h = { s.hw with ro := h.ro, home := { s.hw.home with fenced := s.hw.home.fenced.filter (· != cai) } })) ∧
    (ok = true → idle = true → ¬ cai ∈ s.hw.home.swept → After (.cohUnfence cai) s (fun h =>
      stat h 0 5 2 ∧ refused h [0x8044, 0x8010])) ∧
    (ok = true → idle = true → fenced s.hw cai = true → After (.cohSweep cai) s (fun h =>
      stat h 1 0 3 ∧ SameRegs [0x8044] s.hw h ∧
      h = { s.hw with ro := h.ro, home := { s.hw.home with sweep := some (cai, 0) } })) ∧
    (ok = true → idle = true → fenced s.hw cai = false → After (.cohSweep cai) s (fun h =>
      stat h 0 5 3 ∧ refused h [0x8044, 0x8010])) ∧
    (ok = true → idle = false →
      After (.cohUnfence cai) s (fun h => refused h [0x8010]) ∧ After (.cohSweep cai) s (fun h => refused h [0x8010])) ∧
    After (.cohFenceNop cai) s (fun h => stat h 0 0 0 ∧ SameRegs [0x8044] s.hw h ∧ h = { s.hw with ro := h.ro }) ∧
    (ok = false → ∀ i op, (i, op) ∈ [(Instr.cohFence cai, 1), (.cohUnfence cai, 2), (.cohSweep cai, 3)] →
      After i s (fun h => stat h 0 3 op ∧ SameRegs [0x8044] s.hw h ∧ h = { s.hw with ro := h.ro }))

/-- The sweep reads one set in a cycle, when no lookup has read the snoop filter in it and no Gavotte sequence runs: the fenced CAI is no longer
recorded in the set, as forwarder, owner or precise sharer, but for entries reserved for a line; a line that it owned, of which no
transaction awaits it, is counted and logged as lost, and a back-invalidation is to poison it; after the last set BUSY clears and the CAI
is swept (R98, R99). -/
def Obligations.SweepRemovesTheAgent : Prop :=
  ∀ (s : State) (x : BitVec 12) (set : Nat), running s.hw = true → s.hw.home.sweep = some (x, set) → set < 16384 →
    fenced s.hw x = true →
    let kept := fun (h : Hw) =>
      (∀ n, n < 16 → (sfAt h set n).rsv = true ∨ (sfAt h set n).dir = .di ∨
        (((sfAt h set n).coarse = false → ¬ x ∈ (sfAt h set n).shr) ∧
          ((sfAt h set n).dir = .dsf ∨ (sfAt h set n).dir = .doo → (sfAt h set n).ptr ≠ x))) ∧
      (∀ u n, u ≠ set → n < 16 → sfAt h u n = sfAt s.hw u n) ∧
      (set + 1 < 16384 → h.home.sweep = some (x, set + 1) ∧ roGet h 0x8044 = roGet s.hw 0x8044 ∧ h.home.swept = s.hw.home.swept) ∧
      (set + 1 = 16384 → h.home.sweep = none ∧ (∀ z, z ∈ h.home.swept ↔ z = x ∨ z ∈ s.hw.home.swept) ∧
        roGet h 0x8044 = BitVec.ofNat 32 ((roGet s.hw 0x8044).toNat % 2 ^ 31)) ∧
      h.home = { s.hw.home with
        sf := h.home.sf, sfPlru := h.home.sfPlru, sweep := h.home.sweep, sweepCyc := some (now s.hw), swept := h.home.swept }
    (s.hw.home.sfCyc ≠ some (now s.hw) → s.hw.home.sweepCyc ≠ some (now s.hw) → gavBusy s.hw = false →
      (∀ n, n < 16 → (sfAt s.hw set n).dir ≠ .di → (sfAt s.hw set n).rsv = false →
        (sfAt s.hw set n).errP < 2 ∧ ¬ ((sfAt s.hw set n).dir = .doo ∧ (sfAt s.hw set n).ptr = x)) →
      After .sweepSet s (fun h => kept h ∧ SameRegs ([0x8044, 0x14010, 0x14048] ++ regOvf) s.hw h ∧
        h = { s.hw with
          home := h.home, perf := h.perf, ro := h.ro, hwSet := h.hwSet, diag := { s.hw.diag with rq := h.diag.rq } })) ∧
    (∀ m j pl, s.hw.home.sfCyc ≠ some (now s.hw) → s.hw.home.sweepCyc ≠ some (now s.hw) → gavBusy s.hw = false →
      m < 16 → (∀ n, n < 16 → (sfAt s.hw set n).errT = 0 ∧ (sfAt s.hw set n).errP = 0) →
      (sfAt s.hw set m).dir = .doo → (sfAt s.hw set m).ptr = x → (sfAt s.hw set m).rsv = false →
      (∀ n, n < 16 → n ≠ m → ¬ ((sfAt s.hw set n).dir = .doo ∧ (sfAt s.hw set n).ptr = x)) →
      let ln := lineAt set (sfAt s.hw set m).tag
      snooped s.hw ln x = false → pickPool s.hw false true = some pl → freeIdx s.hw = some j → s.hw.diag.rq.length < 30 →
      After .sweepSet s (fun h => kept h ∧ OtherEnts j s.hw h ∧
        (∃ e, ent h j = some e ∧ e.req.kind = .backInv ∧ e.req.lines = [.pa ln] ∧ e.toPoison = 1 ∧ e.pool = pl ∧ e.active = false) ∧
        roGet h 0x8068 = satAdd (roGet s.hw 0x8068) 1 ∧ bit (roGet h 0x8010) 2 = true ∧ Reported 8 false ln 0 h ∧
        SameRegs ([0x8044, 0x8068, 0x8010] ++ regOvf) s.hw h ∧
        h = { s.hw with
          home := h.home, perf := h.perf, ro := h.ro, hwSet := h.hwSet, diag := { s.hw.diag with rq := h.diag.rq }, free := h.free
          core := { s.hw.core with tt := h.core.tt, nextArr := h.core.nextArr, nextSeq := h.core.nextSeq } })) ∧
    (s.hw.home.sfCyc = some (now s.hw) ∨ s.hw.home.sweepCyc = some (now s.hw) ∨ gavBusy s.hw = true →
      After .sweepSet s (fun h => h = s.hw))

/-! ### The transaction table -/

/-- ADMIT gives the lowest-numbered request or EVT-class message that may be admitted a free entry, with the next arrival number and
nothing done yet; a request leaves the admission buffer, a message its ingress buffer; with none ready, no free entry of that number or
two admitted in the cycle nothing happens (R24, R25, R26). LINE_ACTIVATE makes an entry without an error active on its lines when no other
is and none that waits is older, and not while Gavotte holds lookups (R28, R335). SF_ALLOC_RETRY lets an entry that waits for a
snoop-filter entry try again (R81). A snoop without response for COH.SNP_TMO CLK_C cycles is flagged, shown in SNP_TMO_INFO with its CAI and logged once, and the
transaction goes on waiting; the missing WriteBack after WbInFlight is only logged; COH.SNP_TMO = 0 disables the timeout (R100, R337). -/
def Obligations.EntriesAdvanceAndSnoopsTimeOut : Prop :=
  (∀ (s : State) (tt : Nat) (r : Req) (pl : Pool) (e : Ent), running s.hw = true →
      (tt < 16384 → ent s.hw tt = none → admNext s.cfg s.hw = some r → poolFor s.hw r = some pl → isEvt r.kind = false →
        After (.admitReq tt) s (fun h => Admitted tt r pl s.hw h ∧ SameRegs regOvf s.hw h ∧
          h = { s.hw with
            core := { s.hw.core with
              adm := dropFirst (fun q => decide (q.iseq = r.iseq)) s.hw.core.adm, tt := h.core.tt, nextArr := h.core.nextArr
              admCyc := h.core.admCyc, admNum := h.core.admNum }
            prot := h.prot, perf := h.perf, ro := h.ro, hwSet := h.hwSet })) ∧
      (∀ p vc x pay acc, tt < 16384 → ent s.hw tt = none → admNext s.cfg s.hw = some r → poolFor s.hw r = some pl →
        isEvt r.kind = true → r.port = some p → vc < 16 → headMsg s.hw p vc = some (x, pay, acc) →
        cSeek (fun _ y => decide (y.iseq = r.iseq)) s.hw.core.dec = some (portKey p vc, r) →
        After (.admitReq tt) s (fun h => MsgGone p vc x s.hw h ∧ SameRegs regOvf s.hw h ∧
          (∀ k, cFind h.core.dec k = if k = portKey p vc then none else cFind s.hw.core.dec k) ∧
          (fenced s.hw (senderCai r.hdr) = false → Admitted tt r pl s.hw h) ∧
          (fenced s.hw (senderCai r.hdr) = true → h.core = { s.hw.core with dec := h.core.dec } ∧ h.prot = s.hw.prot) ∧
          h = { s.hw with
            ports := { h.ports with eg := s.hw.ports.eg }
            core := { s.hw.core with
              dec := h.core.dec, tt := h.core.tt, nextArr := h.core.nextArr, admCyc := h.core.admCyc, admNum := h.core.admNum }
            prot := h.prot, perf := h.perf, ro := h.ro, hwSet := h.hwSet })) ∧
      (16384 ≤ tt ∨ (ent s.hw tt).isSome = true ∨ admNext s.cfg s.hw = none → After (.admitReq tt) s (fun h => h = s.hw)) ∧
      (∀ q, admNext s.cfg s.hw = some q → q ∈ waitsTt s.hw ∧ admReady s.cfg s.hw q = true ∧
        ∀ y ∈ waitsTt s.hw, admReady s.cfg s.hw y = true → q.iseq ≤ y.iseq) ∧
      (∀ q, admReady s.cfg s.hw q = true → q.sect ≠ .int → ¬ (s.hw.core.admCyc = now s.hw ∧ 2 ≤ s.hw.core.admNum)) ∧
      (ent s.hw tt = some e → e.active = false → e.joined = none → e.busy = false → ttClean e = true → gavHolds s.hw = false →
        (∀ k ∈ e.req.lines, ∀ q ∈ s.hw.core.tt, q.1 = tt ∨ ¬ k ∈ q.2.req.lines ∨ q.2.joined.isSome = true ∨
          (q.2.active = false ∧ e.arr < q.2.arr)) →
        After (.lineActivate tt) s (fun h => OtherEnts tt s.hw h ∧ ent h tt = some { e with active := true } ∧ SameRegs regOvf s.hw h ∧
          h = { s.hw with core := { s.hw.core with tt := h.core.tt }, perf := h.perf, ro := h.ro, hwSet := h.hwSet })) ∧
      (ent s.hw tt = some e → ttClean e = true → mayActivate s.hw tt e = false ∨ e.busy = true →
        After (.lineActivate tt) s (fun h => h = s.hw)) ∧
      (ent s.hw tt = some e → e.todo.head? = some .sf → After (.sfAllocRetry tt) s (fun h =>
        OtherEnts tt s.hw h ∧ ent h tt = some { e with busy := false } ∧ h = { s.hw with core := { s.hw.core with tt := h.core.tt } }))) ∧
  (∀ (s : State) (tt : Nat) (cai : BitVec 12) (e : Ent) (n : Snp), running s.hw = true → ent s.hw tt = some e →
      let lim := cf s.cfg 8 0x5C 15 0
      e.snp.find? (fun y => (y.cai == cai) && !y.tmo && ((y.st == .out) || (y.st == .wb))) = some n →
      (lim ≠ 0 → n.cyc / 4 + lim ≤ now s.hw / 4 → s.hw.diag.rq.length < 30 →
        After (.snoopTmo tt cai) s (fun h => OtherEnts tt s.hw h ∧
          ent h tt = some { e with snp := e.snp.map (fun y => if y = n then { y with tmo := true } else y) } ∧
          Reported 9 false cai.toNat (b2n (n.st == .wb)) h ∧
          (n.st = .out → bit (roGet h 0x8010) 1 = true ∧ roGet h 0x806C = BitVec.ofNat 32 (2 ^ 31 + cai.toNat) ∧
            SameRegs ([0x8010, 0x806C] ++ regOvf) s.hw h) ∧
          (n.st = .wb → SameRegs regOvf s.hw h) ∧
          h = { s.hw with
            core := { s.hw.core with tt := h.core.tt }, diag := { s.hw.diag with rq := h.diag.rq }, perf := h.perf
            ro := h.ro, hwSet := h.hwSet })) ∧
      (lim = 0 ∨ now s.hw / 4 < n.cyc / 4 + lim → After (.snoopTmo tt cai) s (fun h => h = s.hw)))

/-- A fence completes what a transaction awaits from the fenced agent: an open snoop counts as answered and the agent's copy as gone;
where the answer could have carried the only copy (the WriteBack after WbInFlight, or a snoop of the owner other than SnpInv) the
line is to be poisoned, counted and logged; a WriteBack of the agent that is held acts at once; a CompAck counts as arrived (R96, R97,
R98). With nothing awaited from it, or an agent that is not fenced, nothing happens. A FENCE whose requester owes no completion of a request
with a lower intake number sends its Comp with OK; one that is owed waits (R113). -/
def Obligations.FencesComplete : Prop :=
  (∀ (s : State) (tt : Nat) (cai : BitVec 12) (e : Ent) (n : Snp), running s.hw = true → ent s.hw tt = some e →
      let open_ := e.snp.find? (fun y => (y.cai == cai) && (match y.st with | .done _ => false | _ => true))
      let lose := (n.st == .wb) || (n.own && (n.kind != .inv))
      let ended := e.snp.map (fun y => if y = n then { y with st := .done false, gone := true } else y)
      (∀ ln, fenced s.hw cai = true → open_ = some n → wbHeld s.hw tt (lineOf e n.li) cai = none → lineOf e n.li = .pa ln →
        s.hw.diag.rq.length < 30 →
        After (.fenceSnoopComplete tt cai) s (fun h => OtherEnts tt s.hw h ∧
          ent h tt = some { e with snp := ended, toPoison := if lose = true then e.toPoison ||| 2 ^ n.li else e.toPoison } ∧
          (lose = true → roGet h 0x8068 = satAdd (roGet s.hw 0x8068) 1 ∧ bit (roGet h 0x8010) 2 = true ∧ Reported 8 false ln 0 h ∧
            SameRegs ([0x8068, 0x8010] ++ regOvf) s.hw h) ∧
          (lose = false → h.diag = s.hw.diag ∧ SameRegs regOvf s.hw h) ∧
          h = { s.hw with
            core := { s.hw.core with tt := h.core.tt }, diag := { s.hw.diag with rq := h.diag.rq }, perf := h.perf
            ro := h.ro, hwSet := h.hwSet })) ∧
      (∀ ln j w, fenced s.hw cai = true → open_ = some n → wbHeld s.hw tt (lineOf e n.li) cai = some (j, w) → j ≠ tt →
        lineOf e n.li = .pa ln →
        After (.fenceSnoopComplete tt cai) s (fun h => ∃ g, OtherEnts tt s.hw g ∧ ent g tt = some { e with snp := ended } ∧
          SameRegs regOvf s.hw g ∧
          g = { s.hw with core := { s.hw.core with tt := g.core.tt }, perf := g.perf, ro := g.ro, hwSet := g.hwSet } ∧
          let acted := evtApply s.cfg j w g
          h = if lose = true then updEnt tt (fun e => { e with toPoison := e.toPoison ||| 2 ^ n.li }) (fenceLoss ln cai acted)
            else acted)) ∧
      (fenced s.hw cai = true → open_ = none → awaitsAck s.hw tt cai = true → After (.fenceSnoopComplete tt cai) s (fun h =>
        OtherEnts tt s.hw h ∧ ent h tt = some { e with aux2 := 1 } ∧ h = { s.hw with core := { s.hw.core with tt := h.core.tt } })) ∧
      (fenced s.hw cai = false ∨ (open_ = none ∧ awaitsAck s.hw tt cai = false) →
        After (.fenceSnoopComplete tt cai) s (fun h => h = s.hw))) ∧
  (∀ (s : State) (n : Nat) (f : FenceEnt), running s.hw = true →
      s.hw.core.fences.find? (fun g => decide (g.iseq = n) && !g.done) = some f →
      ((∀ o ∈ s.hw.core.owing, o.2 = f.hdr.src → n ≤ o.1) → After (.fenceComplete n) s (fun h =>
        (∃ m, Queued f.port (vcOf 3 f.tc) m s.hw h ∧ m.hdr.type = 0x36 ∧ m.hdr.resp = 0 ∧ m.hdr.dst = f.hdr.src ∧
          m.hdr.rtag = f.hdr.rtag ∧ m.note = .fence n) ∧
        SameRegs regOvf s.hw h ∧
        h = { s.hw with
          core := { s.hw.core with fences := s.hw.core.fences.map (fun g => if g.iseq = n then { g with done := true } else g) }
          ports := { s.hw.ports with eg := h.ports.eg }, perf := h.perf, ro := h.ro, hwSet := h.hwSet })) ∧
      ((∃ o, o ∈ s.hw.core.owing ∧ o.2 = f.hdr.src ∧ o.1 < n) → After (.fenceComplete n) s (fun h => h = s.hw)))

/-! ### Memory behind the slice -/

/-- Reads at XP: of the transactions that wait the first in arrival order takes the free slot of a tag, and its request is presented in
turn (R19, R30, R373); one that is presented is held until it transfers, with its line address, sectors and tag; a beat that the slot
still owes puts the 16 words of its sector, marked poisoned as it says and counted, into the transaction's buffer; with the last one the
transaction goes on, or finds the data when it comes to need it, and the slot frees in the next CLK_P cycle; any other beat is discarded
and flagged; a read that waits for XP.RD_TMO CLK_C cycles is flagged once and goes on waiting (R341, R373, R375). -/
def Obligations.XpReadsRunTheirSteps : Prop :=
  ∀ (s : State) (tag i li addr secs : Nat) (r : XpRd) (sector : Bool) (data : BitVec 512) (poison : BitVec 16), running s.hw = true →
    let sec := b2n sector
    let left := r.owed - 2 ^ sec
    let arr := fun (w : Nat × Nat × Nat × Nat) => ((ent s.hw w.1).map (·.arr)).getD 0
    let rds := fun (h : Hw) (q : XpRd) => ∀ k, cFind h.xp.rds k = if k = tag then some q else cFind s.hw.xp.rds k
    (slotNext s.hw = some (i, li, addr, secs) → (i, li, addr, secs) ∈ s.hw.xp.wait ∧
      ∀ w ∈ s.hw.xp.wait, arr (i, li, addr, secs) ≤ arr w) ∧
    (slotNext s.hw = some (i, li, addr, secs) → tag < 4096 → cFind s.hw.xp.rds tag = none → After (.xpSlotGrant tag) s (fun h =>
      rds h { tt := i, li := li, addr := addr, secs := secs, owed := secs, out := false, since := now s.hw, tmo := false } ∧
      h = { s.hw with xp := { s.hw.xp with
        wait := dropFirst (· == (i, li, addr, secs)) s.hw.xp.wait, rds := h.xp.rds, ask := s.hw.xp.ask ++ [tag] } })) ∧
    (s.hw.xp.wait = [] ∨ 4096 ≤ tag ∨ (cFind s.hw.xp.rds tag).isSome = true →
      After (.xpSlotGrant tag) s (fun h => h = s.hw)) ∧
    (s.pending = [] → ∃ t, step s = .next t ∧
      (∀ u rest, s.hw.xp.rdUp = none → s.hw.xp.ask = u :: rest → t.hw.xp.rdUp = some u ∧ t.hw.xp.ask = rest) ∧
      (∀ u, s.hw.xp.rdUp = some u → t.hw.xp.rdUp = some u ∧ t.hw.xp.ask = s.hw.xp.ask) ∧
      (∀ q, cFind t.hw.xp.rds tag = some q → q.owed ≠ 0)) ∧
    (cFind s.hw.xp.rds tag = some r → s.hw.xp.rdUp = some tag → After (.xpReadTransfer tag) s (fun h =>
      rds h { r with out := true, since := now s.hw } ∧ SameRegs regOvf s.hw h ∧
      h = { s.hw with
        xp := { s.hw.xp with rds := h.xp.rds, rdUp := none, rdPins := some (r.addr / 128, r.secs, tag) }
        perf := h.perf, ro := h.ro, hwSet := h.hwSet })) ∧
    (s.hw.xp.rdUp ≠ some tag → After (.xpReadTransfer tag) s (fun h => h = s.hw)) ∧
    (∀ e, cFind s.hw.xp.rds tag = some r → r.out = true → bitN r.owed sec = true → ent s.hw r.tt = some e →
      let taken := ∃ a b, e.busy = true ∧ e.todo.head? = some (.xrd a b r.li)
      After (.xpReadBeat tag sector data poison) s (fun h =>
        OtherEnts r.tt s.hw h ∧ rds h { r with owed := left, since := now s.hw } ∧
        (∃ f, ent h r.tt = some f ∧
          (∀ w, w < 16 → bufWord f r.li (16 * sec + w) = ⟨data.extractLsb' (32 * w) 32, bit poison w⟩) ∧
          (left = 0 → taken → f = { e with buf := f.buf, todo := e.todo.drop 1, busy := false }) ∧
          (left = 0 → ¬ taken → f = { e with buf := f.buf, xgot := e.xgot ||| 2 ^ r.li }) ∧
          (left ≠ 0 → f = { e with buf := f.buf })) ∧
        (poison ≠ 0 → roGet h 0x404C = satAdd (roGet s.hw 0x404C) 1) ∧ (poison = 0 → roGet h 0x404C = roGet s.hw 0x404C) ∧
        SameRegs (0x404C :: regOvf) s.hw h ∧
        h = { s.hw with
          core := { s.hw.core with tt := h.core.tt }, xp := { s.hw.xp with rds := h.xp.rds }, perf := h.perf
          ro := h.ro, hwSet := h.hwSet })) ∧
    (cFind s.hw.xp.rds tag = none ∨ (cFind s.hw.xp.rds tag = some r ∧ (r.out = false ∨ bitN r.owed sec = false)) →
      After (.xpReadBeat tag sector data poison) s (fun h =>
        bit (roGet h 0x4010) 0 = true ∧ SameRegs [0x4010] s.hw h ∧ h = { s.hw with ro := h.ro, hwSet := h.hwSet })) ∧
    (cFind s.hw.xp.rds tag = some r → r.out = true → r.owed ≠ 0 → r.tmo = false → cf s.cfg 4 0x44 15 0 ≠ 0 →
      r.since / 4 + cf s.cfg 4 0x44 15 0 ≤ clkC s.hw → After (.xpReadTmo tag) s (fun h =>
        bit (roGet h 0x4010) 1 = true ∧ roGet h 0x4048 = BitVec.ofNat 32 (2 ^ 31 + tag) ∧ rds h { r with tmo := true } ∧
        SameRegs [0x4010, 0x4048] s.hw h ∧
        h = { s.hw with xp := { s.hw.xp with rds := h.xp.rds }, ro := h.ro, hwSet := h.hwSet })) ∧
    (cFind s.hw.xp.rds tag = some r → r.out = false ∨ r.owed = 0 ∨ r.tmo = true ∨ cf s.cfg 4 0x44 15 0 = 0 ∨
      clkC s.hw < r.since / 4 + cf s.cfg 4 0x44 15 0 → After (.xpReadTmo tag) s (fun h => h = s.hw))

/-- Write beats at XP are presented in order, one of a running INIT_FILL where no other waits, and each is held until it transfers (R229,
R374). The last beat of a line is its acceptance: it lets the transaction that waits for it go on, or frees its ALB entry or its Jig entry
(R51, R122, R144); a beat of INIT_FILL advances the fill (R229). -/
def Obligations.XpWritesTransferInOrder : Prop :=
  (∀ (s : State) (w : XpWr), running s.hw = true →
    let moved := fun (h : Hw) => SameRegs regOvf s.hw h ∧
      h = { s.hw with
        xp := { s.hw.xp with wrUp := none, wrPins := some w }, perf := h.perf, ro := h.ro, hwSet := h.hwSet
        core := { s.hw.core with tt := h.core.tt }, near := h.near, glp := h.glp }
    let rest := fun (h : Hw) => h.core = s.hw.core ∧ h.near = s.hw.near ∧ h.glp = s.hw.glp
    s.hw.xp.wrUp = some w →
    (w.init = true → After .xpWriteBeat s (fun h => moved h ∧ h.core = s.hw.core ∧ h.near = s.hw.near ∧
      h.glp = { s.hw.glp with fill := s.hw.glp.fill.map (fun f => { f with next := f.next + 1 }) })) ∧
    (w.init = false → w.last = false ∨ w.own = none → After .xpWriteBeat s (fun h => moved h ∧ rest h)) ∧
    (∀ i e, w.init = false → w.last = true → w.own = some (.tt i) → ent s.hw i = some e →
      let waits := ∃ a b c, e.busy = true ∧ e.todo.head? = some (.xwr a b c)
      After .xpWriteBeat s (fun h => moved h ∧ OtherEnts i s.hw h ∧ h.near = s.hw.near ∧ h.glp = s.hw.glp ∧
        (waits → ent h i = some { e with todo := e.todo.drop 1, busy := false }) ∧ (¬ waits → ent h i = some e))) ∧
    (∀ n, w.init = false → w.last = true → w.own = some (.alb n) → After .xpWriteBeat s (fun h => moved h ∧
      h.core = s.hw.core ∧ h.glp = s.hw.glp ∧ h.near = { s.hw.near with alb := h.near.alb } ∧ OtherAlb n s.hw h ∧
      cFind h.near.alb n = none)) ∧
    (∀ n, w.init = false → w.last = true → w.own = some (.jig n) → After .xpWriteBeat s (fun h => moved h ∧
      h.core = s.hw.core ∧ h.glp = s.hw.glp ∧ h.near = { s.hw.near with jig := h.near.jig } ∧
      ∀ k, cFind h.near.jig k = if k = n then none else cFind s.hw.near.jig k))) ∧
  (∀ s : State, running s.hw = true → s.hw.xp.wrUp = none → After .xpWriteBeat s (fun h => h = s.hw)) ∧
  (∀ s : State, running s.hw = true → s.pending = [] → ∃ t, step s = .next t ∧
    (∀ w, s.hw.xp.wrUp = some w → t.hw.xp.wrUp = some w ∧ ∃ l, t.hw.xp.wrs = s.hw.xp.wrs ++ l) ∧
    (∀ w rest, s.hw.xp.wrUp = none → s.hw.xp.wrs = w :: rest → t.hw.xp.wrUp = some w ∧ ∃ l, t.hw.xp.wrs = rest ++ l) ∧
    (∀ f, s.hw.xp.wrUp = none → s.hw.xp.wrs = [] → s.hw.glp.fill = some f → f.next < f.total → gavBusy s.hw = false →
      t.hw.xp.wrUp = some {
        addr := f.next, words := List.replicate 16 ⟨f.pattern, false⟩, init := true, own := none, last := false }))

/-! ### The banks -/

/-- The scheduler of a bank that is up issues one row in a CLK_M cycle: the next row of the operation under way, else the first row of
the operation that it chooses: of the demand operations the highest in rank, and a bus-master operation only when no demand operation may
issue (R31, R32, R60, R261). An operation whose rows have all issued awaits its result; a queue operation linearizes with its first
write (R157); a Jig entry is free when its write issues (R64). Each row charges its group one unit in the present window, and its bytes
are counted; a group that reaches its UNITS is counted once a window (R258, R259, R263). A bank that has issued in the cycle, is not up or
is under a destroying march issues nothing. -/
def Obligations.BankIssuesOneRow : Prop :=
  (∀ (s : State) (b : Nat) (op : BankOp) (dem : Option (Nat × Nat)) (r : Nat × Nat) (rs : List (Nat × Nat)),
    running s.hw = true → b < 33 → (bank s.hw b).last ≠ some (clkM s.hw) → bankUp s.hw b = true → marchDestroys s.hw b = false →
    op.rows = r :: rs →
    let q0 := windowStart s.cfg s.hw
    let k := bank s.hw b
    let starts := k.cur.isNone
    ((k.cur = some op ∧ dem = none) ∨ (k.cur = none ∧ chooseOp s.cfg q0 b (mayIssue s.hw) = some (op, dem))) →
    let l := if starts then linOp op q0 else (q0, op)
    let op1 := { l.2 with rows := rs, done := op.done ++ [r] }
    let g := op.who.group
    let charged := cGet 0 q0.qos.charge g + 1
    let full := charged = unitsSeen s.cfg s.hw g ∧ tcOf s.cfg g ≠ 0 ∧ ¬ g ∈ q0.qos.dem
    let bytes : BitVec 64 := if qosCleared s.hw then 0 else 64
    (starts = true → dem = none → ∀ x ∈ k.pend, mayIssue s.hw x = true → demandOf s.cfg q0 k.rot x = none) ∧
    (∀ d, starts = true → dem = some d → ∀ x ∈ k.pend, mayIssue s.hw x = true → ∀ y, demandOf s.cfg q0 k.rot x = some y →
      rankOf k.rot d.1 d.2 op.who.iseq ≤ rankOf k.rot y.1 y.2 x.who.iseq) ∧
    After (.bankGrant b) s (fun h =>
      (bank h b).last = some (clkM s.hw) ∧
      (bank h b).pend = (if starts then dropFirst (fun x => x == l.2) (k.pend.map (fun x => if x == op then l.2 else x)) else k.pend) ∧
      (bank h b).cur = (if rs = [] then none else some op1) ∧
      (bank h b).fly = (if rs = [] then k.fly ++ [op1] else k.fly) ∧
      (bank h b).rot = (match dem with | some (0, v) => (v + 1) % 256 | _ => k.rot) ∧
      (bank h b).mrot = (if starts = true ∧ dem = none then match op.master with | some m => (masterNo m + 1) % 5 | none => k.mrot
        else k.mrot) ∧
      (∀ j, j ≠ b → bank h j = bank s.hw j) ∧
      (∀ j, pwr h j = if j = b ∧ b < 32 then { pwr s.hw b with last := now s.hw } else pwr s.hw j) ∧
      (∀ n, cFind h.near.jig n = if starts = true ∧ op.own = .jig n ∧ op.write = true then none else cFind s.hw.near.jig n) ∧
      (∀ i, op.own ≠ .tt i → ent h i = ent l.1 i) ∧
      (∀ i e, op.own = .tt i → ent l.1 i = some e → ent h i = some (if commitWrite e op then { e with wrote := true } else e)) ∧
      (op.who.charge = true →
        (∀ v, cGet 0 h.qos.charge v = if v = g then charged else cGet 0 q0.qos.charge v) ∧
        (∀ v, cGet 0 h.qos.tcBytes v = cGet 0 s.hw.qos.tcBytes v + if v = op.who.tc then bytes else 0) ∧
        (∀ v, cGet 0 h.qos.blkBytes v = cGet 0 s.hw.qos.blkBytes v + if v = op.who.label.toNat / 64 then bytes else 0) ∧
        (∀ v, cGet 0 h.qos.mchg v = (if q0.qos.mcyc = clkM s.hw then cGet 0 q0.qos.mchg v else 0) + if v = g then 1 else 0) ∧
        h.qos = { q0.qos with
          charge := h.qos.charge, mcyc := clkM s.hw, mchg := h.qos.mchg, tcBytes := h.qos.tcBytes, blkBytes := h.qos.blkBytes
          dem := if full then q0.qos.dem ++ [g] else q0.qos.dem } ∧
        (full → roGet h 0x10054 = roGet l.1 0x10054 + BitVec.ofNat 32 (if qosCleared s.hw then 0 else 1)) ∧
        (¬ full → roGet h 0x10054 = roGet l.1 0x10054)) ∧
      (op.who.charge = false → h.qos = q0.qos ∧ roGet h 0x10054 = roGet l.1 0x10054) ∧
      h.arr.words = s.hw.arr.words ∧ SameRegs (0x10054 :: regOvf) l.1 h ∧
      h = { l.1 with
        arr := { s.hw.arr with banks := h.arr.banks, pwr := h.arr.pwr }, qos := h.qos, perf := h.perf, ro := h.ro, hwSet := h.hwSet
        core := { s.hw.core with tt := h.core.tt }, near := { s.hw.near with jig := h.near.jig } })) ∧
  (∀ (s : State) (b : Nat), running s.hw = true →
    33 ≤ b ∨ (bank s.hw b).last = some (clkM s.hw) ∨ bankUp s.hw b = false ∨ marchDestroys s.hw b = true ∨
      ((bank s.hw b).cur = none ∧ ∀ op ∈ (bank s.hw b).pend, mayIssue s.hw op = false) →
    After (.bankGrant b) s (fun h => h = windowStart s.cfg s.hw))

/-- The oldest operation of a bank whose rows have all issued completes. A write stores its words in the rows it names,
every other word of the arrays staying as it was, and nothing in a failed bank, where its transaction learns that; its transaction goes
on, its ALB entry is free (R34, R36, R37, R144, R339); words of a line that its move is putting into new rows and that have been written
since move too (log entry 116). A read puts the decoded words, with the stored bits that have changed, into its transaction's buffer,
poisoned ones from a failed bank; words in error are counted and remembered, uncorrectable ones set ECC.PG_ERR.UE and a retry is asked for;
then the transaction goes on (R274, R278, R281, R339). The row of a Jig entry is merged: its write follows, but for words that stay
poisoned, which are logged (R64, R65). A march operation ends with its own command, and with nothing awaited nothing happens. -/
def Obligations.BankOperationCompletes : Prop :=
  ∀ (s : State) (b i : Nat) (upsets : List (Nat × BitVec 39)) (op : BankOp) (rest : List BankOp) (e : Ent), running s.hw = true →
    ((bank s.hw b).fly = [] → After (.bankOpComplete b upsets) s (fun h => h = s.hw)) ∧
    ((bank s.hw b).fly = op :: rest → op.bank = b → (∀ r ∈ op.done, r.1 < 2 ∧ r.2 < 16384) →
      let dead := decide (b < 32) && (pwr s.hw b).dead
      let upset := fun (n : Nat) => ((upsets.find? (fun u => u.1 = n)).map (·.2)).getD 0
      let word := fun (r : Nat × Nat) (w : Nat) => if dead then (EccCls.mark, PWord.poisoned)
        else eccDec (wordAt s.hw b r.2 w ^^^ upset (16 * r.1 + w))
      let found := fun (k : EccCls) =>
        ((op.done.flatMap (fun r => (List.range 16).map (word r))).filter (fun x => x.1 == k)).length
      let popped := fun (h : Hw) => ∀ j, bank h j = if j = b then { bank s.hw b with fly := rest } else bank s.hw j
      let stored := fun (h : Hw) =>
        (∀ row w, row < 16384 → w < 16 → wordAt h b row w =
          if dead then wordAt s.hw b row w else afterWords op.done op.data row w (wordAt s.hw b row w)) ∧
        (∀ j row w, j ≠ b → row < 16384 → w < 16 → wordAt h j row w = wordAt s.hw j row w)
      let counted := fun (h : Hw) => roGet h 0x1107C = satAdd (roGet s.hw 0x1107C) (found .corr) ∧
        roGet h 0x11080 = satAdd (roGet s.hw 0x11080) (found .unc) ∧ (found .unc ≠ 0 → bit (roGet h 0x11010) 1 = true) ∧
        (found .corr = 0 → found .unc = 0 → h.prot.retry = s.hw.prot.retry) ∧
        (∀ r ∈ op.done, ∀ w, w < 16 → (word r w).1 = .corr ∨ (word r w).1 = .unc → op.bank = b → s.hw.prot.retry.length + op.done.length ≤ 16 →
          ∃ q ∈ h.prot.retry, q.bank = b ∧ q.row = r.2 ∧ ∃ c, (16 * r.1 + w, c) ∈ q.words)
      (op.own = .march → After (.bankOpComplete b upsets) s (fun h => h = s.hw)) ∧
      (op.own = .tt i → ent s.hw i = some e → op.write = true →
        After (.bankOpComplete b upsets) s (fun h => ∃ g, popped g ∧ stored g ∧
          g = { s.hw with arr := { s.hw.arr with banks := g.arr.banks, words := g.arr.words } } ∧
          (moveOf g e = none ∨ dead = true → h.arr.words = g.arr.words) ∧
          (dead = false → h.arr.words = (moveLate e op g).arr.words) ∧
          OtherEnts i s.hw h ∧ ent h i = some { e with todo := e.todo.drop 1, busy := false, bad := e.bad || dead } ∧
          h = { g with arr := { g.arr with words := h.arr.words }, core := { s.hw.core with tt := h.core.tt } })) ∧
      (op.own = .tt i → ent s.hw i = some e → op.write = false → isProt e.req.kind = false → (op.done.map (·.1)).Nodup →
        After (.bankOpComplete b upsets) s (fun h => popped h ∧ OtherEnts i s.hw h ∧ counted h ∧
          (found .corr = 0 → found .unc = 0 → h.diag.rq = s.hw.diag.rq) ∧
          (∃ f, ent h i = some f ∧
            (∀ r w, r ∈ op.done → w < 16 → bufWord f op.li (16 * r.1 + w) = (word r w).2) ∧
            (f.bad = true ↔ e.bad = true ∨ ∃ r w, r ∈ op.done ∧ w < 16 ∧ (word r w).2.poi = true ∧
              bitN (consumedBy e op.li) (16 * r.1 + w) = true) ∧
            (f.corr = true ↔ e.corr = true ∨ ∃ r w, r ∈ op.done ∧ w < 16 ∧ (word r w).1 = .corr ∧
              bitN (consumedBy e op.li) (16 * r.1 + w) = true) ∧
            (isOffer e.req.kind = false → f.errs = e.errs) ∧
            f = { e with
              buf := f.buf, corr := f.corr, bad := f.bad, cause := e.cause || decide (found .corr + found .unc ≠ 0), errs := f.errs
              did := e.did ++ e.todo.take 1, todo := e.todo.drop 1, busy := false }) ∧
          SameRegs ([0x1107C, 0x11080, 0x11090, 0x11010, 0x14010, 0x14048] ++ regOvf) s.hw h ∧
          h = { s.hw with
            arr := { s.hw.arr with banks := h.arr.banks }, core := { s.hw.core with tt := h.core.tt }
            prot := { s.hw.prot with retry := h.prot.retry }, diag := { s.hw.diag with rq := h.diag.rq }, perf := h.perf
            ro := h.ro, hwSet := h.hwSet })) ∧
      (op.own = .tt i → ent s.hw i = some e → op.write = false → isProt e.req.kind = true →
        let f := rowRead op upsets s.hw e
        After (.bankOpComplete b upsets) s (fun h => popped h ∧ OtherEnts i s.hw h ∧
          ent h i = some { f with todo := f.todo.drop 1, busy := false } ∧
          (op.raw = false → roGet h 0x1107C = satAdd (roGet s.hw 0x1107C) (found .corr) ∧
            roGet h 0x11080 = satAdd (roGet s.hw 0x11080) (found .unc) ∧ (found .unc ≠ 0 → bit (roGet h 0x11010) 1 = true)) ∧
          SameRegs ([0x1107C, 0x11080, 0x11010] ++ regOvf) s.hw h ∧ (op.raw = true → h.ro = s.hw.ro) ∧
          h = { s.hw with
            arr := { s.hw.arr with banks := h.arr.banks }, core := { s.hw.core with tt := h.core.tt }, perf := h.perf
            ro := h.ro, hwSet := h.hwSet })) ∧
      (∀ n, op.own = .alb n → After (.bankOpComplete b upsets) s (fun h => popped h ∧ stored h ∧ OtherAlb n s.hw h ∧
        cFind h.near.alb n = none ∧
        h = { s.hw with
          arr := { s.hw.arr with banks := h.arr.banks, words := h.arr.words }, near := { s.hw.near with alb := h.near.alb } })) ∧
      (∀ n, op.own = .jig n → op.write = true → After (.bankOpComplete b upsets) s (fun h => popped h ∧ stored h ∧
        h = { s.hw with arr := { s.hw.arr with banks := h.arr.banks, words := h.arr.words } })) ∧
      (∀ n j sr, op.own = .jig n → op.write = false → op.done = [sr] → cFind s.hw.near.jig n = some j → j.sec = sr.1 →
        s.hw.diag.rq.length < 30 →
        let old := fun (w : Nat) => (word sr w).2
        let good := (bitsOf (touched j.mask 16) 16).filter (fun w => !((old w).poi && decide (nib j.mask w ≠ 15)))
        let p := place s.hw j.way j.set 0
        After (.bankOpComplete b upsets) s (fun h => counted h ∧
          (good = [] → popped h ∧ ∀ k, cFind h.near.jig k = if k = n then none else cFind s.hw.near.jig k) ∧
          (good ≠ [] → (∀ k, cFind h.near.jig k = if k = n then some { j with left := 1 } else cFind s.hw.near.jig k) ∧
            ∃ w, (∀ v, bank h v = { bank s.hw v with
                fly := if v = b then rest else (bank s.hw v).fly, pend := (bank s.hw v).pend ++ if v = p.1 then [w] else [] }) ∧
              Woken p.1 s.hw h ∧ w.own = .jig n ∧ w.write = true ∧
              w.rows = [(j.sec, (place s.hw j.way j.set j.sec).2)] ∧
              w.data = good.map (fun v => (16 * j.sec + v, pwEnc (mergeWord (old v) (jigWord j v) (nib j.mask v))))) ∧
          ((∃ w, w ∈ bitsOf (touched j.mask 16) 16 ∧ ¬ w ∈ good) → Reported 7 false (lineSrc s.cfg s.hw j.line) 1 h) ∧
          h.arr.words = s.hw.arr.words ∧ SameRegs ([0x1107C, 0x11080, 0x11090, 0x11010, 0x14010, 0x14048] ++ regOvf) s.hw h ∧
          h = { s.hw with
            arr := { s.hw.arr with banks := h.arr.banks, pwr := h.arr.pwr }, near := { s.hw.near with jig := h.near.jig }
            prot := { s.hw.prot with retry := h.prot.retry }, diag := { s.hw.diag with rq := h.diag.rq }, perf := h.perf
            ro := h.ro, hwSet := h.hwSet })))

/-! ### Jig and the ALB -/

/-- When the hold of a Jig entry ends, and no Gavotte sequence runs, its sector is written where the bytes cover whole words, else read to
be merged; one without a place in the array goes to XP merged with what XP returned (R51, R61, R63, R64). Freed entries go to the waiting
narrow write with the lowest intake number: each of its sectors takes an entry with its bytes, held for JIG.CTRL.HOLD CLK_M cycles, and the write is
accepted; one whose line has left its way looks for the line again (R45, R62, R66). The ALB takes the lines of a transaction that waits for
entries it can have at once, with the tag that its kind needs and their data; otherwise the victims' write-backs begin, and the
transaction takes nothing while one runs (R141, R142, R172, R173). -/
def Obligations.JigAndAlbEntriesMove : Prop :=
  (∀ (s : State) (n : Nat) (j : JigEnt), running s.hw = true → cFind s.hw.near.jig n = some j →
    let whole := touched j.mask 16 = covered j.mask 16
    let b := (place s.hw j.way j.set 0).1
    (clkM s.hw < j.expire ∨ gavBusy s.hw = true ∨ j.writing = true → After (.jigHoldExpire n) s (fun h => h = s.hw)) ∧
    (j.writing = false → j.expire ≤ clkM s.hw → gavBusy s.hw = false → j.base = none → After (.jigHoldExpire n) s (fun h =>
        (∀ k, cFind h.near.jig k = if k = n then some { j with writing := true, left := if whole then 1 else 2 }
          else cFind s.hw.near.jig k) ∧
        Woken b s.hw h ∧
        (∃ op, bank h b = { bank s.hw b with pend := (bank s.hw b).pend ++ [op] } ∧ op.bank = b ∧ op.own = .jig n ∧ op.way = j.way ∧ op.set = j.set ∧
          op.rows = [(j.sec, (place s.hw j.way j.set j.sec).2)] ∧ op.write = decide whole ∧ op.who = j.who ∧
          (¬ whole → op.data = []) ∧ (whole → op.data = (bitsOf (touched j.mask 16) 16).map (fun v => (16 * j.sec + v, pwEnc (jigWord j v))))) ∧
        (∀ k, k ≠ b → bank h k = bank s.hw k) ∧ SameRegs regOvf s.hw h ∧
        h = { s.hw with
          near := { s.hw.near with jig := h.near.jig }, perf := h.perf, ro := h.ro, hwSet := h.hwSet
          arr := { s.hw.arr with banks := h.arr.banks, pwr := h.arr.pwr } })) ∧
    (∀ old ln, j.writing = false → j.expire ≤ clkM s.hw → gavBusy s.hw = false → j.base = some old → j.line = .pa ln →
      j.sec < 2 → s.hw.diag.rq.length < 30 → After (.jigHoldExpire n) s (fun h =>
        (∀ k, cFind h.near.jig k = if k = n then some { j with writing := true } else cFind s.hw.near.jig k) ∧
        (∃ w, h.xp.wrs = s.hw.xp.wrs ++ [w] ∧ w.own = some (.jig n) ∧ w.last = true ∧ w.init = false ∧ w.addr = 2 * ln + j.sec ∧
          w.words = (jigMerge j old).1) ∧
        ((jigMerge j old).2 ≠ [] → Reported 7 false ln 1 h) ∧ ((jigMerge j old).2 = [] → h.diag = s.hw.diag) ∧
        SameRegs regOvf s.hw h ∧
        h = { s.hw with
          near := { s.hw.near with jig := h.near.jig }, xp := { s.hw.xp with wrs := h.xp.wrs }, perf := h.perf, ro := h.ro
          hwSet := h.hwSet, diag := { s.hw.diag with rq := h.diag.rq } }))) ∧
  (∀ (s : State) (tt : Nat) (e : Ent), running s.hw = true → gavHolds s.hw = false →
      ent s.hw tt = some e → (tt, e) ∈ s.hw.core.tt → e.active = true → e.busy = true → e.todo.head? = some .jig →
      (∀ q ∈ s.hw.core.tt, q.2.active = true → q.2.busy = true → q.2.todo.head? = some .jig →
        q = (tt, e) ∨ e.req.iseq < q.2.req.iseq) →
      let at_ := whereIs s.hw (lineOf e 0)
      (jigCan s.hw tt e = true → (at_.isSome = true ∨ e.aux = 1) → After .jigEntriesGrant s (fun h =>
        h = popAct tt (jigAccept s.cfg tt e at_ s.hw) ∧ OtherEnts tt s.hw h ∧
        ent h tt = some { e with committed := true, todo := e.todo.drop 1, busy := false } ∧
        ∀ sec ∈ jigSecs e.req, ∃ n j, cFind s.hw.near.jig n = none ∧ cFind h.near.jig n = some j ∧ j.line = lineOf e 0 ∧ j.sec = sec ∧
          (j.way, j.set) = at_.getD (0, 0) ∧ j.mask = BitVec.ofNat 64 (bitsN e.req.hdr.bmask.toNat (64 * sec + 63) (64 * sec)) ∧
          j.bytes = wordsFlit (((e.req.pay.drop (16 * sec)).take 16).map (·.val)) ∧
          j.expire = clkM s.hw + cf s.cfg 17 0x40 3 0)) ∧
      (jigCan s.hw tt e = true → at_ = none → e.aux ≠ 1 → After .jigEntriesGrant s (fun h => OtherEnts tt s.hw h ∧
        ent h tt = some { e with todo := .part :: e.todo.drop 1, busy := false } ∧
        h = { s.hw with core := { s.hw.core with tt := h.core.tt } })) ∧
      (jigCan s.hw tt e = false → After .jigEntriesGrant s (fun h => h = s.hw))) ∧
  (∀ (s : State) (tt : Nat) (e : Ent), running s.hw = true → ent s.hw tt = some e →
      let fresh := { e with errs := [] }
      let h1 := updEnt tt (fun e => { e with errs := [] }) s.hw
      let waits := e.errs.any (fun q => (cFind s.hw.near.alb q.1).any (·.wb))
      let own := match e.errs with | [(n, li)] => decide (li < 64) && (cFind s.hw.near.alb n).isNone | _ => false
      let filled := fun (plan : List (Nat × Nat)) => After (.albEntryTake tt) s (fun h => OtherEnts tt s.hw h ∧
        ent h tt = some { e with errs := [], todo := e.todo.drop 1, busy := false } ∧
        (∀ q ∈ plan, ∃ a, cFind h.near.alb q.1 = some a ∧ a.line = lineOf e q.2 ∧ a.data = lineWords e q.2 ∧
          a.fmt = (needFmt e.req q.2).getD .plain ∧ a.wb = false ∧ a.upd = none) ∧
        (∀ k, ¬ k ∈ plan.map (·.1) → cFind h.near.alb k = cFind s.hw.near.alb k) ∧ SameRegs regOvf s.hw h ∧
        h.near.stamp = s.hw.near.stamp + plan.length ∧
        (∀ ln, (∀ q ∈ plan, ∀ m, lineOf e q.2 = .pa m → (Machine.setOf m, tagOf m) ≠ (Machine.setOf ln, tagOf ln)) → sfFind h ln = sfFind s.hw ln) ∧
        (∀ q ∈ plan, ∀ m v z, lineOf e q.2 = .pa m → sfFind s.hw m = some (v, z) → sfAt h (Machine.setOf m) v = SfEnt.free_) ∧
        h = { s.hw with
          near := { s.hw.near with alb := h.near.alb, stamp := h.near.stamp }, core := { s.hw.core with tt := h.core.tt }
          home := { s.hw.home with sf := h.home.sf }, perf := h.perf, ro := h.ro, hwSet := h.hwSet })
      (gavHolds s.hw = true ∨ e.todo.head? ≠ some .alb ∨ waits = true → After (.albEntryTake tt) s (fun h => h = s.hw)) ∧
      (gavHolds s.hw = false → e.todo.head? = some .alb → waits = false →
        (own = true → filled e.errs) ∧
        (own = false → albPlan h1 fresh = none → After (.albEntryTake tt) s (fun h => h = h1)) ∧
        (∀ plan, own = false → albPlan h1 fresh = some plan → (plan.map (·.1)).Nodup →
          (∀ q ∈ plan, cFind s.hw.near.alb q.1 = none) → filled plan) ∧
        (∀ n li a w set, own = false → albPlan h1 fresh = some [(n, li)] → cFind s.hw.near.alb n = some a → a.wb = false →
          a.started = false → albPartner s.hw a = none → a.line = .loc w set → After (.albEntryTake tt) s (fun h =>
            OtherEnts tt s.hw h ∧ ent h tt = some { e with errs := [(n, li)] } ∧ OtherAlb n s.hw h ∧
            cFind h.near.alb n = some { a with wb := true, who := whoOf e.req, started := true } ∧
            roGet h 0xA044 = roGet s.hw 0xA044 + 1 ∧ SameRegs (0xA044 :: regOvf) s.hw h ∧
            Woken (place s.hw w set 0).1 s.hw h ∧
            (∃ op, (∀ v, bank h v = { bank s.hw v with
                pend := (bank s.hw v).pend ++ if v = (place s.hw w set 0).1 then [op] else [] }) ∧ op.own = .alb n ∧
              op.rows = [0, 1].map (fun x => (x, (place s.hw w set x).2)) ∧ op.write = true ∧ op.way = w ∧ op.set = set ∧ op.data = a.data.zipIdx.map (fun q => (q.2, pwEnc q.1))) ∧
            h = { s.hw with
              near := { s.hw.near with alb := h.near.alb }, core := { s.hw.core with tt := h.core.tt }, perf := h.perf
              ro := h.ro, hwSet := h.hwSet, arr := { s.hw.arr with banks := h.arr.banks, pwr := h.arr.pwr } }))))

/-! ### Atomics and accumulation -/

/-- An operation that a cell may issue next leaves its waiting list and is in the cell until its latency has passed (R145, R175); the
first group of an accumulation fixes how its INT32 sums end (R181). A cell issues one operation in a CLK_A cycle; each command issues the
operations of its own kind only. -/
def Obligations.CellsIssueOperations : Prop :=
  (∀ (s : State) (k : Nat) (o : CellOp) (e : Ent), running s.hw = true → cellPick s.hw k = some o → ent s.hw o.tt = some e →
    let issued := fun (h : Hw) (lat : Nat) =>
      (∀ j, cGet [] h.near.ready j = if j = k then dropFirst (fun x => x == o) (cGet [] s.hw.near.ready k)
        else cGet [] s.hw.near.ready j) ∧
      (∀ j, cGet [] h.near.fly j = if j = k then cGet [] s.hw.near.fly k ++ [{ o with at_ := clkA s.hw + lat }]
        else cGet [] s.hw.near.fly j) ∧
      (∀ j, cGet 0 h.near.issued j = if j = k then clkA s.hw + 1 else cGet 0 s.hw.near.issued j) ∧ SameRegs regOvf s.hw h ∧
      OtherEnts o.tt s.hw h ∧
      h = { s.hw with near := { s.hw.near with ready := h.near.ready, fly := h.near.fly, issued := h.near.issued }, perf := h.perf
                      ro := h.ro, hwSet := h.hwSet, core := { s.hw.core with tt := h.core.tt } }
    (∀ x ∈ cGet [] s.hw.near.ready k, x.at_ ≤ clkA s.hw → gavHolds s.hw = false → o.iseq ≤ x.iseq) ∧
    (o.grp = none → After (.atomicExecute k) s (fun h => issued h (atomLat e.req) ∧ ent h o.tt = some e) ∧
      After (.accGroupIssue k) s (fun h => h = s.hw)) ∧
    (o.grp.isSome = true → After (.accGroupIssue k) s (fun h => issued h (accLat (opOf e.req.hdr)) ∧
        ent h o.tt = some (if e.wrote then e else { e with wrote := true, aux2 := cf s.cfg 12 0x40 0 0 })) ∧
      After (.atomicExecute k) s (fun h => h = s.hw))) ∧
  (∀ (s : State) (k : Nat), running s.hw = true →
    cGet 0 s.hw.near.issued k = clkA s.hw + 1 ∨ (∀ x ∈ cGet [] s.hw.near.ready k, clkA s.hw < x.at_) →
    After (.atomicExecute k) s (fun h => h = s.hw) ∧ After (.accGroupIssue k) s (fun h => h = s.hw))

/-- The result of an atomic that is due is written into its ALB entry and the atomic commits: an integer operation on one word or on
two gives the value of the table, the target as it was is kept for the completion, and no other word of the line changes (R134,
R137, R145, R146). A floating-point sum gives the rounded sums and its flags (R136, R138). A poisoned target word is left as it is, but
for SWAP, and the atomic has met poison: it is counted, flagged and logged (R138). An alias write sets or clears, in every byte that it
enables, the bits that are 1 in its data; a poisoned word stays so and a poisoned data word poisons (R54, R147). With no result due
nothing happens. -/
def Obligations.AtomicResultsAreWritten : Prop :=
  (∀ (s : State) (k n : Nat) (o : CellOp) (e : Ent) (a : AlbEnt), running s.hw = true →
    cellDue s.hw k (fun o => o.grp.isNone) = some o → ent s.hw o.tt = some e → albFind s.hw (lineOf e 0) = some (n, a) →
    cFind s.hw.near.alb n = some a → s.hw.diag.rq.length < 32 →
    let x := e.req.hdr
    let op := fld x.arg2 4 0
    let w := x.addr.toNat % 128 / 4
    let wide := decide (fld x.arg2 5 5 = 1)
    let src := lineSrc s.cfg s.hw (lineOf e 0)
    let ends := fun (h : Hw) (f : Ent) (a' : AlbEnt) (met : Bool) =>
      ent h o.tt = some f ∧ OtherEnts o.tt s.hw h ∧
      f = { e with committed := true, bad := e.bad || met, todo := e.todo.drop 1, busy := false, buf := f.buf } ∧
      cFind h.near.alb n = some a' ∧ OtherAlb n s.hw h ∧
      a' = { a with data := a'.data, upd := some x.src, stamp := s.hw.near.stamp + 1 } ∧ h.near.stamp = s.hw.near.stamp + 1 ∧
      (∀ j, cGet [] h.near.fly j = if j = k then dropFirst (fun y => y == o) (cGet [] s.hw.near.fly k) else cGet [] s.hw.near.fly j) ∧
      (met = true → roGet h 0xA04C = satAdd (roGet s.hw 0xA04C) 1 ∧ bit (roGet h 0xA010) 0 = true ∧ Reported 7 false src 2 h) ∧
      (met = false → roGet h 0xA04C = roGet s.hw 0xA04C ∧ roGet h 0xA010 = roGet s.hw 0xA010 ∧ h.diag = s.hw.diag) ∧
      SameRegs ([0xA048, 0xA04C, 0xA010] ++ regOvf) s.hw h ∧
      h = { s.hw with near := { s.hw.near with alb := h.near.alb, stamp := h.near.stamp, fly := h.near.fly }
                      core := { s.hw.core with tt := h.core.tt }, diag := { s.hw.diag with rq := h.diag.rq }, perf := h.perf
                      ro := h.ro, hwSet := h.hwSet }
    let same := fun (h : Hw) => roGet h 0xA048 = roGet s.hw 0xA048
    (e.req.kind = .atomic → op ≤ 9 → wide = false → (albWord a w).poi = false →
      After (.atomicResult k) s (fun h => ∃ f a', ends h f a' false ∧ same h ∧ bufWord f retLine w = albWord a w ∧
        ∀ j, j < 32 → albWord a' j =
          if j = w then ⟨intAtomic op (albWord a w).val (x.arg0.setWidth 32) (x.arg1.setWidth 32), false⟩ else albWord a j)) ∧
    (e.req.kind = .atomic → op ≤ 9 → wide = true → w + 1 < 32 → (albWord a w).poi = false → (albWord a (w + 1)).poi = false →
      After (.atomicResult k) s (fun h => ∃ f a', ends h f a' false ∧ same h ∧ bufWord f retLine w = albWord a w ∧
        bufWord f retLine (w + 1) = albWord a (w + 1) ∧
        let t : BitVec 64 := (albWord a (w + 1)).val ++ (albWord a w).val
        let v := intAtomic op t x.arg0 x.arg1
        ∀ j, j < 32 → albWord a' j =
          if j = w then ⟨v.extractLsb' 0 32, false⟩ else if j = w + 1 then ⟨v.extractLsb' 32 32, false⟩ else albWord a j)) ∧
    (e.req.kind = .atomic → 0xA ≤ op → op ≤ 0xC → wide = false → (albWord a w).poi = false →
      let t := (albWord a w).val.toNat
      let y := x.arg0.toNat % 2 ^ 32
      let r := if op = 0xA then fpLanes fp32 1 t y else if op = 0xB then fpLanes bf16 2 t y else fpLanes fp16 2 t y
      After (.atomicResult k) s (fun h => ∃ f a', ends h f a' false ∧ bufWord f retLine w = albWord a w ∧
        roGet h 0xA048 = roGet s.hw 0xA048 ||| BitVec.ofNat 32 (b2n r.inv + 2 * b2n r.ovf) ∧
        ∀ j, j < 32 → albWord a' j = if j = w then ⟨BitVec.ofNat 32 r.bits, false⟩ else albWord a j)) ∧
    (e.req.kind = .atomic → 0xA ≤ op → op ≤ 0xD → wide = true → w + 1 < 32 → (albWord a w).poi = false →
      (albWord a (w + 1)).poi = false →
      let t := (albWord a w).val.toNat + (albWord a (w + 1)).val.toNat * 2 ^ 32
      let y := x.arg0.toNat
      let d := cadd (albWord a w).val.toNat (albWord a (w + 1)).val.toNat (y % 2 ^ 32)
      let r := if op = 0xA then fpLanes fp32 2 t y else if op = 0xB then fpLanes bf16 4 t y else if op = 0xC then fpLanes fp16 4 t y
        else ⟨d.1 + d.2.1 * 2 ^ 32, d.2.2.1, d.2.2.2⟩
      After (.atomicResult k) s (fun h => ∃ f a', ends h f a' false ∧ bufWord f retLine w = albWord a w ∧
        bufWord f retLine (w + 1) = albWord a (w + 1) ∧
        roGet h 0xA048 = roGet s.hw 0xA048 ||| BitVec.ofNat 32 (b2n r.inv + 2 * b2n r.ovf) ∧
        ∀ j, j < 32 → albWord a' j =
          if j = w then ⟨BitVec.ofNat 32 r.bits, false⟩
          else if j = w + 1 then ⟨BitVec.ofNat 32 (r.bits / 2 ^ 32), false⟩ else albWord a j)) ∧
    (e.req.kind = .atomic → (albWord a w).poi = true ∨ (wide = true ∧ (albWord a (w + 1)).poi = true) → op ≠ 8 →
      After (.atomicResult k) s (fun h => ∃ f a', ends h f a' true ∧ same h ∧ a'.data = a.data ∧ bufWord f retLine w = albWord a w)) ∧
    (e.req.kind = .atomic → (albWord a w).poi = true → wide = false → op = 8 →
      After (.atomicResult k) s (fun h => ∃ f a', ends h f a' true ∧ same h ∧ bufWord f retLine w = albWord a w ∧
        ∀ j, j < 32 → albWord a' j = if j = w then ⟨x.arg0.setWidth 32, false⟩ else albWord a j)) ∧
    (∀ clr, e.req.kind = .aliasW clr →
      let m := aliasMask x
      let d := fun (j : Nat) => e.req.pay.getD j PWord.zero
      After (.atomicResult k) s (fun h => ∃ f a' met, ends h f a' met ∧ same h ∧ f.buf = e.buf ∧
        (met = true ↔ ∃ j, j < 32 ∧ nib m j ≠ 0 ∧ ((albWord a j).poi = true ∨ (d j).poi = true)) ∧
        ∀ j, j < 32 →
          (nib m j = 0 ∨ (albWord a j).poi = true → albWord a' j = albWord a j) ∧
          (nib m j ≠ 0 → (albWord a j).poi = false → (d j).poi = true → albWord a' j = ⟨(albWord a j).val, true⟩) ∧
          (nib m j ≠ 0 → (albWord a j).poi = false → (d j).poi = false → albWord a' j =
            ⟨if clr then (albWord a j).val &&& ~~~ ((d j).val &&& nibBits (nib m j))
              else (albWord a j).val ||| ((d j).val &&& nibBits (nib m j)), false⟩)))) ∧
  (∀ (s : State) (k : Nat), running s.hw = true → cellDue s.hw k (fun o => o.grp.isNone) = none →
    After (.atomicResult k) s (fun h => h = s.hw))

/-- The result of a group of an accumulation that is due is written into its half line: an INT32 sum wraps, or saturates where the
accumulation fixed that; an FP32 sum is the rounded sum, lane by lane, with its flags; a Tango group puts its sums into one line and their
compensations into the next (R170, R175, R179 to R182). A lane that meets poison is poisoned and noted. The odd group of an MX block makes
its attempt; a block that does not fit its scale is attempted again with the next one (R187 to R190). With its last group the accumulation
commits: it is counted, an inexact or poisoned one is flagged, poison is logged, and its lines name it as their last updater (R142, R176,
R183). -/
def Obligations.AccumulationGroupsAreWritten : Prop :=
  (∀ (s : State) (k n li g att : Nat) (o : CellOp) (e : Ent) (a : AlbEnt), running s.hw = true →
    cellDue s.hw k (fun o => o.grp.isSome) = some o → o.grp = some (li, g, att) → ent s.hw o.tt = some e →
    albFind s.hw (lineOf e li) = some (n, a) → cFind s.hw.near.alb n = some a →
    let x := e.req.hdr
    let op := fld x.arg2 4 0
    let base := if accN x = 16 then 0 else (if op = 0x11 then 16 * li else 32 * li) + 16 * g
    let s0 := cellDrop k o s.hw
    let word := fun (j : Nat) => albWord a (16 * g + j)
    let kept := fun (a a' : AlbEnt) => a' = { a with data := a'.data } ∧
      ∀ j, j < 32 → ¬ (16 * g ≤ j ∧ j < 16 * g + 16) → albWord a' j = albWord a j
    let ends := fun (g1 h : Hw) =>
      (inCells g1 o.tt = true → h = g1) ∧
      (∀ f, inCells g1 o.tt = false → ent g1 o.tt = some f → s.hw.diag.rq.length + f.errs.length ≤ 32 →
        OtherEnts o.tt g1 h ∧ ent h o.tt = some { f with committed := true, errs := [], todo := f.todo.drop 1, busy := false } ∧
        roGet h 0xC054 = roGet g1 0xC054 + 1 ∧
        roGet h 0xC04C = (if f.aux = 1 then satAdd (roGet g1 0xC04C) 1 else roGet g1 0xC04C) ∧
        roGet h 0xC050 = (if f.bad then satAdd (roGet g1 0xC050) 1 else roGet g1 0xC050) ∧
        roGet h 0xC010 = roGet g1 0xC010 ||| BitVec.ofNat 32 ((if f.aux = 1 then 2 else 0) + b2n f.bad) ∧
        (∀ q ∈ f.errs, Reported 7 false (lineSrc s.cfg s.hw (lineOf f q.1)) 3 h) ∧ (f.errs = [] → h.diag = s.hw.diag) ∧
        (∀ q v, cFind g1.near.alb q = some v → ∃ v', cFind h.near.alb q = some v' ∧ v' = { v with
          stamp := v'.stamp
          upd := if f.req.lines.any (fun l => (albFind g1 l).map (·.1) == some q) then some f.req.hdr.src else v.upd }) ∧
        SameRegs ([0xC054, 0xC04C, 0xC050, 0xC010] ++ regOvf) g1 h ∧
        h = { g1 with
          near := { g1.near with alb := h.near.alb, stamp := h.near.stamp }, core := { g1.core with tt := h.core.tt }, perf := h.perf
          ro := h.ro, hwSet := h.hwSet, diag := { g1.diag with rq := h.diag.rq } })
    let wrote := fun (g1 : Hw) (lines : List (Nat × Nat)) (ls : List Lane) =>
      let mask := maskOf ((ls.zipIdx.filter (fun p => p.1.met)).map (fun p => 16 * g + p.2))
      OtherEnts o.tt s.hw g1 ∧ ent g1 o.tt = some (lines.foldl (fun f q => noteMet q.2 mask f) e) ∧
      (∀ v, ¬ v ∈ lines.map (·.1) → cFind g1.near.alb v = cFind s.hw.near.alb v) ∧
      roGet g1 0xC044 = roGet s.hw 0xC044 ||| BitVec.ofNat 32 (ls.foldl (fun f l => f ||| l.flags) 0) ∧ SameRegs [0xC044] s.hw g1 ∧
      g1 = { s0 with near := { s0.near with alb := g1.near.alb }, core := { s0.core with tt := g1.core.tt }
                     ro := g1.ro, hwSet := g1.hwSet }
    (op = 0x14 → g < 2 → a.data.length = 32 →
      let ls := (List.range 16).map (fun j => laneI32 (bitN e.aux2 0) (word j) (inI32 x e.req.pay (base + j)))
      After (.accGroupWrite k) s (fun h => ∃ g1 a', wrote g1 [(n, li)] ls ∧ ends g1 h ∧ cFind g1.near.alb n = some a' ∧ kept a a' ∧
        ∀ j, j < 16 →
          let y := inI32 x e.req.pay (base + j)
          let v := (word j).val.toInt + y.1
          albWord a' (16 * g + j) =
            if (word j).poi then word j else if y.2 then ⟨(word j).val, true⟩
            else ⟨BitVec.ofInt 32 (if bitN e.aux2 0 then max (-2 ^ 31) (min v (2 ^ 31 - 1)) else v), false⟩)) ∧
    (op = 0x10 → g < 2 → a.data.length = 32 →
      let ls := (List.range 16).map (fun j => laneF32 (word j) (inF32 x e.req.pay (base + j)))
      After (.accGroupWrite k) s (fun h => ∃ g1 a', wrote g1 [(n, li)] ls ∧ ends g1 h ∧ cFind g1.near.alb n = some a' ∧ kept a a' ∧
        ∀ j, j < 16 →
          let y := inF32 x e.req.pay (base + j)
          albWord a' (16 * g + j) =
            if (word j).poi then word j else if y.2 then ⟨(word j).val, true⟩
            else ⟨BitVec.ofNat 32 (fpAdd fp32 (word j).val.toNat y.1.bits).bits, false⟩)) ∧
    (∀ m b, op = 0x11 → g < 2 → a.data.length = 32 → b.data.length = 32 → albFind s.hw (lineOf e (li + 1)) = some (m, b) →
      cFind s.hw.near.alb m = some b → m ≠ n →
      let comp := fun (j : Nat) => albWord b (16 * g + j)
      let ls := (List.range 16).map (fun j => laneTango (word j) (comp j) (inF32 x e.req.pay (base + j)))
      After (.accGroupWrite k) s (fun h => ∃ g1 a' b', wrote g1 [(n, li), (m, li + 1)] ls ∧ ends g1 h ∧
        cFind g1.near.alb n = some a' ∧ cFind g1.near.alb m = some b' ∧ kept a a' ∧ kept b b' ∧
        ∀ j, j < 16 →
          let y := inF32 x e.req.pay (base + j)
          let r := cadd (word j).val.toNat (comp j).val.toNat y.1.bits
          (albWord a' (16 * g + j), albWord b' (16 * g + j)) =
            if (word j).poi ∨ (comp j).poi then (word j, comp j)
            else if y.2 then (⟨(word j).val, true⟩, ⟨(comp j).val, true⟩)
            else (⟨BitVec.ofNat 32 r.1, false⟩, ⟨BitVec.ofNat 32 r.2.1, false⟩))) ∧
    (op = 0x12 ∨ op = 0x13 → g % 2 = 0 → After (.accGroupWrite k) s (fun h => ends s0 h)) ∧
    (op = 0x12 ∨ op = 0x13 → g % 2 = 1 →
      let b := g / 2
      let t := mxAttempt o.tt e b att s0
      let again := fun (v : Nat) => ({ o with grp := some (li, v, att + 1), at_ := clkA s.hw + 1 } : CellOp)
      let ins := (List.range 32).map (fun v => inF32 x e.req.pay (32 * (b - fld x.arg2 14 13) + v))
      let x0 := bitsN (albWord a 24).val.toNat (8 * b + 7) (8 * b)
      let old := (List.range 8).flatMap (fun w => (List.range 4).map (fun v =>
        bitsN (albWord a (8 * b + w)).val.toNat (8 * v + 7) (8 * v)))
      let r := mxTry (decide (op = 0x12)) x0 (x0 + att) old (ins.map (fun p => mxNum p.1))
      let clean := (albWord a 24).poi = false ∧ (∀ w, w < 8 → (albWord a (8 * b + w)).poi = false) ∧ (∀ p ∈ ins, p.2 = false)
      (t.2 = true → After (.accGroupWrite k) s (fun h =>
        (∀ j, cGet [] h.near.ready j = if j = k then cGet [] s0.near.ready k ++ [again (g - 1), again g] else cGet [] s0.near.ready j) ∧
        h = { t.1 with near := { t.1.near with ready := h.near.ready } })) ∧
      (t.2 = false → After (.accGroupWrite k) s (fun h => ends t.1 h)) ∧
      (b < 3 → li = 0 → clean → x0 ≠ 0xFF → (t.2 = true ↔ r.ovf = true ∧ x0 + att < min (x0 + 4) 254)) ∧
      (b < 3 → li = 0 → clean → x0 ≠ 0xFF → t.2 = true → t.1.near.alb = s.hw.near.alb ∧ roGet t.1 0xC048 = roGet s.hw 0xC048 + 1) ∧
      (b < 3 → li = 0 → clean → x0 ≠ 0xFF → t.2 = false → r.nan = false → a.data.length = 32 → x0 + att < 256 →
        ∃ a', cFind t.1.near.alb n = some a' ∧ OtherAlb n s.hw t.1 ∧ a' = { a with data := a'.data } ∧
          bitsN (albWord a' 24).val.toNat (8 * b + 7) (8 * b) = x0 + att ∧
          (∀ w v, w < 8 → v < 4 → (∀ y ∈ r.bytes, y < 256) →
            bitsN (albWord a' (8 * b + w)).val.toNat (8 * v + 7) (8 * v) = r.bytes.getD (4 * w + v) 0) ∧
          albWord a' 25 = (if (albWord a 25).poi then albWord a 25 else ⟨satAdd (albWord a 25).val att, false⟩) ∧
          ∀ w, w < 24 → ¬ (8 * b ≤ w ∧ w < 8 * b + 8) → albWord a' w = albWord a w))) ∧
  (∀ (s : State) (k : Nat), running s.hw = true → cellDue s.hw k (fun o => o.grp.isSome) = none →
    After (.accGroupWrite k) s (fun h => h = s.hw))

/-! ### Ways -/

/-- SET_MODE, LOCK and UNLOCK of ALLOC: SET_MODE starts the change of the mode, and unless a Gavotte sequence runs the write-back of the
ALB lines of the way and the end of the hold of its Jig entries; LOCK locks a way in HOME mode, UNLOCK unlocks a way and clears the
preload bit of its lines; each is recorded with its result, STATE under the conditions of R43 (R43, R44, R46, R47). A command while the
page is busy only sets CMD_STATE. -/
def Obligations.ModeCommandsAct : Prop :=
  ∀ (s : State) (way : BitVec 4) (mode : BitVec 2), running s.hw = true →
    let w := way.toNat
    let m := wayMode s.hw w
    let stat := fun k => mode.toNat * 2 ^ 14 + w * 256 + k
    let onlyRegs := fun (h : Hw) => SameRegs (cmdRegs 7) s.hw h ∧ h = { s.hw with ro := h.ro, hwSet := h.hwSet }
    let frame := fun (h : Hw) => SameRegs (cmdRegs 7) s.hw h ∧ h = { s.hw with ro := h.ro, hwSet := h.hwSet, home := h.home }
    let bad := locked s.cfg = true ∨ w ∈ s.hw.home.locked ∨ wayMarched s.hw w = true ∨ (m = 0 ∧ wayDirty s.hw w = true) ∨
      (m = 1 ∧ wayRecord s.hw w = true) ∨ (m = 2 ∧ wayQueue s.hw w = true)
    let begun := fun (h : Hw) => CmdRuns 7 (stat 1) h ∧ (∀ o, o < 0x8000 → o ≠ 0x7020 → roGet h o = roGet s.hw o) ∧
      h.rst = { s.hw.rst with setRun := some { way := w, mode := mode.toNat, old := m, step := .drain, arr := s.hw.core.nextArr
                                               auto := false } } ∧
      h.units = { s.hw.units with mntCut := s.hw.units.mntCut ||
        (match s.hw.units.mnt with | some (c, v, _) => decide (4 ≤ c ∧ c ≤ 7 ∧ v = w) | none => false) }
    (pgBusy s.hw 7 = true → ∀ i, i = .setMode way mode ∨ i = .lock way mode ∨ i = .unlock way mode →
      After i s (fun h => bit (roGet h 0x7010) 0 = true ∧ SameRegs [0x7010] s.hw h ∧ onlyRegs h)) ∧
    (pgBusy s.hw 7 = false →
      (booting s.hw = false → ¬ bad → m ≠ mode.toNat → gavBusy s.hw = true → After (.setMode way mode) s (fun h => begun h ∧
        h = { s.hw with rst := h.rst, ro := h.ro, units := h.units })) ∧
      (booting s.hw = false → ¬ bad → m ≠ mode.toNat → gavBusy s.hw = false → After (.setMode way mode) s (fun h => begun h ∧
        WayPushed w s.hw h ∧ h.path = s.hw.path ∧ h.vp = s.hw.vp ∧ h.qos = s.hw.qos ∧
        ((∀ p ∈ s.hw.near.alb, lineIn s.hw w p.2.line = false) → (∀ p ∈ s.hw.near.jig, p.2.way ≠ w) →
          SameRegs [0x7020] s.hw h ∧ h = { s.hw with rst := h.rst, ro := h.ro, free := s.hw.free + 1, units := h.units }))) ∧
      (booting s.hw = false → ¬ bad → m = mode.toNat → After (.setMode way mode) s (fun h => CmdTook 7 (stat 1) 0 s.hw h ∧ onlyRegs h)) ∧
      (booting s.hw = true ∨ bad → After (.setMode way mode) s (fun h => CmdTook 7 (stat 1) 5 s.hw h ∧ onlyRegs h)) ∧
      (m = 0 → wayMarched s.hw w = false → After (.lock way mode) s (fun h => CmdTook 7 (stat 2) 0 s.hw h ∧ frame h ∧
        h.home = { s.hw.home with locked := if w ∈ s.hw.home.locked then s.hw.home.locked else s.hw.home.locked ++ [w] })) ∧
      (m ≠ 0 ∨ wayMarched s.hw w = true → After (.lock way mode) s (fun h => CmdTook 7 (stat 2) 5 s.hw h ∧ onlyRegs h)) ∧
      (w ∈ s.hw.home.locked → After (.unlock way mode) s (fun h => CmdTook 7 (stat 3) 0 s.hw h ∧ frame h ∧
        (∀ set, (tagAt s.hw set w).valid = true → tagAt h set w = { tagAt s.hw set w with pre := false }) ∧
        (∀ set v, v < 16 → v ≠ w → (tagAt s.hw set v).valid = true → tagAt h set v = tagAt s.hw set v) ∧
        h.home = { s.hw.home with locked := s.hw.home.locked.filter (· ≠ w), tags := h.home.tags })) ∧
      (w ∉ s.hw.home.locked → After (.unlock way mode) s (fun h => CmdTook 7 (stat 3) 0 s.hw h ∧ onlyRegs h)))

/-- The steps of SET_MODE, none in a Gavotte sequence: with nothing of the way under way the old mode is left, a HOME way by 1,024 CLK_M
cycles that clear its tags, an OFF way by powering its banks; the new mode is entered, HOME by clearing the tags, OFF by powering down,
PINNED and QUEUE by 16,384 CLK_M cycles of zero fill of its rows and of the spare lines mapped from it, once both banks are on; then the
mode is in force and the command ends (R44, R57, R344). What is still under way is pushed out again, and a step that is not over goes
on. -/
def Obligations.SetModeRunsItsSteps : Prop :=
  (∀ (s : State) (r : SetRun), running s.hw = true → s.hw.rst.setRun = some r → r.way < 16 → gavBusy s.hw = false →
    let a := 2 * r.way
    let at_ := fun (x : SetStep) (h : Hw) => h.rst = { s.hw.rst with setRun := some { r with step := x } }
    let asked := fun (f : Pwr → Pwr) (h : Hw) => (∀ k, pwr h k = if k = a ∨ k = a + 1 then f (pwr s.hw k) else pwr s.hw k) ∧
      h = { s.hw with rst := h.rst, arr := { s.hw.arr with pwr := h.arr.pwr }, home := { s.hw.home with tags := h.home.tags } }
    let to_ := fun (x : PwrSt) => askedPwr x (now s.hw)
    let woken := fun (p : Pwr) => if p.st = .on ∨ (p.st = .chg ∧ p.want = .on) ∨ p.next = some .on then p else to_ .on p
    let are := fun (x : PwrSt) => ∀ b, b = a ∨ b = a + 1 → (pwr s.hw b).dead = true ∨ (pwr s.hw b).st = x
    let goes := fun (x : SetStep) (h : Hw) => at_ x h ∧
      h = { s.hw with rst := h.rst, home := { s.hw.home with tags := h.home.tags } }
    let enters := fun (i : Instr) (tags : Hw → Prop) =>
      (r.mode = 0 → After i s (fun h => tags h ∧ goes (.inval (clkM s.hw)) h)) ∧
      (r.mode = 3 → After i s (fun h => tags h ∧ at_ .powerOff h ∧ asked (to_ .off) h)) ∧
      (r.mode ≠ 0 → r.mode ≠ 3 → are .on → After i s (fun h => tags h ∧ goes (.fill (clkM s.hw)) h)) ∧
      (r.mode ≠ 0 → r.mode ≠ 3 → ¬ are .on → After i s (fun h => tags h ∧ at_ .powerOn h ∧ asked woken h))
    let kept := fun (h : Hw) => h.home.tags = s.hw.home.tags
    let noTags := fun (h : Hw) => (∀ set, tagAt h set r.way = Tag.none_) ∧
      (∀ set v, v < 16 → v ≠ r.way → tagAt h set v = tagAt s.hw set v)
    let ends := fun (h : Hw) => CmdEnds 7 0 s.hw h ∧ h.rst = { s.hw.rst with setRun := none } ∧ wayMode h r.way = r.mode ∧
      (∀ v, v ≠ r.way → wayMode h v = wayMode s.hw v) ∧ SameRegs [0x7020, 0x7064] s.hw h ∧
      h = { s.hw with rst := h.rst, ro := h.ro, arr := { s.hw.arr with words := h.arr.words }
                      home := { s.hw.home with mode := h.home.mode, tags := h.home.tags } }
    let spare := fun (row : Nat) => ∃ p ∈ s.hw.prot.lrt, (bankOf p.2.1 p.2.2.1 = a ∨ bankOf p.2.1 p.2.2.1 = a + 1) ∧ row / 2 = p.2.2.2
    (r.step = .drain → wayBusy s.hw r.way = true → After .setModeDrained s (fun h => WayPushed r.way s.hw h ∧ h.rst = s.hw.rst)) ∧
    (r.step = .drain → wayBusy s.hw r.way = false →
      (r.old = 0 → After .setModeDrained s (fun h => kept h ∧ goes (.inval (clkM s.hw)) h)) ∧
      (r.old = 3 → After .setModeDrained s (fun h => kept h ∧ at_ .powerOn h ∧ asked (to_ .on) h)) ∧
      (r.old ≠ 0 → r.old ≠ 3 → enters .setModeDrained kept)) ∧
    (∀ t, r.step = .inval t → t + 1024 ≤ clkM s.hw →
      (r.old = 0 → enters .setModeStepDone noTags) ∧
      (r.old ≠ 0 → After .setModeStepDone s (fun h => ends h ∧ noTags h ∧ h.arr = s.hw.arr))) ∧
    (r.step = .powerOn → are .on → enters .setModeStepDone kept) ∧
    (∀ t, r.step = .fill t → t + 16384 ≤ clkM s.hw → After .setModeStepDone s (fun h => ends h ∧ kept h ∧
      ∀ b row c, b < 33 → row < 16384 → c < 16 → wordAt h b row c =
        if b = a ∨ b = a + 1 ∨ (b = 32 ∧ spare row) then 0 else wordAt s.hw b row c)) ∧
    (r.step = .powerOff → are .off → r.auto = false →
      After .setModeStepDone s (fun h => ends h ∧ h.arr = s.hw.arr ∧ kept h)) ∧
    (r.step ≠ .drain → After .setModeDrained s (fun h => h = s.hw)) ∧
    (r.step = .drain ∨ (∃ t, r.step = .inval t ∧ clkM s.hw < t + 1024) ∨ (∃ t, r.step = .fill t ∧ clkM s.hw < t + 16384) ∨
      (r.step = .powerOn ∧ ¬ are .on) ∨ (r.step = .powerOff ∧ (¬ are .off ∨ r.auto = true)) →
      After .setModeStepDone s (fun h => h = s.hw))) ∧
  (∀ (s : State) (i : Instr), running s.hw = true → i = .setModeDrained ∨ i = .setModeStepDone →
    gavBusy s.hw = true ∨ s.hw.rst.setRun = none → After i s (fun h => h = s.hw))

/-- A maintenance command is taken with its range, or its way and sets, its counters cleared; a range that is empty or goes out of the
address space is DECERR, a way that is not HOME, is changing, is being disabled or is marched STATE, and a page that is busy sets
CMD_STATE. The flushes list the ALB lines to write back, by line address (R116, R117, R119, R127, R130, R131). -/
def Obligations.MaintenanceCommandsStart : Prop :=
  ∀ (s : State) (way : BitVec 4) (code : Nat) (i : Instr), running s.hw = true →
    (i, code) ∈ [(Instr.cleanPa way, 1), (.invPa way, 2), (.clinvPa way, 3), (.cleanSw way, 4), (.invSw way, 5), (.clinvSw way, 6),
      (.preloadLock way, 7), (.albFlush way, 8), (.albFlushPa way, 9)] →
    let stat := way.toNat * 256 + code
    let first := (cfgGet s.cfg 0x9040).toNat / 128 + cf s.cfg 9 0x44 19 0 * 2 ^ 25
    let lines := cf s.cfg 9 0x48 27 0
    let set := cf s.cfg 9 0x4C 13 0
    let sets := cf s.cfg 9 0x4C 30 16
    let byRange := code ∈ [1, 2, 3, 7, 9]
    let bySet := code ∈ [4, 5, 6]
    let onlyRegs := fun (h : Hw) => SameRegs (cmdRegs 9) s.hw h ∧ h = { s.hw with ro := h.ro, hwSet := h.hwSet }
    let decErr := (byRange ∧ (lines = 0 ∨ 2 ^ 45 < first + lines)) ∨ (bySet ∧ (sets = 0 ∨ 16384 < set + sets))
    let state := booting s.hw = true ∨ (4 ≤ code ∧ code ≤ 7 ∧
      (wayMode s.hw way.toNat ≠ 0 ∨ (setting s.hw way.toNat).isSome ∨ (∃ x, s.hw.prot.dis = some (way.toNat, x)) ∨
        wayMarched s.hw way.toNat = true))
    (decErr → After i s (fun h => CmdTook 9 stat 3 s.hw h ∧ onlyRegs h)) ∧
    (¬ decErr → pgBusy s.hw 9 = true → After i s (fun h => bit (roGet h 0x9010) 0 = true ∧ SameRegs [0x9010] s.hw h ∧ onlyRegs h)) ∧
    (¬ decErr → pgBusy s.hw 9 = false → state → After i s (fun h => CmdTook 9 stat 5 s.hw h ∧ onlyRegs h)) ∧
    (¬ decErr → pgBusy s.hw 9 = false → ¬ state → After i s (fun h => CmdRuns 9 stat h ∧
      (∀ o, o ∈ [0x9054, 0x9058, 0x905C, 0x9060, 0x9068] → roGet h o = 0) ∧
      h.units = { s.hw.units with
        mntFly := 0, mntCut := false, mntLines := h.units.mntLines
        mnt := some (code, way.toNat, if byRange then first else set, if code = 8 then 0 else if byRange then lines else sets) } ∧
      h.units.mntLines.Pairwise (fun a b => lineByte s.cfg s.hw a ≤ lineByte s.cfg s.hw b) ∧
      (∀ k, k ∈ h.units.mntLines ↔ 8 ≤ code ∧ ∃ n a, (n, a) ∈ s.hw.near.alb ∧ a.line = k ∧
        (code = 9 → first ≤ lineByte s.cfg s.hw k / 128 ∧ lineByte s.cfg s.hw k / 128 < first + lines)) ∧
      SameRegs [0x9020, 0x9054, 0x9058, 0x905C, 0x9060, 0x9068] s.hw h ∧ h = { s.hw with ro := h.ro, units := h.units }))

/-- The walker examines up to four lines, or one set, in a CLK_P cycle, in rising order; an invalid set is counted done, a line homed
elsewhere skipped; for another it issues a maintenance transaction where there is room, else it waits; ALB_FLUSH takes the listed lines
in order, ALB_FLUSH_PA those of its range that the ALB held. The command ends when all its transactions have committed, with STATE where it
was cut short, what was left being skipped, and PRELOAD_LOCK then locks its way (R117, R119, R122, R125, R126, R127). In a Gavotte
sequence neither goes on (R124). -/
def Obligations.MaintenanceWalks : Prop :=
  (∀ (s : State) (code w next left tt : Nat), running s.hw = true → s.hw.units.mnt = some (code, w, next, left) →
    gavBusy s.hw = false →
    let t := tagAt s.hw next w
    let u := s.hw.units
    let fresh := u.mntCyc ≠ now s.hw ∨ u.mntNum < (if 4 ≤ code ∧ code ≤ 6 then 1 else 4)
    let seen : Units := { u with mntCyc := now s.hw, mntNum := if u.mntCyc = now s.hw then u.mntNum + 1 else 1 }
    let moved : Units := { seen with mnt := some (code, w, next + 1, left - 1) }
    let counted := fun (o : Nat) (h : Hw) => roGet h o = BitVec.ofNat 32 (((roGet s.hw o).toNat + 1) % 2 ^ 28) ∧ SameRegs [o] s.hw h ∧
      h = { s.hw with ro := h.ro, units := moved }
    let issued := fun (kind : Kind) (k : LineKey) (par : Nat) (v : Units) (h : Hw) =>
      OtherEnts tt s.hw h ∧
      ent h tt = some { req := ownReq s.hw kind [k] par ownRid, pool := .gen, arr := s.hw.core.nextArr } ∧
      h.units = { v with mntFly := u.mntFly + 1 } ∧ SameRegs regOvf s.hw h ∧
      h = { s.hw with
        core := { s.hw.core with tt := h.core.tt, nextSeq := s.hw.core.nextSeq + 1, nextArr := s.hw.core.nextArr + 1 }
        units := h.units, free := s.hw.free + 1, perf := h.perf, ro := h.ro, hwSet := h.hwSet }
    let room := u.mntFly < min 64 (max 1 (cf s.cfg 9 0x50 6 0)) ∧ tt < 16384 ∧ ent s.hw tt = none ∧ poolUse s.hw .gen < poolCap .gen
    let stays := After (.mntWalkIssue tt) s (fun h => h = s.hw)
    let issues := fun (kind : Kind) (k : LineKey) (par : Nat) (v : Units) =>
      (room → After (.mntWalkIssue tt) s (issued kind k par v)) ∧ (¬ room → stays)
    let listed := LineKey.pa next ∈ u.mntLines
    (¬ fresh → stays) ∧
    (fresh → code = 8 → (u.mntLines = [] → stays) ∧
      ∀ k rest, u.mntLines = k :: rest → issues .flush k 0 { seen with mntLines := rest }) ∧
    (code ≠ 8 → left = 0 → stays) ∧
    (fresh → code ≠ 8 → 0 < left →
      (u.mntCut = true → After (.mntWalkIssue tt) s (counted 0x9058)) ∧
      (u.mntCut = false → 4 ≤ code → code ≤ 6 →
        (t.valid = false → After (.mntWalkIssue tt) s (counted 0x9054)) ∧
        (t.valid = true → issues (.maint code) (.pa (lineAt next t.tag)) (w * 16384 + next) moved)) ∧
      (u.mntCut = false → ¬ (4 ≤ code ∧ code ≤ 6) →
        (homedHere s.cfg s.hw (next * 128) = false → After (.mntWalkIssue tt) s (counted 0x9058)) ∧
        (homedHere s.cfg s.hw (next * 128) = true →
          (code = 9 → ¬ listed → After (.mntWalkIssue tt) s (fun h => h = { s.hw with units := moved })) ∧
          (code = 9 → listed → issues .flush (.pa next) 0 moved) ∧
          (code = 7 → issues .preload (.pa next) w moved) ∧
          (code ≠ 7 → code ≠ 9 → issues (.maint code) (.pa next) w moved)))) ∧
    (left = 0 → u.mntFly = 0 → (code = 8 → u.mntLines = []) → After .mntComplete s (fun h =>
      CmdEnds 9 (if u.mntCut then 5 else 0) s.hw h ∧ SameRegs (cmdRegs 9) s.hw h ∧
      h = { s.hw with
        ro := h.ro, hwSet := h.hwSet, units := { u with mnt := none, mntCut := false, mntLines := [] }
        home := { s.hw.home with
          locked := if code = 7 ∧ u.mntCut = false ∧ ¬ w ∈ s.hw.home.locked then s.hw.home.locked ++ [w] else s.hw.home.locked } })) ∧
    (left ≠ 0 ∨ u.mntFly ≠ 0 ∨ (code = 8 ∧ u.mntLines ≠ []) → After .mntComplete s (fun h => h = s.hw))) ∧
  (∀ (s : State) (tt : Nat) (i : Instr), running s.hw = true → i = .mntWalkIssue tt ∨ i = .mntComplete →
    gavBusy s.hw = true ∨ s.hw.units.mnt = none → After i s (fun h => h = s.hw))

/-! ### Queues, records and the engines -/

/-- The commands of QUE and SEL: one that may run becomes a transaction on the descriptor's line or the record's lines, with the next
intake number, and shows BUSY; a way in another mode, an illegal record or staged descriptor is DECERR; while the page is busy it only sets
CMD_STATE; a way that is changing, a record defined already or not at all, and start-up before its FILL step is over are STATE; when the
transaction is over the command ends with its result (R153, R154, R163, R209, R210). -/
def Obligations.QueueAndSelectionCommandsAct : Prop :=
  ∀ (s : State) (i : Instr), running s.hw = true →
    let onlyRegs := fun (p : Nat) (h : Hw) => SameRegs (cmdRegs p) s.hw h ∧ h = { s.hw with ro := h.ro, hwSet := h.hwSet }
    let refused := fun (p : Nat) => After i s (fun h => onlyRegs p h ∧ bit (roGet h (rg p 0x10)) 0 = true ∧ SameRegs [rg p 0x10] s.hw h)
    let took := fun (p stat code : Nat) => After i s (fun h => CmdTook p stat code s.hw h ∧ onlyRegs p h)
    let works := fun (p stat : Nat) (kind : Kind) (lines : List LineKey) (par : Nat) (f : Req → Req) => After i s (fun h =>
      CmdRuns p stat h ∧ SameRegs [rg p 0x20] s.hw h ∧
      h = { s.hw with
        ro := h.ro, free := s.hw.free + 1
        core := { s.hw.core with
          adm := s.hw.core.adm ++ [f (ownReq s.hw kind lines par ownRid)], nextSeq := s.hw.core.nextSeq + 1 } })
    let ends := fun (p : Nat) (code : Nat) (h : Hw) => CmdEnds p code s.hw h ∧ SameRegs (cmdRegs p) s.hw h ∧
      h = { s.hw with ro := h.ro, hwSet := h.hwSet, units := h.units }
    let held := fun (w : Nat) => booting s.hw = true ∨ (setting s.hw w).isSome = true
    (∀ (q : BitVec 14) (code : Nat), (i, code) ∈ [(Instr.queDefine q, 1), (.queEnable q, 2), (.queDisable q, 3), (.queRead q, 4)] →
      let w := queWay q.toNat
      let stat := q.toNat * 256 + code
      let bad := wayMode s.hw w ≠ 2 ∨ (code = 1 ∧ (stage s.hw).ok = false)
      (bad → took 11 stat 3) ∧
      (¬ bad → pgBusy s.hw 11 = true → refused 11) ∧
      (¬ bad → pgBusy s.hw 11 = false → held w → took 11 stat 5) ∧
      (¬ bad → pgBusy s.hw 11 = false → ¬ held w →
        works 11 stat (.queCmd code) [.loc w (queSet q.toNat)] q.toNat (fun r => { r with pay := if code = 1 then stage s.hw else [] }))) ∧
    (∀ n : BitVec 10, i = .selDefine n →
      let x := cfgGet s.cfg 0xD040
      let w := fld x 27 24
      let stat := n.toNat * 256 + 1
      let bad := wayMode s.hw w ≠ 1 ∨ 6 < fld x 18 16 ∨ fld x 21 20 = 3 ∨ fld x 13 0 % recLines (fld x 18 16) ≠ 0
      (bad → took 13 stat 3) ∧
      (¬ bad → pgBusy s.hw 13 = true → refused 13) ∧
      (¬ bad → pgBusy s.hw 13 = false → held w ∨ (recAt s.hw n.toNat).isSome = true → took 13 stat 5) ∧
      (¬ bad → pgBusy s.hw 13 = false → ¬ held w → recAt s.hw n.toNat = none →
        works 13 stat (.selCmd 1) (recKeys (recOfCfg x)) n.toNat (fun r => { r with hdr := { r.hdr with arg2 := x } }))) ∧
    (∀ (n : BitVec 10) (code : Nat), (i, code) ∈ [(Instr.selUndefine n, 2), (.selCmdReset n, 3)] →
      let stat := n.toNat * 256 + code
      (pgBusy s.hw 13 = true → refused 13) ∧
      (pgBusy s.hw 13 = false → recAt s.hw n.toNat = none → took 13 stat 5) ∧
      (∀ t, pgBusy s.hw 13 = false → recAt s.hw n.toNat = some t →
        (held t.way → took 13 stat 5) ∧ (¬ held t.way → works 13 stat (.selCmd code) (recKeys t) n.toNat id))) ∧
    (∀ r, i = .queCmdDone → s.hw.units.queEnd = some r → After i s (fun h => ends 11 r.toNat h ∧
      h.units = { s.hw.units with queEnd := none })) ∧
    (∀ r, i = .selCmdDone → s.hw.units.selEnd = some r → After i s (fun h => ends 13 r.toNat h ∧
      h.units = { s.hw.units with selEnd := none })) ∧
    ((i = .queCmdDone ∧ s.hw.units.queEnd = none) ∨ (i = .selCmdDone ∧ s.hw.units.selEnd = none) → After i s (fun h => h = s.hw))

/-- A read of QUE.EVT takes the oldest event from the FIFO, and a transaction on the descriptor line is to clear its POSTED bit, where
the way is in QUEUE mode and does not change (R162). An offer that waits for a merge unit, the one with the lowest intake number, takes a
free one; its result is the record that the pseudocode of R204 gives for its candidates: OFFERS counts them, at most K entries stay, a NaN
is flagged, a poisoned candidate counted and reported; the lines that it changes, and the first, are written. An offer whose record is no
longer defined is answered STATE (R197, R199, R204, R205, R208, R210). -/
def Obligations.EventsLeaveAndOffersMerge : Prop :=
  ∀ (s : State), running s.hw = true →
    (∀ q kind rest, s.hw.units.events = (q, kind) :: rest →
      let u := { s.hw.units with events := rest }
      let on := wayMode s.hw (queWay q) = 2 ∧ setting s.hw (queWay q) = none
      (on → After .queEvtRead s (fun h => h = { s.hw with
        free := s.hw.free + 1, units := u
        core := { s.hw.core with
          adm := s.hw.core.adm ++ [ownReq s.hw (.evtClear kind) [.loc (queWay q) (queSet q)] q ownRid]
          nextSeq := s.hw.core.nextSeq + 1 } })) ∧
      (¬ on → After .queEvtRead s (fun h => h = { s.hw with units := u }))) ∧
    (s.hw.units.events = [] → After .queEvtRead s (fun h => h = s.hw)) ∧
    (∀ tt u e t, gavHolds s.hw = false → mergeNext s.hw = some (tt, e) → cFree s.hw.units.merge 4 = some u →
      recAt s.hw e.req.par = some t → After .selMergeStart s (fun h =>
        (∀ k, cFind h.units.merge k = if k = u then some (tt, clkA s.hw + mergeTime t e) else cFind s.hw.units.merge k) ∧
        h = { s.hw with units := { s.hw.units with merge := h.units.merge } })) ∧
    (gavHolds s.hw = true ∨ mergeNext s.hw = none ∨ cFree s.hw.units.merge 4 = none → After .selMergeStart s (fun h => h = s.hw)) ∧
    (∀ u, gavHolds s.hw = true ∨ cFind s.hw.units.merge u = none → After (.selMergeDone u) s (fun h => h = s.hw)) ∧
    (∀ u tt at_ e, gavHolds s.hw = false → cFind s.hw.units.merge u = some (tt, at_) → ent s.hw tt = some e →
      let freed := fun (h : Hw) => (∀ k, cFind h.units.merge k = if k = u then none else cFind s.hw.units.merge k) ∧ OtherEnts tt s.hw h
      (clkA s.hw < at_ → After (.selMergeDone u) s (fun h => h = s.hw)) ∧
      (at_ ≤ clkA s.hw → recAt s.hw e.req.par = none → After (.selMergeDone u) s (fun h => freed h ∧
        ent h tt = some { e with code := 5, todo := [.commit, .respond, .sent, .free], busy := false } ∧
        h = { s.hw with units := { s.hw.units with merge := h.units.merge }, core := { s.hw.core with tt := h.core.tt } })) ∧
      (∀ t, at_ ≤ clkA s.hw → recAt s.hw e.req.par = some t → e.req.lines.length = recLines t.log2k → t.log2k ≤ 6 →
        s.hw.diag.rq.length < 32 →
        let cs := selCands e.req t.vtype
        let live := cs.filter (fun c => !c.poi)
        let m := cs.foldl (mergeOne t) (mergeOf t e)
        After (.selMergeDone u) s (fun h => freed h ∧
          (∃ f ls, ent h tt = some f ∧
            f = { e with
              buf := f.buf, bad := e.bad || cs.any (·.poi), aux := live.length, aux2 := m.ins, busy := false
              todo := selWrites e ls ++ [.go 3, .commit, .respond, .sent, .free] } ∧
            (∀ j, j ∈ ls ↔ j < e.req.lines.length ∧ (j = 0 ∨ ∃ w, w < 32 ∧ recWord f (32 * j + w) ≠ recWord e (32 * j + w))) ∧
            (recWord f 0).val = BitVec.ofNat 32 (t.log2k + 16 * t.vtype + 256 * b2n t.smallest) ∧
            (recWord f 1).val.toNat = m.ents.length ∧ m.ents.length ≤ 2 ^ t.log2k ∧
            (recWord f 2).val = satAdd (recWord e 2).val live.length ∧
            (recWord f 3).val = BitVec.ofNat 32 (b2n (bit (recWord e 3).val 0 || live.any (fun c => selNan t.vtype c.v))) ∧
            (∀ j, j < m.ents.length → ((recWord f (4 + 2 * j)).val, (recWord f (5 + 2 * j)).val) = m.ents.getD j (0, 0)) ∧
            (∀ k, k < 32 * e.req.lines.length → (recWord f k).poi = false ∧
              (4 + 2 * m.ents.length ≤ k → (recWord f k).val = 0))) ∧
          (bit (roGet h 0xD058) 0 = (bit (roGet s.hw 0xD058) 0 || live.any (fun c => selNan t.vtype c.v))) ∧
          (cs.any (·.poi) = true → roGet h 0xD05C = satAdd (roGet s.hw 0xD05C) 1 ∧ bit (roGet h 0xD010) 1 = true ∧
            Reported 7 false (lineSrc s.cfg s.hw (lineOf e 0)) 4 h) ∧
          (cs.any (·.poi) = false → SameRegs [0xD058] s.hw h ∧ h.diag = s.hw.diag) ∧
          SameRegs ([0xD058, 0xD05C, 0xD010] ++ regOvf) s.hw h ∧
          h = { s.hw with units := { s.hw.units with merge := h.units.merge }, core := { s.hw.core with tt := h.core.tt }
                          diag := { s.hw.diag with rq := h.diag.rq }, perf := h.perf, ro := h.ro, hwSet := h.hwSet })))

/-- Galop's commands: START makes a channel at rest load its descriptor, which must lie in a PINNED way of this slice; STOP drains a
running channel and is kept by a loading one; CLEAR returns an ended channel to IDLE; INIT_FILL starts the fill of the memory behind
the slice before READY; the last beat accepted ends it, and the start-up that waits for it (R221, R227, R228, R229, R421). -/
def Obligations.GalopCommandsAct : Prop :=
  ∀ (s : State) (chan : BitVec 5), running s.hw = true →
    let n := chan.toNat
    let k := chanAt s.hw n
    let stat := fun code => n * 256 + code
    let onlyRegs := fun (h : Hw) => SameRegs (cmdRegs 14) s.hw h ∧ h = { s.hw with ro := h.ro, hwSet := h.hwSet }
    let refused := fun (h : Hw) => bit (roGet h 0xE010) 0 = true ∧ SameRegs [0xE010] s.hw h ∧ onlyRegs h
    let sets := fun (h : Hw) (k' : Chan) => (∀ j, chanAt h j = if j = n then k' else chanAt s.hw j) ∧ SameRegs (cmdRegs 14) s.hw h ∧
      h = { s.hw with ro := h.ro, hwSet := h.hwSet, glp := { s.hw.glp with chan := h.glp.chan } }
    let rest := k.st = .idle ∨ k.st = .done ∨ k.st = .error ∨ k.st = .stopped
    let desc := (cfgGet s.cfg 0xE048).toNat / 64 * 64 + cf s.cfg 14 0x4C 19 0 * 2 ^ 32
    let pinned := desc % 64 = 0 ∧ ∃ w t, decodePa s.cfg s.hw desc = .pin 0 w t
    (¬ pinned → After (.glpStart chan) s (fun h => CmdTook 14 (stat 1) 3 s.hw h ∧ onlyRegs h)) ∧
    (pinned → pgBusy s.hw 14 = true → After (.glpStart chan) s refused) ∧
    (pinned → pgBusy s.hw 14 = false → booting s.hw = true ∨ ¬ rest →
      After (.glpStart chan) s (fun h => CmdTook 14 (stat 1) 5 s.hw h ∧ onlyRegs h)) ∧
    (pinned → pgBusy s.hw 14 = false → booting s.hw = false → rest →
      After (.glpStart chan) s (fun h => CmdTook 14 (stat 1) 0 s.hw h ∧
        sets h { Chan.idle with st := .loading, desc := desc, result := k.result })) ∧
    (k.st = .loading → After (.glpStop chan) s (fun h => CmdTook 14 (stat 2) 0 s.hw h ∧ sets h { k with stop := true })) ∧
    (k.st = .running →
      After (.glpStop chan) s (fun h => CmdTook 14 (stat 2) 0 s.hw h ∧ sets h { k with stop := true, st := .draining })) ∧
    (k.st ≠ .loading → k.st ≠ .running → After (.glpStop chan) s (fun h => CmdTook 14 (stat 2) 5 s.hw h ∧ onlyRegs h)) ∧
    (k.st = .done ∨ k.st = .error ∨ k.st = .stopped →
      After (.glpClear chan) s (fun h => CmdTook 14 (stat 3) 0 s.hw h ∧ sets h { k with st := .idle })) ∧
    (¬ (k.st = .done ∨ k.st = .error ∨ k.st = .stopped) →
      After (.glpClear chan) s (fun h => CmdTook 14 (stat 3) 5 s.hw h ∧ onlyRegs h)) ∧
    (pgBusy s.hw 14 = true → After (.initFill chan) s refused) ∧
    (pgBusy s.hw 14 = false →
      let atRest := ∀ j, j < 32 → (chanAt s.hw j).st ≠ .loading ∧ (chanAt s.hw j).st ≠ .running ∧ (chanAt s.hw j).st ≠ .draining
      (atRest → s.hw.rst.boot ≠ .ready → After (.initFill chan) s (fun h => CmdRuns 14 (stat 4) h ∧ SameRegs [0xE020] s.hw h ∧
        h = { s.hw with ro := h.ro, glp := { s.hw.glp with
          fill := some { next := 0, total := 2 * cf s.cfg 14 0x68 27 0, pattern := cfgGet s.cfg 0xE06C, boot := false } } })) ∧
      (s.hw.rst.boot = .ready ∨ ¬ atRest → After (.initFill chan) s (fun h => CmdTook 14 (stat 4) 5 s.hw h ∧ onlyRegs h))) ∧
    (∀ f, s.hw.glp.fill = some f →
      (f.next < f.total → After .initFillDone s (fun h => h = s.hw)) ∧
      (f.total ≤ f.next → After .initFillDone s (fun h => pgBusy h 14 = false ∧ SameRegs (cmdRegs 14) s.hw h ∧
        (f.boot = false → CmdEnds 14 0 s.hw h) ∧ (f.boot = true → SameRegs [0xE020] s.hw h) ∧
        h = { s.hw with
          ro := h.ro, hwSet := h.hwSet, glp := { s.hw.glp with fill := none }
          rst := if s.hw.rst.boot = .extfill then
              { s.hw.rst with filled := true, boot := .ready, bootCyc := now s.hw, once := true, relReady := true }
            else s.hw.rst }))) ∧
    (s.hw.glp.fill = none → After .initFillDone s (fun h => h = s.hw))

/-- Galop's work, not in a Gavotte sequence: the first channel in rotation that has a line operation issues one request in a CLK_P cycle,
at its home, where it waits for room in the admission buffer, or, for a line of another slice, through MP; what the decoder answers comes
back at once, RETRY to be issued again. A loaded descriptor is checked and its channel runs or ends; at its end STATUS and LINES are
written by a request that takes its turn, and once that write has committed the channel ends or loads the next descriptor, with its
EngineEvent (R214, R217, R220, R224, R225, R226). -/
def Obligations.GalopRunsDescriptors : Prop :=
  ∀ (s : State) (n : Nat), running s.hw = true → n < 32 →
    let k := chanAt s.hw n
    let becomes := fun (h : Hw) (k' : Chan) => ∀ j, chanAt h j = if j = n then k' else chanAt s.hw j
    let rid : Rid := BitVec.ofNat 16 (cf s.cfg 14 0x40 15 0)
    let far := fun (j : Nat) => (j + 32 - s.hw.glp.rot % 32) % 32
    (∀ g, gavBusy s.hw = false → s.hw.glp.cyc ≠ some (now s.hw) → chanNext s.cfg k = some g →
      (∀ j, j < 32 → (chanNext s.cfg (chanAt s.hw j)).isSome = true → far n ≤ far j) →
      let q := glpReq k g
      let x := engHdr q.1 q.2.1 rid q.2.2.2.2 q.2.2.2.1 (decide (g.stage = 2) && bit (k.w 0) 9)
      let desc := decide (g.stage = 3 ∨ g.stage = 8)
      let t := decodePa s.cfg s.hw x.addr.toNat
      let line := lineKey t x.addr.toNat
      let grp := groupOf s.cfg q.2.2.2.2
      let r : Req := {
        iseq := s.hw.core.nextSeq, kind := engKind x.type.toNat t, hdr := x, pay := q.2.2.1, lines := [line], label := q.2.2.2.2, group := grp
        tc := max 1 (tcOf s.cfg grp), eng := some (.glp n g.n desc), sect := .lo }
      let k1 := if desc = false ∧ g.n = k.next then { k with next := k.next + 1 } else k
      let went := fun (h : Hw) => becomes h (k1.putOp { g with busy := true, again := false, stage := if g.stage = 8 then 6 else g.stage }) ∧
        roGet h 0xE078 = roGet s.hw 0xE078 + BitVec.ofNat 32 (b2n g.again) ∧ SameRegs [0xE078] s.hw h ∧
        h.glp.rot = (n + 1) % 32 ∧ h.glp.cyc = some (now s.hw)
      let here := t = .home ∨ ∃ a w v, t = .pin a w v
      let waits := sectRoom s.hw .lo = false ∨ decBefore s.hw r = true
      (here → marchedLine s.hw line = false → ¬ waits → After .glpLineIssue s (fun h => went h ∧
        h = { s.hw with
          core := { s.hw.core with adm := s.hw.core.adm ++ [r], nextSeq := s.hw.core.nextSeq + 1 }, ro := h.ro
          glp := { s.hw.glp with chan := h.glp.chan, rot := h.glp.rot, cyc := h.glp.cyc } })) ∧
      (here → marchedLine s.hw line = false → waits → After .glpLineIssue s (fun h => h = s.hw)) ∧
      (∀ d, t = .bad ∨ t = .nohome → farHome s.cfg x.addr.toNat = some d → d ≠ s.hw.rst.id.toNat → After .glpLineIssue s (fun h =>
        let tag := (cFreeFrom s.hw.glp.remote 65536 s.hw.glp.nextTag).getD s.hw.glp.nextTag
        went h ∧ Queued .mp (vcOf 0 (max 1 (tcOf s.cfg grp))) { pay := q.2.2.1, hdr := { x with
          dkind := 2, dst := BitVec.ofNat 16 d, rtag := BitVec.ofNat 16 tag, bmask := if x.type = 5 then x.bmask else 0 } } s.hw h ∧
        (∀ j, cFind h.glp.remote j = if j = tag
          then some { eng := .glp n g.n desc, read := decide (x.type = 3), comp := none, data := none } else cFind s.hw.glp.remote j) ∧
        h = { s.hw with
          ports := { s.hw.ports with eg := h.ports.eg }, ro := h.ro
          glp := { s.hw.glp with
            chan := h.glp.chan, rot := h.glp.rot, cyc := h.glp.cyc, remote := h.glp.remote, nextTag := (tag + 1) % 65536 } })) ∧
      (∀ v : BitVec 3, (v = 6 ∧ (t = .retry ∨ (here ∧ marchedLine s.hw line = true))) ∨
          (v = 3 ∧ ((∃ o, t = .cfg o) ∨ t = .gate ∨ ((t = .bad ∨ t = .nohome) ∧
            (farHome s.cfg x.addr.toNat = none ∨ farHome s.cfg x.addr.toNat = some s.hw.rst.id.toNat)))) →
        After .glpLineIssue s (fun h => ∃ h1, went h1 ∧ h = glpResult n g.n desc v [] h1 ∧
          h1 = { s.hw with ro := h1.ro, glp := { s.hw.glp with chan := h1.glp.chan, rot := h1.glp.rot, cyc := h1.glp.cyc } } ∧
          (v = 6 → desc = true ∨ k.err = 0 → becomes h (k1.putOp { g with busy := false, again := true }))))) ∧
    (gavBusy s.hw = true ∨ s.hw.glp.cyc = some (now s.hw) ∨ (∀ j, j < 32 → chanNext s.cfg (chanAt s.hw j) = none) →
      After .glpLineIssue s (fun h => h = s.hw)) ∧
    (∀ g, g.stage = 8 →
      let lo := 16 * (k.desc / 64 % 2)
      let q := glpReq k g
      q.1 = 5 ∧ q.2.1 = k.desc / 128 * 128 ∧ q.2.2.1.getD (lo + 12) PWord.zero = ⟨k.status, false⟩ ∧
        q.2.2.1.getD (lo + 13) PWord.zero = ⟨BitVec.ofNat 32 k.count, false⟩ ∧ q.2.2.2.1 = BitVec.ofNat 128 (0xFF * 2 ^ (4 * lo + 48))) ∧
    (∀ g, gavBusy s.hw = false → k.st = .loading → k.ops = [g] → g.stage = 4 →
      let bad := if k.err ≠ 0 then some k.err else descCheck s.cfg s.hw k
      let goes := fun (k' : Chan) => After (.glpDescLoaded n) s (fun h => becomes h k' ∧
        h = { s.hw with glp := { s.hw.glp with chan := h.glp.chan } })
      (∀ r, bad = some r → goes { k with next := 0, count := 0, err := r, ops := [{ g with stage := 5 }] }) ∧
      (bad = none → k.stop = true → goes { k with next := 0, count := 0, ops := [{ g with stage := 5 }] }) ∧
      (bad = none → k.stop = false → goes { k with next := 0, count := 0, st := .running, ops := [] })) ∧
    (gavBusy s.hw = true ∨ ¬ (k.st = .loading ∧ ∃ g, k.ops = [g] ∧ g.stage = 4) → After (.glpDescLoaded n) s (fun h => h = s.hw)) ∧
    (let ended := (k.st = .loading ∧ ∃ g, k.ops = [g] ∧ g.stage = 5) ∨ (k.st = .running ∧ k.ops = [] ∧ k.next = k.total) ∨
        (k.st = .draining ∧ k.ops = []);
      (ended → gavBusy s.hw = false → After (.glpDescEnd n) s (fun h =>
        becomes h { k with
          result := if k.err ≠ 0 then k.err else if k.pois then 2 else if k.corr then 1 else 0
          ops := [{ n := k.next, elems := [], idx := none, buf := [], busy := false, stage := 8 }] } ∧
        (k.err ≠ 0 → bit (roGet h 0xE010) 1 = true ∧ SameRegs [0xE010] s.hw h) ∧ (k.err = 0 → h.ro = s.hw.ro ∧ h.hwSet = s.hw.hwSet) ∧
        h = { s.hw with ro := h.ro, hwSet := h.hwSet, glp := { s.hw.glp with chan := h.glp.chan } })) ∧
      (¬ ended ∨ gavBusy s.hw = true → After (.glpDescEnd n) s (fun h => h = s.hw))) ∧
    (∀ g, gavBusy s.hw = false → k.ops = [g] → g.stage = 7 →
      let ends := fun (k' : Chan) => After (.glpStatusCommit n) s (fun h => becomes h k' ∧
        (bit (k.w 0) 8 = false → h.ports = s.hw.ports) ∧
        (bit (k.w 0) 8 = true → Queued .mp (vcOf 3 (tcOf s.cfg (groupOf s.cfg k.label))) { hdr := fromSlice s.hw {
          type := 0x3C, dst := BitVec.ofNat 16 (fld (k.w 4) 31 16), label := k.label, resp := k.res, arg0 := BitVec.ofNat 64 n } } s.hw h) ∧
        h = { s.hw with glp := { s.hw.glp with chan := h.glp.chan }, ports := { s.hw.ports with eg := h.ports.eg } })
      (k.err ≠ 0 → ends { k with st := .error, ops := [] }) ∧
      (k.err = 0 → k.stop = true → ends { k with st := .stopped, ops := [] }) ∧
      (k.err = 0 → k.stop = false → k.nextPa = 0 → ends { k with st := .done, ops := [] }) ∧
      (k.err = 0 → k.stop = false → k.nextPa ≠ 0 →
        ends { Chan.idle with st := .loading, desc := k.nextPa, result := k.result })) ∧
    (gavBusy s.hw = true ∨ ¬ (∃ g, k.ops = [g] ∧ g.stage = 7) → After (.glpStatusCommit n) s (fun h => h = s.hw))

/-- Reel's commands and its group table: DEFINE copies the staged context into a free one; START makes a defined one run when it has
slots and its group a member, and one whose lease is too small then expires at once; STOP and RENEW act on a running or expired one, and a
stopped one with nothing under way is STOPPED; READ copies the context into the staging area; RELEASE frees one at rest; every other use is
STATE, an illegal context DECERR. A write of GRP_DATA changes a member and is announced by a McastList, but for a group in use (R230, R232,
R233, R240, R241, R244, R370). -/
def Obligations.ReelCommandsAct : Prop :=
  ∀ (s : State) (ctx : BitVec 6), running s.hw = true →
    let n := ctx.toNat
    let x := ctxAt s.hw n
    let d : Ctx := { Ctx.none_ with st := .defined, words := stageCtx s.hw }
    let stat := fun code => n * 256 + code
    let onlyRegs := fun (h : Hw) => SameRegs (cmdRegs 15) s.hw h ∧ h = { s.hw with ro := h.ro, hwSet := h.hwSet }
    let fails := fun (i : Instr) (code r : Nat) => After i s (fun h => CmdTook 15 (stat code) r s.hw h ∧ onlyRegs h)
    let becomes := fun (h : Hw) (x' : Ctx) => ∀ j, ctxAt h j = if j = n then x' else ctxAt s.hw j
    let sets := fun (h : Hw) (x' : Ctx) => becomes h x' ∧ SameRegs (cmdRegs 15) s.hw h ∧
      h = { s.hw with ro := h.ro, hwSet := h.hwSet, reel := { s.hw.reel with ctx := h.reel.ctx } }
    let tells := fun (h : Hw) (x' : Ctx) (event : Nat) => becomes h x' ∧ ReelEvent s.cfg n x event s.hw h ∧
      SameRegs (cmdRegs 15 ++ regOvf) s.hw h ∧
      h = { s.hw with ro := h.ro, hwSet := h.hwSet, perf := h.perf, ports := h.ports, reel := { s.hw.reel with ctx := h.reel.ctx } }
    let bad := d.tile = 0 ∨ 256 < d.tile ∨ d.tiles = 0 ∨ d.depth = 0 ∨ 16 < d.depth ∨
      2 ^ 52 < d.src + (d.tiles - 1) * d.stride + d.tile * 4096 ∨ groupValid s.hw d.group = 0
    let defErr := x.st ≠ .free ∨ tcOf s.cfg (groupOf s.cfg d.label) = 0
    let live := x.st = .running ∨ x.st = .expired
    let startErr := x.st ≠ .defined ∨ slotsFree s.hw < x.depth ∨ groupValid s.hw x.group = 0 ∨ booting s.hw = true
    let started := { x with st := .running, active := groupValid s.hw x.group, lease := (x.w 0x1C).toNat }
    let short := (x.w 0x1C).toNat < 4096 ∧ x.started < x.total ∧ x.chunks = []
    (bad → fails (.reelDefine ctx) 1 3) ∧
    (¬ bad → defErr → fails (.reelDefine ctx) 1 5) ∧
    (¬ bad → ¬ defErr → After (.reelDefine ctx) s (fun h => CmdTook 15 (stat 1) 0 s.hw h ∧ sets h d)) ∧
    (startErr → fails (.reelStart ctx) 2 5) ∧
    (¬ startErr → ¬ short → After (.reelStart ctx) s (fun h => CmdTook 15 (stat 2) 0 s.hw h ∧ sets h started)) ∧
    (¬ startErr → short → After (.reelStart ctx) s (fun h => CmdTook 15 (stat 2) 0 s.hw h ∧ tells h { started with st := .expired } 1)) ∧
    (live → ¬ (x.chunks = [] ∧ x.started < x.total) → After (.reelStop ctx) s (fun h => CmdTook 15 (stat 3) 0 s.hw h ∧
      sets h { x with stop := true, st := if x.st = .running then .stopping else x.st })) ∧
    (live → x.chunks = [] → x.started < x.total → After (.reelStop ctx) s (fun h => CmdTook 15 (stat 3) 0 s.hw h ∧
      tells h { x with stop := true, st := .stopped } 2)) ∧
    (¬ live → fails (.reelStop ctx) 3 5) ∧
    (live → After (.reelRenew ctx) s (fun h =>
      let l := min 0xFFFFFFFF (x.lease + (cfgGet s.cfg 0xF06C).toNat)
      CmdTook 15 (stat 4) 0 s.hw h ∧ sets h { x with lease := l, st := if x.st = .expired ∧ 4096 ≤ l then .running else x.st })) ∧
    (¬ live → fails (.reelRenew ctx) 4 5) ∧
    (x.st = .free → fails (.reelRead ctx) 5 5) ∧
    (x.st ≠ .free → After (.reelRead ctx) s (fun h => CmdTook 15 (stat 5) 0 s.hw h ∧
      (∀ j, j < 8 → roGet h (0xF080 + 4 * j) = x.w (4 * j)) ∧ roGet h 0xF0A0 = BitVec.ofNat 32 (ctxCode x.st) ∧
      roGet h 0xF0A4 = BitVec.ofNat 32 x.started ∧ roGet h 0xF0A8 = BitVec.ofNat 32 x.delivered ∧
      roGet h 0xF0AC = BitVec.ofNat 32 x.lease ∧ roGet h 0xF0B0 = x.active ∧ roGet h 0xF0B4 = x.resends ∧
      roGet h 0xF0B8 = BitVec.ofNat 32 (b2n x.pois) ∧ roGet h 0xF0BC = 0 ∧
      SameRegs (cmdRegs 15 ++ (List.range 16).map (fun j => 0xF080 + 4 * j)) s.hw h ∧ h = { s.hw with ro := h.ro, hwSet := h.hwSet })) ∧
    (x.st = .defined ∨ x.st = .stopped ∨ x.st = .done →
      After (.reelRelease ctx) s (fun h => CmdTook 15 (stat 6) 0 s.hw h ∧ sets h Ctx.none_)) ∧
    (¬ (x.st = .defined ∨ x.st = .stopped ∨ x.st = .done) → fails (.reelRelease ctx) 6 5) ∧
    (∀ data : BitVec 32,
      let g := cf s.cfg 15 0x4C 19 16
      let m := cf s.cfg 15 0x4C 4 0
      let rid : Rid := data.setWidth 16
      let used := ∃ p ∈ s.hw.reel.ctx, p.2.holds = true ∧ p.2.group = g
      (used → After (.reelGroupWrite data) s (fun h => bit (roGet h 0xF010) 0 = true ∧ SameRegs [0xF010] s.hw h ∧ onlyRegs h)) ∧
      (¬ used → After (.reelGroupWrite data) s (fun h =>
        (∀ j, cFind h.reel.mem j = if j = 32 * g + m then (if bit data 31 then some (some rid) else none) else cFind s.hw.reel.mem j) ∧
        (∀ j, cGet 0 h.reel.memRid j = if j = 32 * g + m then rid else cGet 0 s.hw.reel.memRid j) ∧
        (∀ j, cGet 0 h.reel.lists j = if j = g then cGet 0 s.hw.reel.lists g + 1 else cGet 0 s.hw.reel.lists j) ∧
        Queued .mp (vcOf 3 1) { hdr := fromSlice s.hw {
          type := 0x2C, dkind := 2, dst := 0xFFFF, arg2 := BitVec.ofNat 32 (g + m * 256 + b2n (bit data 31) * 2 ^ 31)
          arg0 := BitVec.ofNat 64 rid.toNat } } s.hw h ∧
        h = { s.hw with reel := { s.hw.reel with mem := h.reel.mem, memRid := h.reel.memRid, lists := h.reel.lists }
                        ports := { s.hw.ports with eg := h.ports.eg } })))

/-- Reel's work, not in a Gavotte sequence: the first context in rotation with a slot and lease for it starts a chunk and reads its 32
lines as far as the admission buffer has room; a chunk all of whose lines have arrived is ready; a context sends the messages of its oldest
ready chunk, a re-send first, to its active members, with the words of the slot, a corrected one counted and a poisoned one reported; a
report ends the send it names, and every member it lists is owed the message again until it has failed too often, when it is dropped; a
chunk that every active member has is delivered (R231, R234, R235, R236, R237, R238, R239, R245). -/
def Obligations.ReelSendsChunks : Prop :=
  ∀ (s : State) (n : Nat), running s.hw = true → n < 64 →
    let x := ctxAt s.hw n
    let becomes := fun (h : Hw) (x' : Ctx) => ∀ j, ctxAt h j = if j = n then x' else ctxAt s.hw j
    let far := fun (j : Nat) => (j + 64 - s.hw.reel.rot % 64) % 64
    let can := fun (j : Nat) => gavBusy s.hw = false ∧ (ctxAt s.hw j).st = .running ∧ (ctxAt s.hw j).chunks.length < (ctxAt s.hw j).depth ∧
      4096 ≤ (ctxAt s.hw j).lease ∧ (ctxAt s.hw j).started < (ctxAt s.hw j).total
    let pa := fun (l : Nat) => x.linePa (32 * x.started + l)
    let free := ((List.range 64).find? (fun v => !((s.hw.reel.ctx.flatMap (fun p => p.2.chunks.map (·.slot))).contains v))).getD 0
    let starts := fun (unread : List Nat) (h : Hw) =>
      becomes h { x with started := x.started + 1, lease := x.lease - 4096, chunks := x.chunks ++ [{
        k := x.started, slot := free, missing := List.range 32, unread := unread, ready := false, next := 0, owed := [], flying := [] }] } ∧
      SameRegs regOvf s.hw h ∧
      h = { s.hw with
        core := { s.hw.core with adm := h.core.adm, nextSeq := h.core.nextSeq }, perf := h.perf, ro := h.ro, hwSet := h.hwSet
        reel := { s.hw.reel with ctx := h.reel.ctx, rot := (n + 1) % 64, cyc := some (now s.hw) } }
    let turn := s.hw.reel.cyc ≠ some (now s.hw) ∧ can n ∧ (∀ j, j < 64 → can j → far n ≤ far j) ∧ (∀ k ∈ x.chunks, k.k ≠ x.started) ∧
      ∀ l, l < 32 → decodePa s.cfg s.hw (pa l) = .home ∧ marchedLine s.hw (.pa (pa l / 128)) = false
    (turn → sectUse s.hw .lo + 32 ≤ 512 → (∀ p ∈ s.hw.core.dec, isEvt p.2.kind = true ∨ p.2.sect ≠ .lo) →
      After .chunkStart s (fun h => starts [] h ∧ h.core.nextSeq = s.hw.core.nextSeq + 32 ∧
        h.core.adm = s.hw.core.adm ++ (List.range 32).map (fun l => {
          iseq := s.hw.core.nextSeq + l, kind := .readNoSnoop, lines := [.pa (pa l / 128)], label := x.label
          hdr := engHdr 3 (pa l) (BitVec.ofNat 16 (cf s.cfg 15 0x40 15 0)) x.label 0 false
          group := groupOf s.cfg x.label, tc := max 1 (tcOf s.cfg (groupOf s.cfg x.label))
          eng := some (.reel n (32 * x.started + l)), par := b2n x.spill, sect := .lo }))) ∧
    (turn → sectRoom s.hw .lo = false → After .chunkStart s (fun h => starts (List.range 32) h ∧ h.core = s.hw.core)) ∧
    (s.hw.reel.cyc = some (now s.hw) ∨ (∀ j, j < 64 → ¬ can j) → After .chunkStart s (fun h => h = s.hw)) ∧
    (∀ k, x.chunks.find? (fun k => k.missing.isEmpty && !k.ready) = some k → After (.chunkReady n) s (fun h =>
      ∃ g, h = chunksDone s.cfg n 64 g ∧ becomes g (x.updChunk k.k (fun a => { a with ready := true })) ∧
        g = { s.hw with reel := { s.hw.reel with ctx := g.reel.ctx } })) ∧
    ((∀ k ∈ x.chunks, k.missing ≠ [] ∨ k.ready = true) → After (.chunkReady n) s (fun h => h = s.hw)) ∧
    (∀ upsets k m re, x.holds = true → gavBusy s.hw = false → cGet 0 s.hw.reel.lists x.group = 0 → nextChunkMsg x = some (k, m, re) →
      s.hw.diag.rq.length < 32 →
      let read := fun (w : Nat) => eccDec (cGet 0 s.hw.reel.sbuf (k.slot * 1024 + m * 32 + w) ^^^
        ((upsets.find? (fun u => decide (u.1 = w))).map (·.2)).getD 0)
      let bad := (List.range 32).any (fun w => (read w).2.poi)
      let mask : BitVec 32 := match re with | some j => BitVec.ofNat 32 (2 ^ j) | none => x.active
      After (.streamChunkSend n upsets) s (fun h =>
        Queued .mp (vcOf 4 (max 1 (tcOf s.cfg (groupOf s.cfg x.label)))) {
          pay := (List.range 32).map (fun w => (read w).2), note := .chunk n k.k m
          hdr := fromSlice s.hw {
            type := 0x1C, dfl := 2, dkind := 3, dst := BitVec.ofNat 16 (2 ^ 14 + x.group), label := x.label, bmask := mask.setWidth 128
            arg2 := BitVec.ofNat 32 (s.hw.rst.id.toNat * 64 + n)
            arg0 := BitVec.ofNat 64 (k.k + m * 2 ^ 32 + b2n (decide ((k.k + 1) % x.tile = 0)) * 2 ^ 40 +
              b2n (decide (k.k + 1 = x.total)) * 2 ^ 41) } } s.hw h ∧
        becomes h (({ x with pois := x.pois || bad, resends := if re.isSome then satAdd x.resends 1 else x.resends }).updChunk k.k
          (fun a => { a with next := if re.isSome then a.next else a.next + 1, flying := a.flying ++ [(m, mask)] })) ∧
        roGet h 0xF058 = roGet s.hw 0xF058 + BitVec.ofNat 32 (b2n re.isSome) ∧
        roGet h 0xF068 = satAdd (roGet s.hw 0xF068) ((List.range 32).filter (fun w => (read w).1 == .corr)).length ∧
        (bad = true → roGet h 0xF060 = satAdd (roGet s.hw 0xF060) 1 ∧ bit (roGet h 0xF010) 2 = true ∧
          Reported 0x11 false (streamId s.hw n) 1 h) ∧
        (bad = false → roGet h 0xF060 = roGet s.hw 0xF060 ∧ roGet h 0xF010 = roGet s.hw 0xF010 ∧ h.diag = s.hw.diag) ∧
        SameRegs ([0xF058, 0xF060, 0xF068, 0xF010] ++ regOvf) s.hw h ∧
        h = { s.hw with reel := { s.hw.reel with ctx := h.reel.ctx }, ports := { s.hw.ports with eg := h.ports.eg }, perf := h.perf
                        ro := h.ro, hwSet := h.hwSet, diag := { s.hw.diag with rq := h.diag.rq } })) ∧
    (∀ k rest, x.chunks = k :: rest → k.ready = true →
      let due := k.owed.filter (fun o => !(k.flying.any (fun f => decide (f.1 = o.1) && bit f.2 o.2.1)))
      (due = [] → k.next < 32 → x.active ≠ 0 → nextChunkMsg x = some (k, k.next, none)) ∧
      (∀ o more, due = o :: more → (∀ f ∈ k.flying, f.1 ≠ o.1) → nextChunkMsg x = some (k, o.1, some o.2.1))) ∧
    (∀ upsets, x.holds = false ∨ gavBusy s.hw = true ∨ cGet 0 s.hw.reel.lists x.group ≠ 0 ∨ nextChunkMsg x = none →
      After (.streamChunkSend n upsets) s (fun h => h = s.hw)) ∧
    (∀ kn m resid k fl, x.chunks.find? (fun k => decide (k.k = kn)) = some k → k.flying.find? (fun f => decide (f.1 = m)) = some fl →
      let most := max 1 (cf s.cfg 15 0x44 3 0)
      let bad := fl.2 &&& resid &&& x.active
      let fails := fun (j : Nat) => ((k.owed.find? (fun o => decide (o.1 = m ∧ o.2.1 = j))).map (·.2.2)).getD 0 + 1
      let again := ((bitsOf bad.toNat 32).filter (fun j => decide (fails j < most))).map (fun j => (m, j, fails j))
      let drops := (bitsOf bad.toNat 32).filter (fun j => decide (most ≤ fails j))
      let told := fun (g : Hw) => becomes g (x.updChunk k.k (fun a => { a with
          flying := a.flying.filter (· != fl), owed := k.owed.filter (fun o => !(decide (o.1 = m) && bit fl.2 o.2.1)) ++ again })) ∧
        g = { s.hw with reel := { s.hw.reel with ctx := g.reel.ctx } }
      ∃ g, told g ∧ reelReport s.cfg n kn m resid s.hw = chunksDone s.cfg n 64 (drops.foldl (fun h j => dropMember s.cfg n k.k j h) g)) ∧
    (∀ g : Hw,
      let y := ctxAt g n
      (∀ k rest, y.chunks = k :: rest → y.holds = true → k.complete y.active = true → ∃ g1,
        chunksDone s.cfg n 64 g = chunksDone s.cfg n 63 (ctxSettle s.cfg n (decide (k.k + 1 = y.total)) g1) ∧
        ctxAt g1 n = { y with chunks := rest, delivered := y.delivered + 1 } ∧ (∀ j, j ≠ n → ctxAt g1 j = ctxAt g j) ∧
        roGet g1 0xF054 = roGet g 0xF054 + 1 ∧ SameRegs (0xF054 :: regOvf) g g1 ∧
        g1 = { g with reel := { g.reel with ctx := g1.reel.ctx }, perf := g1.perf, ro := g1.ro, hwSet := g1.hwSet }) ∧
      ((∀ k rest, y.chunks = k :: rest → y.holds = true → k.complete y.active = false) → chunksDone s.cfg n 64 g = g))

/-! ### Protection -/

/-- SCRUB_START clears the pass's summary and starts a pass over its ways and sets; each read takes the next row of a bank, or skips a
line that cannot be read; the pass ends when all is read and done; CHK_WRITE, CHK_READ, MAP and UNMAP run as transactions on the line
that their place holds, and end with their result; CLR_WAY clears a way's count and bits; a write of PG_ERR_INJ arms its errors; each
is DECERR, STATE or refused as its page says (R291, R296 to R300, R306 to R308). -/
def Obligations.ScrubbingCheckingAndRemapCommandsAct : Prop :=
  ∀ (s : State) (way : BitVec 4), running s.hw = true →
    let w := way.toNat
    let onlyRegs := fun (p : Nat) (h : Hw) => SameRegs (cmdRegs p) s.hw h ∧ h = { s.hw with ro := h.ro, hwSet := h.hwSet }
    let refused := fun (p : Nat) (i : Instr) => After i s (fun h => bit (roGet h (rg p 0x10)) 0 = true ∧ SameRegs [rg p 0x10] s.hw h ∧
      onlyRegs p h)
    let took := fun (p : Nat) (i : Instr) (stat code : Nat) => After i s (fun h => CmdTook p stat code s.hw h ∧ onlyRegs p h)
    let works := fun (p stat : Nat) (kind : Kind) (lines : List LineKey) (par : Nat) (h : Hw) =>
      CmdRuns p stat h ∧ SameRegs [rg p 0x20] s.hw h ∧
      h = { s.hw with
        ro := h.ro, free := s.hw.free + 1, prot := { s.hw.prot with chk := h.prot.chk }
        core := { s.hw.core with adm := s.hw.core.adm ++ [ownReq s.hw kind lines par ownRid], nextSeq := s.hw.core.nextSeq + 1 } }
    let stays := fun (i : Instr) => After i s (fun h => h = s.hw)
    let ways := cf s.cfg 17 0x48 15 0
    let first := cf s.cfg 17 0x4C 13 0
    let count := cf s.cfg 17 0x4C 30 16
    let scrubErr := ways = 0 ∨ count = 0 ∨ 16384 < first + count
    (scrubErr → took 17 (.scrubStart way) (w * 256 + 1) 3) ∧
    (¬ scrubErr → pgBusy s.hw 17 = true → refused 17 (.scrubStart way)) ∧
    (¬ scrubErr → pgBusy s.hw 17 = false → booting s.hw = true → took 17 (.scrubStart way) (w * 256 + 1) 5) ∧
    (¬ scrubErr → pgBusy s.hw 17 = false → booting s.hw = false → After (.scrubStart way) s (fun h => CmdRuns 17 (w * 256 + 1) h ∧
      (∀ o, o ∈ [0x11054, 0x11058, 0x1105C, 0x11060, 0x11068] → roGet h o = 0) ∧ roGet h 0x11050 = BitVec.ofNat 32 first ∧
      SameRegs [0x11020, 0x11050, 0x11054, 0x11058, 0x1105C, 0x11060, 0x11068] s.hw h ∧
      h = { s.hw with ro := h.ro, prot := { s.hw.prot with scrub := some {
        mask := BitVec.ofNat 16 ways, first := first, count := count, next := [], pend := [], wait := [], left := 0, stop := false } } })) ∧
    (s.hw.prot.scrub = none → took 17 (.scrubStop way) (w * 256 + 2) 5 ∧ (∀ b, stays (.scrubReadIssue b)) ∧ stays .scrubPassEnd) ∧
    (∀ p, s.hw.prot.scrub = some p →
      After (.scrubStop way) s (fun h => CmdTook 17 (w * 256 + 2) 0 s.hw h ∧ SameRegs (cmdRegs 17) s.hw h ∧
        h = { s.hw with ro := h.ro, hwSet := h.hwSet, prot := { s.hw.prot with scrub := some { p with stop := true } } }) ∧
      (∀ b,
        let n := cGet 0 p.next b
        let at_ := scrubAt p b n
        let pl := place s.hw (b / 2) at_.1 at_.2
        let k := bank s.hw pl.1
        let may := b < 32 ∧ p.stop = false ∧ gavBusy s.hw = false ∧ p.pend.contains b = false ∧ n < scrubRows p b
        let skips := wayMode s.hw (b / 2) = 3 ∨ (setting s.hw (b / 2)).isSome = true ∨ marchDestroys s.hw b = true
        let busy := ∃ op ∈ k.pend ++ k.cur.toList ++ k.fly, op.own = .scrub
        let next := fun (v : Scrub) (h : Hw) => roGet h 0x11050 = BitVec.ofNat 32 (scrubNext v) ∧ h.prot = { s.hw.prot with scrub := some v }
        (may → skips → After (.scrubReadIssue b) s (fun h => next { p with next := cPut 0 p.next b (2 * (n / 2) + 2) } h ∧
          SameRegs [0x11050] s.hw h ∧ h = { s.hw with ro := h.ro, prot := h.prot })) ∧
        (may → ¬ skips → ¬ busy → After (.scrubReadIssue b) s (fun h =>
          next { p with next := cPut 0 p.next b (n + 1), pend := p.pend ++ [b] } h ∧ Woken pl.1 s.hw h ∧
          (∃ op, (∀ j, bank h j = { bank s.hw j with pend := (bank s.hw j).pend ++ if j = pl.1 then [op] else [] }) ∧
            op.own = .scrub ∧ op.rows = [(at_.2, pl.2)] ∧ op.write = false ∧ op.master = some .scrub ∧ op.li = b ∧
            op.way = b / 2 ∧ op.set = at_.1 ∧ op.bank = pl.1 ∧ op.done = [] ∧ op.who.charge = false) ∧
          SameRegs (0x11050 :: regOvf) s.hw h ∧
          h = { s.hw with ro := h.ro, hwSet := h.hwSet, perf := h.perf, prot := h.prot
                          arr := { s.hw.arr with banks := h.arr.banks, pwr := h.arr.pwr } })) ∧
        (¬ may ∨ (¬ skips ∧ busy) → stays (.scrubReadIssue b))) ∧
      (let ended := p.pend = [] ∧ p.wait = [] ∧ p.left = 0 ∧ (p.stop = true ∨ ∀ b, b < 32 →
          scrubRows p b ≤ cGet 0 p.next b ∨ scrubSkips s.hw b = true);
        (ended → After .scrubPassEnd s (fun h => CmdEnds 17 0 s.hw h ∧
          roGet h 0x11050 = (if p.stop then roGet s.hw 0x11050 else BitVec.ofNat 32 (p.first + p.count)) ∧
          SameRegs (0x11050 :: cmdRegs 17) s.hw h ∧
          h = { s.hw with ro := h.ro, hwSet := h.hwSet, prot := { s.hw.prot with scrub := none } })) ∧
        (¬ ended → stays .scrubPassEnd))) ∧
    (∀ i code kind, (i, code, kind) = (.chkWrite way, 3, Kind.chkWrite) ∨ (i, code, kind) = (.chkRead way, 4, Kind.chkRead) →
      let a := cfgGet s.cfg 0x1106C
      let bad := booting s.hw = true ∨ cf s.cfg 17 0x44 31 31 = 0 ∨ wayMode s.hw (fld a 31 28) = 3
      (pgBusy s.hw 17 = true → refused 17 i) ∧
      (pgBusy s.hw 17 = false → bad → took 17 i (w * 256 + code) 5) ∧
      (pgBusy s.hw 17 = false → ¬ bad → After i s (fun h =>
        works 17 (w * 256 + code) kind (placeLines s.hw (fld a 31 28) (fld a 25 12)) 0 h ∧
        h.prot.chk = some (a, roGet s.hw 0x11070, roGet s.hw 0x11074)))) ∧
    (s.hw.units.chkEnd = true → After .chkDone s (fun h => CmdEnds 17 0 s.hw h ∧ SameRegs (cmdRegs 17) s.hw h ∧
      h = { s.hw with ro := h.ro, hwSet := h.hwSet, units := { s.hw.units with chkEnd := false } })) ∧
    (s.hw.units.chkEnd = false → stays .chkDone) ∧
    (After (.clrWay way) s (fun h => CmdTook 17 (w * 256 + 5) 0 s.hw h ∧ roGet h (0x110C0 + 4 * w) = 0 ∧
      roGet h 0x11098 = setBit (roGet s.hw 0x11098) w false ∧ roGet h 0x1109C = setBit (roGet s.hw 0x1109C) w false ∧
      SameRegs ([0x110C0 + 4 * w, 0x11098, 0x1109C] ++ cmdRegs 17) s.hw h ∧ h = { s.hw with ro := h.ro, hwSet := h.hwSet })) ∧
    (∀ d : BitVec 32, After (.eccErrInj d) s (fun h => h = { s.hw with prot := { s.hw.prot with
      injTag := if fld d 1 0 = 1 ∨ fld d 1 0 = 2 then fld d 1 0 else s.hw.prot.injTag
      injSf := if fld d 3 2 = 1 ∨ fld d 3 2 = 2 then fld d 3 2 else s.hw.prot.injSf } })) ∧
    (∀ set : BitVec 14,
      let t := set.toNat
      let bad := booting s.hw = true ∨ wayMode s.hw w = 3 ∨ (setting s.hw w).isSome = true ∨ (∃ x, s.hw.prot.dis = some (w, x)) ∨
        bankMarched s.hw (bankOf w t) = true
      let noMap := bad ∨ (lrtEntry s.hw w t).isSome = true ∨ lrtFree s.hw = none ∨ spareFree s.hw = none
      let noUnmap := bad ∨ lrtEntry s.hw w t = none
      (pgBusy s.hw 19 = true → refused 19 (.lrtMap way set) ∧ refused 19 (.lrtUnmap way set)) ∧
      (pgBusy s.hw 19 = false → noMap → took 19 (.lrtMap way set) (t * 2 ^ 16 + w * 256 + 1) 5) ∧
      (pgBusy s.hw 19 = false → ¬ noMap → After (.lrtMap way set) s (fun h =>
        works 19 (t * 2 ^ 16 + w * 256 + 1) .lrtMap (placeLines s.hw w t) (w * 16384 + t) h ∧ h.prot = s.hw.prot)) ∧
      (pgBusy s.hw 19 = false → noUnmap → took 19 (.lrtUnmap way set) (t * 2 ^ 16 + w * 256 + 2) 5) ∧
      (pgBusy s.hw 19 = false → ¬ noUnmap → After (.lrtUnmap way set) s (fun h =>
        works 19 (t * 2 ^ 16 + w * 256 + 2) .lrtUnmap (placeLines s.hw w t) (w * 16384 + t) h ∧ h.prot = s.hw.prot))) ∧
    (∀ r, s.hw.units.lrtEnd = some r → After .lrtCmdDone s (fun h => CmdEnds 19 r.toNat s.hw h ∧ SameRegs (cmdRegs 19) s.hw h ∧
      h = { s.hw with ro := h.ro, hwSet := h.hwSet, units := { s.hw.units with lrtEnd := none } })) ∧
    (s.hw.units.lrtEnd = none → stays .lrtCmdDone)

/-- The oldest retry entry becomes a repair transaction where a general entry is free, and one of a way that is OFF or changes is dropped;
a row that the scrubber found and that waits for a place then takes it. The fresh read of a repair decides whether its words were fleeting
or are written back and checked, from XP where the line is clean there, and the check whether the error was transient or lasting; a lasting
one counts in its way, which may have to be disabled, and moves the line to a spare line where one is free; a spare line that fails is
marked bad. What is found is logged, and counted for a scrub pass (R282 to R284, R287 to R289, R292 to R294, R297, R298). -/
def Obligations.RepairsDecide : Prop :=
  (∀ (s : State) (tt : Nat), running s.hw = true → s.hw.prot.retry = [] ∨ gavBusy s.hw = true →
    After (.repairStart tt) s (fun h => h = s.hw)) ∧
  (∀ (s : State) (tt : Nat) (r : Retry) (rest : List Retry), running s.hw = true → s.hw.prot.retry = r :: rest → gavBusy s.hw = false →
    let gone := ∃ w set, rowPlace s.hw r.bank r.row = some (w, set) ∧ (wayMode s.hw w = 3 ∨ (setting s.hw w).isSome = true)
    let room := tt < 16384 ∧ ent s.hw tt = none ∧ poolUse s.hw .gen < poolCap .gen
    let lines := match rowPlace s.hw r.bank r.row with | some (w, set) => placeLines s.hw w set | none => []
    (gone → After (.repairStart tt) s (fun h => ∃ g, h = scrubDrain g ∧ g = { s.hw with prot := { s.hw.prot with
      retry := rest, scrub := s.hw.prot.scrub.map (fun p => if r.scrub then { p with left := p.left - 1 } else p) } })) ∧
    (¬ gone → room → After (.repairStart tt) s (fun h => ∃ g, h = scrubDrain g ∧ OtherEnts tt s.hw g ∧
      ent g tt = some {
        req := { ownReq s.hw .repair lines (r.bank * 16384 + r.row) r.rid with pay := retryPay r }, pool := .gen
        arr := s.hw.core.nextArr, aux2 := b2n r.scrub } ∧
      SameRegs regOvf s.hw g ∧
      g = { s.hw with
        core := { s.hw.core with tt := g.core.tt, nextSeq := s.hw.core.nextSeq + 1, nextArr := s.hw.core.nextArr + 1 }
        prot := { s.hw.prot with retry := rest }, free := s.hw.free + 1, perf := g.perf, ro := g.ro, hwSet := g.hwSet })) ∧
    (¬ gone → ¬ room → After (.repairStart tt) s (fun h => h = s.hw))) ∧
  (∀ (g : Hw),
    (g.prot.scrub = none ∨ (∃ p, g.prot.scrub = some p ∧ p.wait = []) ∨ 16 ≤ g.prot.retry.length → scrubDrain g = g) ∧
    (∀ p x more, g.prot.scrub = some p → p.wait = x :: more → g.prot.retry.length < 16 →
      (∀ y ∈ g.prot.retry, ¬ (y.bank = x.bank ∧ y.row = x.row)) → SameRegs regOvf g (scrubDrain g) ∧
      scrubDrain g = { g with
        prot := { g.prot with retry := g.prot.retry ++ [x], scrub := some { p with wait := more, left := p.left + 1 } }
        perf := (scrubDrain g).perf, ro := (scrubDrain g).ro, hwSet := (scrubDrain g).hwSet })) ∧
  (∀ (s : State) (tt : Nat), running s.hw = true →
    ent s.hw tt = none ∨ (∃ e, ent s.hw tt = some e ∧
      (e.active = false ∨ e.todo.head? ≠ some .step ∨ (gavHolds s.hw = true ∧ e.wrote = false))) →
    After (.repairStep tt) s (fun h => h = s.hw)) ∧
  (∀ (s : State) (tt : Nat) (e : Ent), running s.hw = true → s.hw.diag.rq.length < 26 →
    ent s.hw tt = some e → e.active = true → e.todo.head? = some .step → gavHolds s.hw = false ∨ e.wrote = true →
      let ws := repErrs e
      let way := ((repPlace s.hw e).getD (0, 0)).1
      let set := ((repPlace s.hw e).getD (0, 0)).2
      let src := repairSrc s.cfg s.hw e way set
      let clean := repClean s.hw e
      let good := ∀ p ∈ repWritten e, clsAt e 2 p.1 = 0 ∨ (clsAt e 2 p.1 = 2 ∧ p.2.poi = true)
      let isMark := fun (n : Nat) => ∃ p ∈ repWritten e, p.1 = n ∧ p.2.poi = true
      let becomes := fun (e' : Ent) (h : Hw) => OtherEnts tt s.hw h ∧ ent h tt = some e'
      let frame := fun (h : Hw) =>
        h = { s.hw with core := { s.hw.core with tt := h.core.tt }, diag := { s.hw.diag with rq := h.diag.rq }, perf := h.perf
                        ro := h.ro, hwSet := h.hwSet, prot := { s.hw.prot with disWait := h.prot.disWait } }
      let quiet := fun (h : Hw) => h = { s.hw with core := { s.hw.core with tt := h.core.tt } }
      let ended := { e with todo := repTail, busy := false }
      let scrubbed := bitN e.aux2 0 = true ∧ s.hw.prot.scrub.isSome = true
      let marked := ((repWritten e).filter (·.2.poi)).length
      let fixed := (ws.filter (fun n => !((repWritten e).any (fun p => decide (p.1 = n) && p.2.poi)))).length
      let logged := fun (kind : Nat) (h : Hw) =>
        ((∃ n ∈ ws, ¬ isMark n) → Reported kind src.1 src.2 0 h) ∧ ((∃ n ∈ ws, isMark n) → Reported kind src.1 src.2 1 h) ∧
        roGet h 0x11058 = (if scrubbed then satAdd (roGet s.hw 0x11058) fixed else roGet s.hw 0x11058) ∧
        roGet h 0x1105C = (if scrubbed then satAdd (roGet s.hw 0x1105C) marked else roGet s.hw 0x1105C)
      (e.aux = 0 → ws = [] → After (.repairStep tt) s (fun h => frame h ∧ becomes ended h ∧ h.prot = s.hw.prot ∧
        roGet h 0x11088 = satAdd (roGet s.hw 0x11088) (repFirst e).length ∧ (repFirst e ≠ [] → Reported 1 src.1 src.2 0 h) ∧
        SameRegs (0x11088 :: regOvf) s.hw h)) ∧
      (e.aux = 0 → ws ≠ [] → (∀ ln, clean = some ln → ∀ n ∈ ws, clsAt e 0 n ≠ 3) → After (.repairStep tt) s (fun h => quiet h ∧
        becomes { e with aux := 1, todo := [.go 2, .go 3, .step], busy := false } h)) ∧
      (∀ ln, e.aux = 0 → clean = some ln → (∃ n ∈ ws, clsAt e 0 n = 3) → After (.repairStep tt) s (fun h => quiet h ∧
        becomes { e with
          aux := 1, aux2 := e.aux2 ||| 2, busy := false, todo := [.xrd (ln * 128) (2 ^ repSec e) 1, .go 2, .go 3, .step] } h)) ∧
      (e.aux ≠ 0 → good → After (.repairStep tt) s (fun h => frame h ∧ becomes ended h ∧ h.prot = s.hw.prot ∧ logged 1 h ∧
        roGet h 0x11088 = satAdd (roGet s.hw 0x11088) ws.length ∧ SameRegs ([0x11058, 0x1105C, 0x11088] ++ regOvf) s.hw h)) ∧
      (e.aux ≠ 0 → ¬ good → way < 16 → repBank e < 32 ∨ (repPlace s.hw e).isSome = true → After (.repairStep tt) s (fun h =>
        let n := min 255 (fld (roGet s.hw (0x110C0 + 4 * way)) 7 0 + 1)
        let thr := cf s.cfg 17 0x44 7 0
        let asked := thr ≠ 0 ∧ thr ≤ n ∧ s.hw.prot.dis.map (·.1) ≠ some way ∧ ∀ d ∈ s.hw.prot.disWait, d.1 ≠ way
        let keeps := asked ∧ wayMode s.hw way ≠ 3 ∧ (wayMode s.hw way ≠ 0 ∨ way ∈ s.hw.home.locked)
        frame h ∧ logged 2 h ∧ roGet h 0x1108C = satAdd (roGet s.hw 0x1108C) ws.length ∧
        roGet h (0x110C0 + 4 * way) = BitVec.ofNat 32 n ∧
        h.prot.disWait = (if asked ∧ wayMode s.hw way = 0 ∧ ¬ way ∈ s.hw.home.locked then s.hw.prot.disWait ++ [(way, clkC s.hw)]
          else s.hw.prot.disWait) ∧
        (keeps → bit (roGet s.hw 0x11098) way = false → roGet h 0x11098 = setBit (roGet s.hw 0x11098) way true ∧
          bit (roGet h 0x11010) 2 = true ∧ Reported 5 false way 1 h) ∧
        (¬ keeps ∨ bit (roGet s.hw 0x11098) way = true →
          roGet h 0x11098 = roGet s.hw 0x11098 ∧ roGet h 0x11010 = roGet s.hw 0x11010) ∧
        SameRegs ([0x11058, 0x1105C, 0x1108C, 0x110C0 + 4 * way, 0x11098, 0x11010, 0x13010, 0x13044] ++ regOvf) s.hw h ∧
        (repBank e < 32 → roGet h 0x13044 = roGet s.hw 0x13044 ∧
          (∀ v, lrtSpare s.hw way set = some v → becomes ended h ∧ roGet h 0x13010 = roGet s.hw 0x13010) ∧
          (∀ k v, lrtSpare s.hw way set = none → lrtFree s.hw = some k → spareFree s.hw = some v →
            becomes { ended with errs := [(200, k), (201, v)], todo := [.go 4, .go 5, .go 6] ++ repTail } h ∧
              roGet h 0x13010 = roGet s.hw 0x13010) ∧
          (lrtSpare s.hw way set = none → lrtFree s.hw = none ∨ spareFree s.hw = none →
            becomes ended h ∧ bit (roGet h 0x13010) 1 = true ∧ Reported 4 true (placeSrc way set) 2 h)) ∧
        (32 ≤ repBank e →
          let v := repRow e / 2
          let left := spareFree (roPut 0x13044 (setBit (roGet s.hw 0x13044) v true) s.hw)
          roGet h 0x13044 = setBit (roGet s.hw 0x13044) v true ∧ bit (roGet h 0x13010) 2 = true ∧
          Reported 4 true (placeSrc way set) 1 h ∧
          (∀ k x, ((lrtEntry s.hw way set).orElse (fun _ => lrtFree s.hw)) = some k → left = some x →
            becomes { ended with errs := [(200, k), (201, x)], todo := [.go 4, .go 5, .go 6] ++ repTail } h) ∧
          (left = none → becomes ended h ∧ bit (roGet h 0x13010) 1 = true ∧ Reported 4 true (placeSrc way set) 2 h)))) ∧
      (e.aux ≠ 0 → ¬ good → 32 ≤ repBank e → repPlace s.hw e = none → After (.repairStep tt) s (fun h => frame h ∧ becomes ended h ∧
        logged 2 h ∧ roGet h 0x1108C = satAdd (roGet s.hw 0x1108C) ws.length ∧ h.prot = s.hw.prot ∧
        roGet h 0x13044 = setBit (roGet s.hw 0x13044) (repRow e / 2) true ∧ bit (roGet h 0x13010) 2 = true ∧
        SameRegs ([0x11058, 0x1105C, 0x1108C, 0x13010, 0x13044] ++ regOvf) s.hw h)))

/-- A way at its threshold: from the CLK_C cycle after, with ALLOC not busy, no march on it, and neither Gavotte nor start-up in the way,
its disable starts as SET_MODE to OFF, walks every set, one in a CLK_M cycle, cleans its lines, powers down, and ends with the mode OFF,
WAY_DIS of the way and a log entry; a way that is PINNED, in QUEUE mode or locked is kept and logged once; nothing is done for one that is
OFF (R293 to R295, R420). -/
def Obligations.WaysAreDisabled : Prop :=
  ∀ (s : State) (w tt : Nat), running s.hw = true → w < 16 →
    let p := s.hw.prot
    let out := { p with disWait := p.disWait.filter (fun d => decide (d.1 ≠ w)) }
    let may := (∃ d ∈ p.disWait, d.1 = w ∧ d.2 < clkC s.hw) ∧ p.dis = none ∧ pgBusy s.hw 7 = false ∧ wayMarched s.hw w = false ∧
      gavBusy s.hw = false ∧ s.hw.rst.boot ≠ .power ∧ (s.hw.rst.boot = .fill → s.hw.rst.bootCyc / 2 + 16384 ≤ clkM s.hw)
    let kept := wayMode s.hw w ≠ 0 ∨ w ∈ s.hw.home.locked
    let dead := (pwr s.hw (2 * w)).dead = true ∨ (pwr s.hw (2 * w + 1)).dead = true
    (¬ may → After (.wayDisableStart w) s (fun h => h = s.hw)) ∧
    (may →
      (wayMode s.hw w = 3 ∨ (kept ∧ (dead ∨ bit (roGet s.hw 0x11098) w = true)) →
        After (.wayDisableStart w) s (fun h => h = { s.hw with prot := out })) ∧
      (¬ kept → After (.wayDisableStart w) s (fun h => CmdRuns 7 (3 * 2 ^ 14 + w * 256 + 1) h ∧ SameRegs [0x7020] s.hw h ∧
        h = { s.hw with
          prot := { out with dis := some (w, .walk 0 0 0) }, ro := h.ro
          units := { s.hw.units with mntCut := s.hw.units.mntCut ||
            (match s.hw.units.mnt with | some (c, v, _) => decide (4 ≤ c ∧ c ≤ 7 ∧ v = w) | none => false) } })) ∧
      (kept → wayMode s.hw w ≠ 3 → ¬ dead → bit (roGet s.hw 0x11098) w = false → s.hw.diag.rq.length < 32 →
        After (.wayDisableStart w) s (fun h => roGet h 0x11098 = setBit (roGet s.hw 0x11098) w true ∧ bit (roGet h 0x11010) 2 = true ∧
          Reported 5 false w 1 h ∧ SameRegs ([0x11098, 0x11010] ++ regOvf) s.hw h ∧
          h = { s.hw with
            prot := out, ro := h.ro, hwSet := h.hwSet, perf := h.perf, diag := { s.hw.diag with rq := h.diag.rq } }))) ∧
    (∀ set fly cyc, p.dis = some (w, .walk set fly cyc) →
      let t := tagAt s.hw set w
      let may := gavBusy s.hw = false ∧ cyc ≠ clkM s.hw + 1
      let goes := fun (n f : Nat) => { p with dis := some (w, .walk n f (clkM s.hw + 1)) }
      let run : SetRun := { way := w, mode := 3, old := 0, step := .drain, arr := s.hw.core.nextArr, auto := true }
      let room := tt < 16384 ∧ ent s.hw tt = none ∧ (pickPool s.hw false true).isSome = true
      (¬ may ∨ (16384 ≤ set ∧ fly ≠ 0) ∨ (set < 16384 ∧ t.valid = true ∧ ¬ room) → After (.wayDisableWalk tt) s (fun h => h = s.hw)) ∧
      (may → set < 16384 → t.valid = false → After (.wayDisableWalk tt) s (fun h => h = { s.hw with prot := goes (set + 1) fly })) ∧
      (∀ pl, may → set < 16384 → t.valid = true → room → pickPool s.hw false true = some pl →
        After (.wayDisableWalk tt) s (fun h => OtherEnts tt s.hw h ∧
          ent h tt = some {
            req := ownReq s.hw .wayDis [.pa (lineAt set t.tag)] (w * 16384 + set) ownRid, pool := pl, arr := s.hw.core.nextArr } ∧
          SameRegs regOvf s.hw h ∧
          h = { s.hw with
            core := { s.hw.core with tt := h.core.tt, nextSeq := s.hw.core.nextSeq + 1, nextArr := s.hw.core.nextArr + 1 }
            prot := goes (set + 1) (fly + 1), free := s.hw.free + 1, perf := h.perf, ro := h.ro, hwSet := h.hwSet })) ∧
      (may → 16384 ≤ set → fly = 0 → After (.wayDisableWalk tt) s (fun h => WayPushed w { s.hw with prot := h.prot } h ∧
        h.prot = { p with dis := some (w, .power) } ∧ h.rst = { s.hw.rst with setRun := some run } ∧
        (∀ o, o < 0x8000 → roGet h o = roGet s.hw o) ∧
        ((∀ q ∈ s.hw.near.alb, lineIn s.hw w q.2.line = false) → (∀ q ∈ s.hw.near.jig, q.2.way ≠ w) →
          h = { s.hw with prot := h.prot, rst := h.rst, free := s.hw.free + 1 })))) ∧
    ((∀ x set fly cyc, p.dis ≠ some (x, .walk set fly cyc)) → After (.wayDisableWalk tt) s (fun h => h = s.hw)) ∧
    (∀ r : SetRun, s.hw.rst.setRun = some r → r.way = w →
      let off := ∀ b, b = 2 * w ∨ b = 2 * w + 1 → (pwr s.hw b).dead = true ∨ (pwr s.hw b).st = .off
      let ended := r.auto = true ∧ r.step = .powerOff ∧ off
      (¬ ended → After .wayDisableDone s (fun h => h = s.hw)) ∧
      (ended → s.hw.diag.rq.length < 32 → After .wayDisableDone s (fun h => CmdEnds 7 0 s.hw h ∧
        (∀ v, wayMode h v = if v = w then r.mode else wayMode s.hw v) ∧
        roGet h 0x1109C = setBit (roGet s.hw 0x1109C) w true ∧ bit (roGet h 0x11010) 3 = true ∧ Reported 5 false w 0 h ∧
        SameRegs ([0x7020, 0x7064, 0x1109C, 0x11010] ++ regOvf) s.hw h ∧
        h = { s.hw with
          home := { s.hw.home with mode := h.home.mode }, rst := { s.hw.rst with setRun := none }, prot := { p with dis := none }
          ro := h.ro, hwSet := h.hwSet, perf := h.perf, diag := { s.hw.diag with rq := h.diag.rq } }))) ∧
    (s.hw.rst.setRun = none → After .wayDisableDone s (fun h => h = s.hw))

/-- RUN starts a march pass over its banks, after the release where a Gavotte sequence runs: a destroying pass leaves every row zero and
takes 344,064 CLK_M cycles, its elements taking every row of every bank; a preserving one saves, tests and restores row after row through
the banks' schedulers; a failing row counts once in a pass, the first is kept in FIRST_FAIL, its line counts as a lasting error of its way
and moves to a spare line; a failing spare row marks its spare line bad; STOP ends a pass, a destroying one after its zero fill; its end
clears BUSY (R287 to R290, R292, R301 to R306, R311, R344). -/
def Obligations.MarchPassesRun : Prop :=
  (∀ (s : State), running s.hw = true →
    let banks := cfgGet s.cfg 0x12044
    let destroy := cf s.cfg 18 0x40 0 0 = 1
    let spare := cf s.cfg 18 0x40 1 1 = 1
    let onlyRegs := fun (h : Hw) => SameRegs (cmdRegs 18) s.hw h ∧ h = { s.hw with ro := h.ro, hwSet := h.hwSet }
    let shows := [0x12020, 0x12048, 0x1204C, 0x12050, 0x12054]
    let pass := fun (m : March) => { s.hw.prot with march := some m }
    let asks := fun (m : March) (g h : Hw) =>
      roGet h 0x12054 = BitVec.ofNat 32 (m.bank * 2 ^ 16 + m.row) ∧ h.prot = pass { m with pend := true } ∧ Woken m.bank g h ∧
      (∃ op, (∀ j, bank h j = { bank g j with pend := (bank g j).pend ++ if j = m.bank then [op] else [] }) ∧
        op.own = .march ∧ op.bank = m.bank ∧ op.rows = [(m.row % 2, m.row)] ∧ op.write = decide (m.op % 2 = 1) ∧ op.done = [] ∧
        op.master = some .march ∧ op.raw = true ∧ op.who.charge = false) ∧ SameRegs (0x12054 :: regOvf) g h ∧
      h = { g with ro := h.ro, hwSet := h.hwSet, perf := h.perf, prot := h.prot
                   arr := { g.arr with banks := h.arr.banks, pwr := h.arr.pwr } }
    let zeroed := fun (m : March) (h : Hw) => ∀ b row c, b < 33 → row < 16384 → c < 16 → wordAt h b row c =
      if (b < 32 ∧ bit m.banks b = true) ∨ (b = 32 ∧ ((m.spare = true ∧ row < 64) ∨ ∃ e ∈ s.hw.prot.lrt,
        bankOf e.2.1 e.2.2.1 < 32 ∧ bit m.banks (bankOf e.2.1 e.2.2.1) = true ∧ row / 2 = e.2.2.2)) then 0 else wordAt s.hw b row c
    (banks = 0 → ¬ spare → After .marchRun s (fun h => CmdTook 18 1 3 s.hw h ∧ onlyRegs h)) ∧
    (banks ≠ 0 ∨ spare → pgBusy s.hw 18 = true → After .marchRun s (fun h => bit (roGet h 0x12010) 0 = true ∧
      SameRegs [0x12010] s.hw h ∧ onlyRegs h)) ∧
    (banks ≠ 0 ∨ spare → pgBusy s.hw 18 = false →
      let bad := booting s.hw = true ∨ (spare ∧ (¬ destroy ∨ s.hw.prot.lrt ≠ [])) ∨ ∃ b, b < 32 ∧ bit banks b = true ∧
        (wayMode s.hw (b / 2) = 3 ∨ (setting s.hw (b / 2)).isSome = true ∨ (∃ x, s.hw.prot.dis = some (b / 2, x)) ∨
          (destroy ∧ (wayMode s.hw (b / 2) = 0 ∨ wayRecord s.hw (b / 2) = true ∨ wayQueue s.hw (b / 2) = true)))
      let new := marchNew (decide destroy) false (gavBusy s.hw) banks (decide spare)
      (bad → After .marchRun s (fun h => CmdTook 18 1 5 s.hw h ∧ onlyRegs h)) ∧
      (¬ bad → gavBusy s.hw = true → After .marchRun s (fun h => CmdRuns 18 1 h ∧ SameRegs [0x12020] s.hw h ∧
        h = { s.hw with ro := h.ro, prot := pass new })) ∧
      (¬ bad → gavBusy s.hw = false → destroy → After .marchRun s (fun h => CmdRuns 18 1 h ∧ SameRegs shows s.hw h ∧
        roGet h 0x12048 = 0 ∧ roGet h 0x1204C = 0 ∧ roGet h 0x12050 = 0 ∧ roGet h 0x12054 = BitVec.ofNat 32 (new.bank * 2 ^ 16) ∧
        zeroed new h ∧
        h = { s.hw with
          ro := h.ro, arr := { s.hw.arr with words := h.arr.words }, prot := pass { new with endAt := clkM s.hw + 344064 } })) ∧
      (¬ bad → gavBusy s.hw = false → ¬ destroy → After .marchRun s (fun h => ∃ g, CmdRuns 18 1 g ∧
        roGet g 0x12048 = 0 ∧ roGet g 0x1204C = 0 ∧ roGet g 0x12050 = 0 ∧ SameRegs shows s.hw g ∧ g = { s.hw with ro := g.ro } ∧
        asks { new with op := b2n (mappedRow s.hw new.bank 0) } g h))) ∧
    (s.hw.prot.march = none ∨ pgBusy s.hw 18 = false → After .marchStop s (fun h => CmdTook 18 2 5 s.hw h ∧ onlyRegs h)) ∧
    (s.hw.prot.march = none → (∀ ups, After (.marchRowOp ups) s (fun h => h = s.hw)) ∧ After .marchPassEnd s (fun h => h = s.hw)) ∧
    (∀ m : March, s.hw.prot.march = some m →
      (pgBusy s.hw 18 = true → After .marchStop s (fun h => CmdTook 18 2 0 s.hw h ∧ SameRegs (cmdRegs 18) s.hw h ∧
        h = { s.hw with
          ro := h.ro, hwSet := h.hwSet
          prot := pass { m with stop := true, endAt := if m.stop then m.endAt else min m.endAt (clkM s.hw + 16384) } })) ∧
      (m.wait = true ∨ (m.destroy = true ∧ (12 ≤ m.op ∨ m.stop = true ∨ gavBusy s.hw = true)) ∨
        (m.destroy = false ∧ ∀ op rest, (bank s.hw m.bank).fly = op :: rest → op.own ≠ .march) →
        ∀ ups, After (.marchRowOp ups) s (fun h => h = s.hw)) ∧
      (m.wait = false → m.destroy = true → m.op < 12 → m.stop = false → gavBusy s.hw = false →
        let el := m.op % 6
        let row := if el = 3 ∨ el = 4 then 16383 - m.row else m.row
        let on : March := if m.row + 1 < 16384 then { m with row := m.row + 1 } else { m with row := 0, op := m.op + 1 }
        ∀ ups, After (.marchRowOp ups) s (fun h => ∃ g,
          roGet g 0x12054 = BitVec.ofNat 32 (m.bank * 2 ^ 16 + row) ∧ SameRegs [0x12054] s.hw g ∧
          g = { s.hw with ro := g.ro, prot := pass on } ∧
          h = if el = 0 then g else ups.foldl (fun h up => marchHit s.cfg row up h) g)) ∧
      (∀ ups op rest, m.wait = false → m.destroy = false → (bank s.hw m.bank).fly = op :: rest → op.own = .march →
        let col := (ups.find? (fun u => decide (u.1 = m.bank))).map (·.2)
        let compared := 2 ≤ m.op ∧ m.op ≤ 8 ∧ m.op % 2 = 0
        let m1 : March := match col with
          | some x => if compared ∧ m.failed = false then { m with failed := true, failCol := x % 624 } else m
          | none => m
        let last := m.op = 9 ∨ (m.op = 8 ∧ mappedRow s.hw m.bank m.row = true ∧ m.saved = false)
        let popped := fun (g : Hw) => (∀ j, bank g j = if j = m.bank then { bank s.hw j with fly := rest } else bank s.hw j) ∧
          g = { s.hw with arr := { s.hw.arr with banks := g.arr.banks } }
        (¬ last → After (.marchRowOp ups) s (fun h => ∃ g, popped g ∧
          asks { m1 with op := m.op + 1, saved := m.saved || decide (m.op = 0) } g h)) ∧
        (last → After (.marchRowOp ups) s (fun h => ∃ g, popped g ∧ h = marchRow { m1 with row := m.row + 1 }
          (if m1.failed then marchFail s.cfg false m.bank m.row m1.failCol g else g)))) ∧
      (∀ n, m.row ≤ 16384 →
        (m.stop = false → (if m.row < 16384 then some (m.bank, m.row) else (nextBank m.banks (m.bank + 1)).map (fun b => (b, 0))) = some n →
          asks { m with bank := n.1, row := n.2, op := b2n (mappedRow s.hw n.1 n.2), saved := false, failed := false, failCol := 0 }
            s.hw (marchRow m s.hw)) ∧
        (m.stop = true ∨ (m.row = 16384 ∧ nextBank m.banks (m.bank + 1) = none) →
          marchRow m s.hw = { s.hw with prot := pass { m with op := 10, pend := false } })) ∧
      (let ended := m.boot = false ∧ m.wait = false ∧ (if m.destroy then m.endAt ≤ clkM s.hw ∧ gavBusy s.hw = false else m.op = 10);
        (ended → After .marchPassEnd s (fun h => CmdEnds 18 0 s.hw h ∧ SameRegs (cmdRegs 18) s.hw h ∧
          (m.destroy = false → h.arr = s.hw.arr) ∧ (m.destroy = true → zeroed m h) ∧
          h = { s.hw with
            ro := h.ro, hwSet := h.hwSet, prot := { s.hw.prot with march := none }, arr := { s.hw.arr with words := h.arr.words } })) ∧
        (¬ ended → After .marchPassEnd s (fun h => h = s.hw))))) ∧
  (∀ (c : Cells Word) (g : Hw) (m : March) (row b col : Nat), g.prot.march = some m →
    let has := if b < 32 then bit m.banks b = true else b = 32 ∧ m.spare = true ∧ row < 64
    let key := b * 16384 + row
    (¬ has ∨ key ∈ m.rows → marchHit c row (b, col) g = g) ∧
    (has → ¬ key ∈ m.rows → marchHit c row (b, col) g = marchFail c true b row (col % 624)
      { g with prot := { g.prot with march := some { m with rows := m.rows ++ [key] } } })) ∧
  (∀ (c : Cells Word) (g : Hw) (destroy : Bool) (b row col : Nat), b < 33 → row < 16384 → g.diag.rq.length < 28 →
    (∀ v z, b = 32 → rowPlace g 32 row = some (v, z) → v < 16) →
    let h := marchFail c destroy b row col g
    let w := b / 2
    let set := 2 * (row / 2) + b % 2
    let mapped := lrtSpare g w set
    let moves := [0x110C0 + 4 * w, 0x11098, 0x11010, 0x1107C, 0x11080, 0x13010]
    let own := [0x12010, 0x1204C, 0x12048, 0x12050]
    bit (roGet h 0x12010) 1 = true ∧ roGet h 0x1204C = BitVec.ofNat 32 (min 0xFFFF (fld (roGet g 0x1204C) 15 0 + 1)) ∧
    roGet h 0x12048 = (if b < 32 then setBit (roGet g 0x12048) b true else roGet g 0x12048) ∧
    roGet h 0x12050 = (if bit (roGet g 0x12050) 31 then roGet g 0x12050
      else BitVec.ofNat 32 (2 ^ 31 + b * 2 ^ 25 + row * 2 ^ 11 + col)) ∧
    (b < 32 → mapped.isSome = true → SameRegs own g h ∧ h = { g with ro := h.ro, hwSet := h.hwSet }) ∧
    (b < 32 → mapped = none →
      roGet h (0x110C0 + 4 * w) = BitVec.ofNat 32 (min 255 (fld (roGet g (0x110C0 + 4 * w)) 7 0 + 1)) ∧
      (let src := match placeLines g w set with | k :: _ => (false, lineSrc c g k) | [] => (true, placeSrc w set);
        Reported 2 src.1 src.2 0 h) ∧
      SameRegs (own ++ moves ++ regOvf) g h ∧
      (∀ k n, lrtFree g = some k → spareFree g = some n → Reported 4 true (placeSrc w set) 0 h ∧
        (∀ j, cFind h.prot.lrt j = if j = k then some (w, set, n) else cFind g.prot.lrt j) ∧
        (∀ x v, x < 2 → v < 16 → wordAt h 32 (2 * n + x) v =
          if destroy then 0 else pwEnc (eccDec (wordAt g (place g w set x).1 (place g w set x).2 v)).2)) ∧
      (lrtFree g = none ∨ spareFree g = none → Reported 4 true (placeSrc w set) 2 h ∧ bit (roGet h 0x13010) 1 = true ∧
        h.prot.lrt = g.prot.lrt ∧ h.arr = g.arr)) ∧
    (b = 32 → row < 64 → bit (roGet h 0x13044) (row / 2) = true ∧ bit (roGet h 0x13010) 2 = true ∧
      (rowPlace g 32 row = none → SameRegs ([0x13010, 0x13044] ++ own) g h ∧ h = { g with ro := h.ro, hwSet := h.hwSet }) ∧
      (∀ v z, rowPlace g 32 row = some (v, z) → Reported 4 true (placeSrc v z) 1 h ∧
        ∀ k n, lrtEntry g v z = some k → spareFree (roPut 0x13044 (setBit (roGet g 0x13044) (row / 2) true) g) = some n →
          cFind h.prot.lrt k = some (v, z, n))))

/-! ### Regulation, the log and the fault queue -/

/-- A queued report is applied from the CLK_C cycle after it reached the queue, at most two in one cycle: it joins the entry of its
signature, or takes the lowest free entry with the next SEQ, or is lost to a full log; FREE frees an entry whose COUNT before the
cycle it names, FREE_ALL every valid one, and a report applied in the same cycle makes its entry anew (R320 to R323). FLT.HEAD moves up to
TAIL, before the faults of its cycle (R329). CLR_COUNTERS clears the byte counters and what the cycle still charges (R270), a window
starts with zero charges (R259), and TC0_CFG is taken where its units fit (R268). -/
def Obligations.LogsAndRegulationAct : Prop :=
  ∀ (s : State), running s.hw = true →
    let d := s.hw.diag
    let onlyRegs := fun (p : Nat) (h : Hw) => SameRegs (cmdRegs p) s.hw h ∧ h = { s.hw with ro := h.ro, hwSet := h.hwSet }
    let stays := fun (i : Instr) => After i s (fun h => h = s.hw)
    let cur := fun (i : Nat) => ((cFind d.log i).map (fun e => e.rep.count)).getD 0
    let thisCyc := decide (d.rqCyc = clkC s.hw)
    let num := if thisCyc then d.rqNum else 0
    let late := if thisCyc then d.late else []
    let was := if thisCyc then d.before else []
    let logs := fun (log : Cells LogEnt) (done rest : List Report) (before : Cells Nat) (h : Hw) =>
      h = { s.hw with ro := h.ro, hwSet := h.hwSet, diag := { d with
        log := log, before := before, rq := rest, rqCyc := clkC s.hw, rqNum := num + done.length, late := late ++ done } }
    let kept := fun (i : Nat) => if (cFind was i).isSome then was else cIns was i (cur i)
    let seqUp := fun (h : Hw) => roGet h 0x14044 = BitVec.ofNat 32 (((roGet s.hw 0x14044).toNat + 1) % 2 ^ 32)
    let before := fun (i : Nat) => if thisCyc then (cFind d.before i).getD (cur i) else cur i
    let again := fun (e : LogEnt) => if thisCyc then d.late.filter (fun r => r.sameSig e.rep) else []
    (∀ r rest, d.rq = r :: rest → r.reach < clkC s.hw → num ≤ 1 → num = 1 ∨ (∀ x, rest.head? = some x → clkC s.hw ≤ x.reach) →
      (∀ i e, logFind s.hw r = some (i, e) → After .logApply s (fun h =>
        logs (cIns d.log i { e with rep := e.rep.merge r }) [r] rest (kept i) h ∧ SameRegs [] s.hw h)) ∧
      (∀ i, logFind s.hw r = none → cFree d.log 64 = some i → After .logApply s (fun h =>
        logs (cIns d.log i { rep := r, seq := roGet s.hw 0x14044 }) [r] rest (kept i) h ∧ seqUp h ∧
        bit (roGet h 0x14010) 3 = true ∧ SameRegs [0x14044, 0x14010] s.hw h)) ∧
      (logFind s.hw r = none → cFree d.log 64 = none → After .logApply s (fun h =>
        logs d.log [r] rest was h ∧ roGet h 0x14048 = satAdd (roGet s.hw 0x14048) 1 ∧ bit (roGet h 0x14010) 2 = true ∧ seqUp h ∧
        SameRegs [0x14044, 0x14048, 0x14010] s.hw h))) ∧
    (∀ a b rest, d.rq = a :: b :: rest → a.reach < clkC s.hw → b.reach < clkC s.hw → num = 0 →
      After .logApply s (fun h => logs h.diag.log [a, b] rest h.diag.before h ∧ SameRegs [0x14044, 0x14048, 0x14010] s.hw h ∧
        (∀ i e j f, a.sameSig b = false → cRising 0 d.log = true → logFind s.hw a = some (i, e) → logFind s.hw b = some (j, f) →
          h.diag.log = cIns (cIns d.log i { e with rep := e.rep.merge a }) j { f with rep := f.rep.merge b }) ∧
        (∀ i e, a.sameSig b = true → cRising 0 d.log = true → logFind s.hw a = some (i, e) →
          h.diag.log = cIns d.log i { e with rep := (e.rep.merge a).merge b }))) ∧
    (d.rq = [] ∨ 2 ≤ num ∨ (∃ r rest, d.rq = r :: rest ∧ clkC s.hw ≤ r.reach) → stays .logApply) ∧
    (∀ (i : BitVec 6) (n : BitVec 16),
      let freed := fun (log : Cells LogEnt) (bef : Cells Nat) (h : Hw) =>
        h = { s.hw with ro := h.ro, hwSet := h.hwSet, diag := { d with log := log, before := bef } }
      (∀ e, cFind d.log i.toNat = some e → before i.toNat = n.toNat → n ≠ 0 →
        (again e = [] → After (.logFree i n) s (fun h => CmdTook 20 (i.toNat * 256 + 1) 0 s.hw h ∧ SameRegs (cmdRegs 20) s.hw h ∧
          freed (cDel d.log i.toNat) (cDel d.before i.toNat) h)) ∧
        (∀ r k, again e = [r] → (∀ x ∈ d.log, x.1 ≠ i.toNat → x.2.rep.sameSig r = false) →
          cFree (cDel d.log i.toNat) 64 = some k → After (.logFree i n) s (fun h => CmdTook 20 (i.toNat * 256 + 1) 0 s.hw h ∧
            seqUp h ∧ bit (roGet h 0x14010) 3 = true ∧ SameRegs (0x14044 :: cmdRegs 20) s.hw h ∧
            freed (cIns (cDel d.log i.toNat) k { rep := r, seq := roGet s.hw 0x14044 }) h.diag.before h ∧
            (∀ j, j ≠ i.toNat → j ≠ k → cFind h.diag.before j = cFind d.before j)))) ∧
      (cFind d.log i.toNat = none ∨ before i.toNat ≠ n.toNat ∨ n = 0 →
        After (.logFree i n) s (fun h => CmdTook 20 (i.toNat * 256 + 1) 5 s.hw h ∧ onlyRegs 20 h)) ∧
      (thisCyc = false ∨ d.late = [] →
        let out := fun (j : Nat) => (cFind d.log j).isSome && decide (before j ≠ 0)
        After (.logFreeAll i n) s (fun h => CmdTook 20 (i.toNat * 256 + 2) 0 s.hw h ∧ SameRegs (cmdRegs 20) s.hw h ∧
          (∀ j, cFind h.diag.log j = if out j then none else cFind d.log j) ∧
          (∀ j, cFind h.diag.before j = if out j then none else cFind d.before j) ∧ freed h.diag.log h.diag.before h)) ∧
      (∀ j e r, d.log = [(j, e)] → before j ≠ 0 → again e = [r] → After (.logFreeAll i n) s (fun h =>
        CmdTook 20 (i.toNat * 256 + 2) 0 s.hw h ∧ seqUp h ∧ SameRegs (0x14044 :: cmdRegs 20) s.hw h ∧
        freed [(0, { rep := r, seq := roGet s.hw 0x14044 })] h.diag.before h))) ∧
    (∀ x : BitVec 32,
      let head := fld (roGet s.hw 0x15048) 8 0
      let now_ := d.fltCyc = now s.hw ∧ d.fltNow ≠ []
      let t := fld (roGet s.hw 0x1504C) 8 0
      let tail := if now_ then d.fltTail else t
      let fits := (fld x 8 0 + 512 - head) % 512 ≤ (tail + 512 - head) % 512
      (fits → ¬ now_ → After (.fltHeadWrite x) s (fun h => roGet h 0x15048 = BitVec.ofNat 32 (fld x 8 0) ∧ SameRegs [0x15048] s.hw h ∧
        h = { s.hw with ro := h.ro })) ∧
      (∀ f : FltHit, fits → now_ → d.fltNow = [f] → f.num ≠ 0xFFF →
        let at_ := roPut 0x1504C (BitVec.ofNat 32 d.fltTail) (roPut 0x15048 (BitVec.ofNat 32 (fld x 8 0))
          { s.hw with diag := { d with recs := d.fltWas } })
        let i := d.fltTail % 512 % 256
        let up := (d.fltTail % 512 + 1) % 512
        fltFind at_ f.kind f.atype f.page f.win = none → fltOcc at_ ≠ 256 → d.fltTail < 512 → After (.fltHeadWrite x) s (fun h =>
          roGet h 0x15048 = BitVec.ofNat 32 (fld x 8 0) ∧ roGet h 0x1504C = BitVec.ofNat 32 up ∧
          (∀ k, cFind h.diag.recs k = if k = i then some {
            kind := f.kind, atype := f.atype, page := f.page, win := f.win, multi := false, count := 1, label := f.label
            rid := f.rid } else cFind d.fltWas k) ∧
          h.diag.fltNow = [{ f with num := i }] ∧ h.ports = (if i = f.num then s.hw else fltAnswer f.iseq i s.hw).ports ∧
          (up = t → h.perf = s.hw.perf) ∧ SameRegs ([0x15048, 0x1504C] ++ regOvf) s.hw h ∧
          h = { s.hw with
            ro := h.ro, hwSet := h.hwSet, perf := h.perf, ports := { s.hw.ports with eg := h.ports.eg }
            diag := { d with recs := h.diag.recs, fltNow := h.diag.fltNow } })) ∧
      (¬ fits → After (.fltHeadWrite x) s (fun h => bit (roGet h 0x15010) 1 = true ∧ SameRegs [0x15010] s.hw h ∧
        h = { s.hw with ro := h.ro, hwSet := h.hwSet }))) ∧
    After .clrCounters s (fun h => CmdTook 16 1 0 s.hw h ∧ roGet h 0x10054 = 0 ∧ roGet h 0x1005C = 0 ∧ roGet h 0x10060 = 0 ∧
      SameRegs ([0x10054, 0x1005C, 0x10060] ++ cmdRegs 16) s.hw h ∧
      h = { s.hw with
        ro := h.ro, hwSet := h.hwSet, qos := { s.hw.qos with tcBytes := [], blkBytes := [], clr := some (clkC s.hw) } }) ∧
    (let new := min 16 (max 8 (cf s.cfg 16 0x44 4 0))
      let q := s.hw.qos
      let due := fun (n : Nat) => q.boundary < now s.hw / 2 ^ n * 2 ^ n
      let opens := fun (n : Nat) => After .windowBoundary s (fun h => h = { s.hw with
        qos := { q with charge := [], mchg := [], dem := [], boundary := now s.hw, log2w := n } })
      (due new → opens new) ∧ (¬ due new → due q.log2w → opens q.log2w) ∧ (¬ due new → ¬ due q.log2w → stays .windowBoundary)) ∧
    (∀ x : BitVec 32,
      (fld x 3 0 ≤ 8 → fld x 24 16 * fld x 3 0 ≤ 256 → ∃ c, exec (.tc0CfgWrite x) s = .next { s with cfg := c } ∧
        cfgGet c 0x10040 = (cfgGet s.cfg 0x10040 &&& 0xFE00FFF0) ||| (x &&& 0x1FF000F) ∧
        ∀ o, o ≠ 0x10040 → cfgGet c o = cfgGet s.cfg o) ∧
      (8 < fld x 3 0 ∨ 256 < fld x 24 16 * fld x 3 0 → ∃ h, exec (.tc0CfgWrite x) s = .next { s with hw := h } ∧
        bit (roGet h 0x10010) 2 = true ∧ SameRegs [0x10010] s.hw h ∧ h = { s.hw with ro := h.ro, hwSet := h.hwSet }))

/-! ### Gavotte -/

/-- Gavotte's steps: RECOVER starts a sequence and runs until its end; a hold with nothing finishing and nothing awaited goes on to the
sort, in which every entry is read, 256 CLK_C cycles later to the repair, which asks each timed-out bank once more and resets the VCs of a
crossing error; a bank that stays silent has failed; lost messages and lost entries are treated at the repair's end, and in the replay
every entry that is not committed begins anew or repeats its reads; 256 cycles later the release ends the sequence: what is owed
leaves in intake order, snoops go out again, the holds resume, and a fault met in the release starts the next sequence (R333 to R343,
R345, R351, R352). -/
def Obligations.GavotteRunsItsSteps : Prop :=
  ∀ (s : State), running s.hw = true →
    let g := s.hw.diag.gav
    let tt := s.hw.core.tt
    let stays := fun (i : Instr) => After i s (fun h => h = s.hw)
    let regs := fun (h : Hw) => SameRegs (cmdRegs 22) s.hw h ∧ h = { s.hw with ro := h.ro, hwSet := h.hwSet }
    let goes := fun (g' : Gav) (h : Hw) => h = { s.hw with diag := { s.hw.diag with gav := g' } }
    let spent := clkC s.hw - g.stepCyc / 4
    let lone := fun (i : Nat) (e : Ent) => ent s.hw i = some e ∧ ∀ p ∈ tt, p.1 = i → p.2 = e
    (pgBusy s.hw 22 = true → After .recover s (fun h => bit (roGet h 0x16010) 0 = true ∧ SameRegs [0x16010] s.hw h ∧ regs h)) ∧
    (pgBusy s.hw 22 = false → g.step ≠ .idle → After .recover s (fun h => CmdTook 22 1 5 s.hw h ∧ regs h)) ∧
    (pgBusy s.hw 22 = false → g.step = .idle → g.failed = false → After .recover s (fun h => CmdRuns 22 1 h ∧
      SameRegs (0x16020 :: regOvf) s.hw h ∧ h = { s.hw with
        ro := h.ro, hwSet := h.hwSet, perf := h.perf
        diag := { s.hw.diag with gav := gavBegun s.hw 5 g.xing g.unnamed g.lost } })) ∧
    (∀ d : BitVec 32, After (.gavErrInj d) s (fun h => h = { s.hw with prot := { s.hw.prot with
      injTt := if fld d 1 0 = 0 then s.hw.prot.injTt else fld d 1 0 } })) ∧
    (g.step = .hold → g.failed = false → finishing s.hw = false → gavWaits s.hw = false → After .gavHoldEnd s (fun h =>
      goes { g with step := .sort, stepCyc := now s.hw, lost := h.diag.gav.lost } h ∧
      ∃ l, h.diag.gav.lost = g.lost ++ l ∧ ∀ x, x ∈ l ↔ ∃ a ∈ awaitedAll s.hw, x = (a.tt, a.kind, a.cai) ∧ ¬ x ∈ g.lost ∧
        ((∃ k ∈ g.unnamed, inClass s.cfg s.hw k a = true) ∨ (bit g.cause 1 = true ∧ vpRange s.cfg a.cai = true)))) ∧
    (g.step ≠ .hold ∨ g.failed = true ∨ finishing s.hw = true ∨ gavWaits s.hw = true → stays .gavHoldEnd) ∧
    (g.step = .hold → g.failed = false → cf s.cfg 22 0x40 15 0 ≤ spent → After .gavWaitExpire s (goes { g with waited := true })) ∧
    (g.step ≠ .hold ∨ g.failed = true ∨ spent < cf s.cfg 22 0x40 15 0 → stays .gavWaitExpire) ∧
    (g.step = .sort → g.failed = false → 256 ≤ spent →
      let com := cCount tt (fun _ e => e.committed)
      let asked := fun (b : Nat) => (pwr s.hw b).req && !(pwr s.hw b).dead
      let unread := fun (e : Ent) => !(ttClean e || ttLost e)
      let hits := fun (f : Nat → Bool) (e : Ent) => if unread e then ([e.err1, e.err2, e.perr1, e.perr2].filter f).length else 0
      let ce := hits (fun x => decide (x = 1))
      let ue := hits (fun x => decide (2 ≤ x))
      let lostNow := fun (e : Ent) => (2 ≤ e.err1 ∧ 2 ≤ e.err2) ∨ (2 ≤ e.perr1 ∧ 2 ≤ e.perr2)
      let mark : BitVec 6 := (if ∃ p ∈ tt, ce p.2 ≠ 0 then 4 else 0) ||| (if ∃ p ∈ tt, ue p.2 ≠ 0 then 8 else 0)
      After .gavSortDone s (fun h =>
        roGet h 0x16054 = BitVec.ofNat 32 ((tt.length - com) * 2 ^ 16 + com) ∧
        roGet h 0x16068 = satAdd (roGet s.hw 0x16068) (tt.map (fun p => ce p.2)).sum ∧
        roGet h 0x1606C = satAdd (roGet s.hw 0x1606C) (tt.map (fun p => ue p.2)).sum ∧
        SameRegs ([0x16054, 0x16068, 0x1606C, 0x14010, 0x14048] ++ regOvf) s.hw h ∧
        (∀ i e, lone i e → ent h i = some (if unread e then
          let x := if lostNow e then 3 else 0
          { e with err1 := x, err2 := x, perr1 := 0, perr2 := 0 } else e)) ∧
        (s.hw.diag.rq.length + 2 * tt.length ≤ 32 → ∀ p ∈ tt, (ce p.2 ≠ 0 → Reported 0xE false p.1 0 h) ∧
          (ue p.2 ≠ 0 → ¬ lostNow p.2 → Reported 0xE false p.1 1 h)) ∧
        (mark = 0 → h.core = s.hw.core ∧ h.perf = s.hw.perf ∧ h.diag.rq = s.hw.diag.rq ∧ SameRegs [0x16054] s.hw h) ∧
        (∀ k ∈ g.xing, cFind h.ports.vcrst (k % 16) = some none ∧ bit h.ports.vcrstPins (k % 16) = true) ∧
        (∀ k, g.xing = [k] →
          (∀ j, cGet [] h.ports.eg j = if j = k % 16 then (cGet [] s.hw.ports.eg j).map (fun m => { m with sent := 0 })
            else cGet [] s.hw.ports.eg j) ∧
          (k < 16 → h.ports = { s.hw.ports with
            eg := h.ports.eg, mtags := h.ports.mtags, vcrst := h.ports.vcrst, vcrstPins := h.ports.vcrstPins }) ∧
          (16 ≤ k → cRising 0 s.hw.ports.xin = true → s.hw.ports.cut = [] → h.ports.cut = [] ∧ ∀ j,
            cGet [] h.ports.ing j = cGet [] s.hw.ports.ing j ++ (cGet [] s.hw.ports.xin j).take 4 ∧
            cGet [] h.ports.xin j = (cGet [] s.hw.ports.xin j).drop 4)) ∧
        (g.xing = [] → h.ports = s.hw.ports) ∧
        (∀ b, pwr h b = if b ∈ g.banks ∧ asked b = true then { pwr s.hw b with since := now s.hw } else pwr s.hw b) ∧
        h = { s.hw with
          ro := h.ro, hwSet := h.hwSet, perf := h.perf, core := { s.hw.core with tt := h.core.tt }
          arr := { s.hw.arr with pwr := h.arr.pwr }
          ports := { s.hw.ports with
            xin := h.ports.xin, ing := h.ports.ing, cut := h.ports.cut, eg := h.ports.eg, mtags := h.ports.mtags
            vcrst := h.ports.vcrst, vcrstPins := h.ports.vcrstPins }
          diag := { s.hw.diag with rq := h.diag.rq, gav := { g with
            step := .repair, stepCyc := now s.hw, tried := g.banks.filter asked, cause := g.cause ||| mark } } })) ∧
    (g.step ≠ .sort ∨ spent < 256 → stays .gavSortDone) ∧
    (∀ b,
      let due := g.step = .repair ∧ b ∈ g.tried ∧ b < 32 ∧ (pwr s.hw b).req = true ∧ (pwr s.hw b).dead = false ∧
        (pwr s.hw b).since / 4 + cf s.cfg 7 0x58 15 0 ≤ clkC s.hw
      let lossy := (bank s.hw b).pend.filter (fun op => op.write && (match op.own with
        | .tt i => (match ent s.hw i with | some e => e.wrote | none => false)
        | _ => false))
      let out := wayMode s.hw (b / 2) = 0 ∧ ¬ b / 2 ∈ s.hw.home.locked ∧ (∀ x ∈ s.hw.prot.disWait, x.1 ≠ b / 2) ∧
        (∀ x, s.hw.prot.dis = some x → x.1 ≠ b / 2)
      (due → After (.bankRepairTmo b) s (fun h =>
        roGet h 0x16060 = setBit (roGet s.hw 0x16060) b true ∧ bit (roGet h 0x16010) 3 = true ∧
        roGet h 0x16058 = satAdd (roGet s.hw 0x16058) lossy.length ∧ (lossy ≠ [] → bit (roGet h 0x16010) 2 = true) ∧
        (∀ k, pwr h k = if k = b then { pwr s.hw b with dead := true, req := false, st := .chg, next := none, onAt := none }
          else pwr s.hw k) ∧
        (s.hw.diag.rq.length + 1 + lossy.length ≤ 32 → Reported 0xB false b 1 h ∧
          ∀ op ∈ lossy, Reported 0x10 false (lineSrc s.cfg s.hw op.line) 2 h) ∧
        (out → h.prot.disWait = s.hw.prot.disWait ++ [(b / 2, clkC s.hw)]) ∧ (¬ out → h.prot = s.hw.prot) ∧
        SameRegs ([0x16060, 0x16010, 0x16058, 0x14010, 0x14048] ++ regOvf) s.hw h ∧
        h = { s.hw with
          ro := h.ro, hwSet := h.hwSet, perf := h.perf, arr := { s.hw.arr with pwr := h.arr.pwr }
          diag := { s.hw.diag with rq := h.diag.rq }, prot := { s.hw.prot with disWait := h.prot.disWait } })) ∧
      (¬ due → stays (.bankRepairTmo b))) ∧
    (g.step ≠ .repair ∨ repairsDone s.hw = false → stays .gavRepairDone) ∧
    (g.step = .repair → repairsDone s.hw = true →
      let replays := { g with step := .replay, stepCyc := now s.hw, xing := [], banks := [], tried := [], lost := [], unnamed := [] }
      let frame := fun (h : Hw) => h = { s.hw with
        core := { s.hw.core with tt := h.core.tt, owing := h.core.owing }, arr := { s.hw.arr with banks := h.arr.banks }
        near := { s.hw.near with ready := h.near.ready }, units := h.units, perf := h.perf, ro := h.ro, hwSet := h.hwSet
        ports := { s.hw.ports with eg := h.ports.eg }, home := { s.hw.home with sf := h.home.sf, gaveUp := h.home.gaveUp }
        xp := { s.hw.xp with wait := h.xp.wait }, prot := { s.hw.prot with chk := h.prot.chk }
        diag := { s.hw.diag with rq := h.diag.rq, gav := replays } }
      let alike := fun (h : Hw) => SameRegs regOvf s.hw h ∧ h = { s.hw with
        core := { s.hw.core with tt := h.core.tt }, arr := { s.hw.arr with banks := h.arr.banks }
        near := { s.hw.near with ready := h.near.ready }, units := { s.hw.units with merge := h.units.merge }
        perf := h.perf, ro := h.ro, hwSet := h.hwSet, diag := { s.hw.diag with gav := replays } }
      let none_ := ∀ p ∈ tt, ttLost p.2 = false
      (g.lost = [] → none_ →
        let armed := fun (i : Nat) => tt.any (fun p => decide (p.1 = i) && p.2.active && !p.2.committed && !p.2.wrote)
        let mine := fun (w : Own) => (match w with | .tt i => armed i | _ => false)
        After .gavRepairDone s (fun h => alike h ∧
          (∀ i e, lone i e → (¬ armed i = true → ent h i = some e) ∧
            (armed i = true → restarts e = true →
              let alb := e.todo.head? = some .cell
              ent h i = some { e with
                todo := [.lookup], busy := false, held := unread e, did := [], errs := [], corr := e.corr && alb
                bad := e.bad && alb, code := 0, aux := 0
                aux2 := match e.req.kind with | .evict | .writeBack => e.aux2 | .repair => e.aux2 % 2 | _ => 0 }) ∧
            (armed i = true → restarts e = false →
              let asks := match e.todo.head? with | some (.rd ..) | some (.wr ..) => true | _ => false
              let again := e.req.kind ≠ .victimWb ∧ e.req.kind ≠ .preload ∧ (match e.todo.head? with
                | some (.xwr ..) => e.busy = false | some .respond => e.code = 0 | _ => False)
              ∃ e', ent h i = some e' ∧ e' = { e with todo := e'.todo, did := e'.did, busy := e.busy && !asks, corr := e'.corr, bad := e'.bad } ∧
                (again → e'.todo = e.did ++ e.todo ∧ e'.did = [] ∧ (e.did ≠ [] → e'.corr = false ∧ e'.bad = false) ∧
                  (e.did = [] → e'.corr = e.corr ∧ e'.bad = e.bad)) ∧
                (¬ again → e'.todo = e.todo ∧ e'.did = e.did ∧ e'.corr = e.corr ∧ e'.bad = e.bad))) ∧
          (∀ b, (∀ q ∈ s.hw.arr.banks, q.1 = b → q.2 = bank s.hw b) →
            bank h b = { bank s.hw b with pend := (bank s.hw b).pend.filter (fun op => !(mine op.own)) }) ∧
          (∀ k, (∀ q ∈ s.hw.near.ready, q.1 = k → q.2 = cGet [] s.hw.near.ready k) →
            cGet [] h.near.ready k = (cGet [] s.hw.near.ready k).filter (fun o => !(armed o.tt))) ∧
          h.units.merge = s.hw.units.merge.filter (fun p => !(armed p.2.1)) ∧
          ((∀ p ∈ tt, p.2.committed = true ∨ p.2.wrote = true) → h.perf = s.hw.perf))) ∧
      (∀ i e x, lone i e → none_ → g.lost = [(i, 0, x)] → After .gavRepairDone s (fun h => alike h ∧
        ∃ e', ent h i = some e' ∧ e'.snp = e.snp.map (fun y =>
          if y.cai = x ∧ (y.st = .out ∨ (y.st = .done true ∧ snpDone e = false)) then
            (if y.kind = .inv then { y with st := .again } else { y with st := .again, kind := .recall, lost := true })
          else y))) ∧
      (∀ i e x y, lone i e → none_ → g.lost = [(i, 1, x)] → e.snp.find? (fun z => (z.cai == x) && (z.st == .wb)) = some y →
        After .gavRepairDone s (fun h => frame h ∧
          (∃ e', ent h i = some e' ∧ e'.snp = e.snp.map (fun z => if z = y then { z with st := .done false, gone := true } else z) ∧
            e'.toPoison = e.toPoison ||| 2 ^ y.li) ∧
          (∀ ln, lineOf e y.li = .pa ln → h.home.gaveUp = s.hw.home.gaveUp ++ [(x, ln)]) ∧
          Queued (if viaVp s.cfg s.hw x then .vp else .mp) (vcOf 3 e.req.tc) { iseq := e.req.iseq, hdr := fromSlice s.hw {
            type := 0x38, resp := 2, dkind := 1, dst := x.setWidth 16, tti := BitVec.ofNat 14 i, label := e.req.label
            addr := BitVec.ofNat 52 (lineByte s.cfg s.hw (lineOf e y.li)) } } s.hw h ∧
          roGet h 0x16058 = satAdd (roGet s.hw 0x16058) 1 ∧ bit (roGet h 0x16010) 2 = true ∧
          (s.hw.diag.rq.length < 32 → Reported 0x10 false (lineSrc s.cfg s.hw (lineOf e y.li)) 0 h) ∧
          h.core.owing = s.hw.core.owing ∧ h.home.sf = s.hw.home.sf ∧ h.xp = s.hw.xp ∧ h.prot = s.hw.prot ∧
          h.units = { s.hw.units with merge := h.units.merge } ∧
          SameRegs ([0x16058, 0x16010, 0x14010, 0x14048] ++ regOvf) s.hw h)) ∧
      (∀ i e x, lone i e → none_ → g.lost = [(i, 2, x)] → e.committed = true → After .gavRepairDone s (fun h => alike h ∧
        ent h i = some (if awaitsAck s.hw i x then { e with aux2 := 1 } else e))) ∧
      (∀ i e, g.lost = [] → ent s.hw i = some e → tt.filter (fun p => ttLost p.2) = [(i, e)] → (∀ p ∈ tt, p.1 = i → p.2 = e) →
        let n := e.req.lines.length
        let recalls := fun (li : Nat) => match lineOf e li with
          | .pa _ => (everyCai s.cfg s.hw).map (fun x => ({ cai := x, kind := .recall, st := .again, cyc := now s.hw, li := li } : Snp))
          | .loc _ _ => []
        After .gavRepairDone s (fun h => frame h ∧
          ent h i = some { e with
            req := { e.req with kind := .backInv, port := none, eng := none, pay := [] }, active := true, busy := false
            todo := .snp :: (List.range n).map Act.poison ++ [.commit, .free], err1 := 0, err2 := 0, perr1 := 0, perr2 := 0
            did := [], wrote := false, committed := false, snp := e.snp ++ (List.range n).flatMap recalls } ∧
          (∀ li ln k x, li < n → lineOf e li = .pa ln → sfFind s.hw ln = some (k, x) → sfAt h (Machine.setOf ln) k = SfEnt.free_) ∧
          bit (roGet h 0x16010) 2 = true ∧ roGet h 0x16058 = satAdd (roGet s.hw 0x16058) n ∧
          (s.hw.diag.rq.length + 1 + n ≤ 32 → Reported 0xE false i 2 h ∧
            ∀ li, li < n → Reported 0x10 false (lineSrc s.cfg s.hw (lineOf e li)) 1 h) ∧
          h.ports = s.hw.ports ∧ h.home.gaveUp = s.hw.home.gaveUp ∧
          h.core.owing = s.hw.core.owing.filter (fun x => decide (x.1 ≠ e.req.iseq)) ∧
          h.xp.wait = s.hw.xp.wait.filter (fun w => decide (w.1 ≠ i)) ∧
          (∀ q, e.req.kind = .queCmd q → h.units.queEnd = some 5) ∧ (∀ q, e.req.kind = .selCmd q → h.units.selEnd = some 5) ∧
          (e.req.kind = .chkWrite ∨ e.req.kind = .chkRead → h.units.chkEnd = true ∧ h.prot.chk = none) ∧
          (e.req.kind = .lrtMap ∨ e.req.kind = .lrtUnmap → h.units.lrtEnd = some 5) ∧
          ((∃ q, e.req.kind = .maint q) ∨ e.req.kind = .preload ∨ e.req.kind = .flush → h.units.mntFly = s.hw.units.mntFly - 1) ∧
          SameRegs ([0x16058, 0x16010, 0x14010, 0x14048, 0x1904C] ++ regOvf) s.hw h))) ∧
    (g.step = .replay → 256 ≤ spent → After .gavReplayDone s (goes { g with step := .release, stepCyc := now s.hw })) ∧
    (g.step ≠ .replay ∨ spent < 256 → stays .gavReplayDone) ∧
    (g.step ≠ .release ∨ spent < 1 → stays .gavRelease) ∧
    (g.step = .release → 1 ≤ spent →
      let late := clkM s.hw - g.start / 2
      let resend := fun (k : Nat) => (s.hw.vp.unsent.filter (fun p => decide (16 + p.1 = k))).map (fun p => { p.2 with sent := 0, note := .none })
      let released := fun (g' : Gav) (h : Hw) =>
        roGet h 0x1604C = BitVec.ofNat 32 (((roGet s.hw 0x1604C).toNat + 1) % 2 ^ 32) ∧
        roGet h 0x16050 = BitVec.ofNat 32 (clkC s.hw - g.start / 4) ∧ bit (roGet h 0x16010) 1 = true ∧
        (pgBusy s.hw 22 = true → CmdEnds 22 0 s.hw h) ∧
        (∀ k, ((cGet [] h.ports.eg k).filter (fun m => decide (m.sent = 0))).Pairwise (fun a b => a.iseq ≤ b.iseq)) ∧
        h = { s.hw with
          ro := h.ro, hwSet := h.hwSet, perf := h.perf, core := { s.hw.core with tt := h.core.tt }
          near := { s.hw.near with jig := s.hw.near.jig.map (fun p => (p.1, { p.2 with expire := p.2.expire + late })) }
          rst := { s.hw.rst with setRun := s.hw.rst.setRun.map (fun r =>
            match r.step with | .fill t => { r with step := .fill (t + late) } | _ => r) }
          prot := { s.hw.prot with march := s.hw.prot.march.map (fun m => { m with endAt := if m.destroy then m.endAt + late else 0 }) }
          ports := { s.hw.ports with eg := h.ports.eg }, vp := { s.hw.vp with unsent := [] }
          glp := { s.hw.glp with late := [] }, reel := { s.hw.reel with late := [] }
          diag := { s.hw.diag with gav := g' } }
      let ends := { g with step := .idle, next := 0 }
      let still := ∀ p ∈ tt, ∀ x ∈ p.2.snp, x.st ≠ .again
      let plain := fun (h : Hw) => released ends h ∧ SameRegs ([0x1604C, 0x16050] ++ cmdRegs 22) s.hw h ∧ h.perf = s.hw.perf ∧
        h.core = s.hw.core
      let held := ∃ m, s.hw.prot.march = some m ∧ m.wait = true
      let nothing := s.hw.glp.late = [] ∧ s.hw.reel.late = []
      (nothing → ¬ held → g.next = 0 → still → After .gavRelease s (fun h => plain h ∧
        (s.hw.home.fenced = [] → ∀ k, (cGet [] h.ports.eg k).Perm (resend k ++ cGet [] s.hw.ports.eg k)))) ∧
      (∀ i e y, nothing → ¬ held → g.next = 0 → s.hw.home.fenced = [] → lone i e → (∀ p ∈ tt, p.1 ≠ i → ∀ x ∈ p.2.snp, x.st ≠ .again) →
        e.snp.filter (fun z => z.st == .again) = [y] → After .gavRelease s (fun h => released ends h ∧ OtherEnts i s.hw h ∧
          ent h i = some { e with snp := e.snp.map (fun z => if z = y then { z with st := .out, cyc := now s.hw } else z) } ∧
          { hdr := { snpHdr s.cfg s.hw i e y.li y.kind with dkind := 1, dst := y.cai.setWidth 16 }, iseq := e.req.iseq } ∈
            cGet [] h.ports.eg (portKey (if viaVp s.cfg s.hw y.cai then .vp else .mp) (vcOf 1 e.req.tc)))) ∧
      (∀ x, ¬ held → g.next = 0 → still → s.hw.glp.late = [x] → s.hw.reel.late = [] → After .gavRelease s (fun h =>
        ∃ a, plain a ∧ h = engResult x.1 x.2.1 x.2.2 a)) ∧
      (∀ x, ¬ held → g.next = 0 → still → s.hw.glp.late = [] → s.hw.reel.late = [x] → After .gavRelease s (fun h =>
        ∃ a, plain a ∧ h = reelReport s.cfg x.1 x.2.1 x.2.2.1 x.2.2.2 a)) ∧
      (∀ m, nothing → s.hw.prot.march = some m → m.wait = true → g.next = 0 → still → After .gavRelease s (fun h => ∃ a, plain a ∧
        h = if m.stop then cmdEnds 18 0 { a with prot := { a.prot with march := none } }
          else marchStart m.destroy m.boot m.banks m.spare a)) ∧
      (nothing → ¬ held → g.next ≠ 0 → g.failed = false → still → After .gavRelease s (fun h =>
        released { gavBegun s.hw 0 g.xing g.unnamed g.lost with cause := g.next } h ∧ h.core = s.hw.core ∧
        SameRegs ([0x1604C, 0x16050] ++ cmdRegs 22 ++ regOvf) s.hw h)))

/-! ### The Vertical Port -/

/-- Runs and losses of the link: RETRAIN starts a run from DISABLED or DOWN and drops a link that is UP into one, and is STATE in
training; DISABLE stops the port; each loss of link, from UP, is counted, flagged and logged with its class, is a cause of Gavotte, and
starts a run. Of two losses in one CLK_P cycle the lower class counts, and a loss in the CLK_C cycle of RETRAIN or DISABLE comes before
the command (R397, R403 to R405). -/
def Obligations.LinkRunsAndLosses : Prop :=
  ∀ (s : State), running s.hw = true →
    let v := s.hw.vp
    let g := s.hw.diag.gav
    let t := now s.hw
    let frame := fun (h : Hw) => h = { s.hw with
      ro := h.ro, hwSet := h.hwSet, perf := h.perf, vp := h.vp
      ports := { s.hw.ports with eg := h.ports.eg }, diag := { s.hw.diag with rq := h.diag.rq, gav := h.diag.gav } }
    let whole := fun (h : Hw) => ∀ k, cGet [] h.ports.eg k =
      if 16 ≤ k ∧ k < 26 then (cGet [] s.hw.ports.eg k).map (fun m => { m with sent := 0 }) else cGet [] s.hw.ports.eg k
    let runs := fun (x : Vp) => { x with
        state := .training, gen := x.gen + 1, attempt := 1, phase := .a, phaseCyc := t, attCyc := t, runMax := 3
        gotRepair := [], gotProp := none, gotConfirm := none, gotCyc := 0, resend := [], nakDue := false }
    let offs := fun (x : Vp) => { x with
        state := .disabled, unsent := x.unsent ++ x.replay.flatMap (·.notes), replay := [], resend := [], txCtl := 0, txSlots := []
        txCyc := 0 }
    let loses := fun (cls code : Nat) => ({ v with lossAt := some { cyc := t, cls := cls, src := v.gen.toNat, code := code } } : Vp)
    let runUp := fun (h : Hw) => roGet h 0x306C = BitVec.ofNat 32 (((roGet s.hw 0x306C).toNat + 1) % 2 ^ 32)
    let lost := fun (cls : Nat) (h : Hw) => roGet h 0x305C = satAdd (roGet s.hw 0x305C) 1 ∧ bit (roGet h 0x3010) 1 = true ∧
      (s.hw.diag.rq.length < 32 → Reported 0xD false v.gen.toNat cls h) ∧
      (g.failed = false → (g.step = .idle → h.diag.gav = gavBegun s.hw 1 g.xing g.unnamed g.lost) ∧
        (g.step = .hold ∨ g.step = .sort → h.diag.gav = { g with cause := setBit g.cause 1 true }) ∧
        (g.step = .release → h.diag.gav = { g with next := setBit g.next 1 true })) ∧
      (g.failed = true → h.diag.gav = g) ∧ whole h ∧ frame h
    let lossRegs := [0x305C, 0x3010, 0x14010, 0x14048, 0x16010] ++ regOvf
    let stays := fun (i : Instr) => After i s (fun h => h = s.hw)
    let often := v.replay.any (fun f => decide (max 1 (cf s.cfg 3 0x44 11 8) ≤ f.replays))
    let late := match v.replay.head? with | some f => decide (f.cyc + cf s.cfg 3 0x44 23 12 ≤ t) | none => false
    let due : Option Nat := if often then some 0 else if late then some 2 else none
    let runOff := fun (h : Hw) => whole h ∧ frame h ∧ h.diag = s.hw.diag
    (v.state = .training → After .vpRetrain s (fun h => CmdTook 3 1 5 s.hw h ∧ SameRegs (cmdRegs 3) s.hw h ∧
      h = { s.hw with ro := h.ro, hwSet := h.hwSet })) ∧
    (v.state = .disabled ∨ v.state = .down → After .vpRetrain s (fun h => CmdTook 3 1 0 s.hw h ∧ h.vp = runs v ∧ runUp h ∧ runOff h ∧
      SameRegs (0x306C :: cmdRegs 3) s.hw h)) ∧
    (v.state = .up → due = none → After .vpRetrain s (fun h => CmdTook 3 1 0 s.hw h ∧ h.vp = runs (loses 4 1) ∧ runUp h ∧ lost 4 h ∧
      SameRegs ([0x3020, 0x3064, 0x306C] ++ lossRegs) s.hw h)) ∧
    (∀ k, v.state = .up → due = some k → After .vpRetrain s (fun h => CmdTook 3 1 5 s.hw h ∧ h.vp = runs (loses k 0) ∧ runUp h ∧
      lost k h ∧ SameRegs ([0x3020, 0x3064, 0x306C] ++ lossRegs) s.hw h)) ∧
    (v.state = .disabled → After .vpDisable s (fun h => CmdTook 3 2 5 s.hw h ∧ SameRegs (cmdRegs 3) s.hw h ∧
      h = { s.hw with ro := h.ro, hwSet := h.hwSet })) ∧
    (v.state = .training ∨ v.state = .down → After .vpDisable s (fun h => CmdTook 3 2 0 s.hw h ∧ h.vp = offs v ∧ runOff h ∧
      SameRegs (cmdRegs 3) s.hw h)) ∧
    (v.state = .up → due = none → After .vpDisable s (fun h => CmdTook 3 2 0 s.hw h ∧ h.vp = offs (loses 4 2) ∧ lost 4 h ∧
      SameRegs ([0x3020, 0x3064] ++ lossRegs) s.hw h)) ∧
    (∀ k, v.state = .up → due = some k → After .vpDisable s (fun h => CmdTook 3 2 0 s.hw h ∧ h.vp = offs (runs (loses k 0)) ∧ runUp h ∧
      lost k h ∧ SameRegs ([0x3020, 0x3064, 0x306C] ++ lossRegs) s.hw h)) ∧
    (v.state = .up →
      let goes := fun (i : Instr) (k : Nat) => After i s (fun h => h.vp = runs (loses k 0) ∧ runUp h ∧ lost k h ∧
        SameRegs (0x306C :: lossRegs) s.hw h)
      (often = true → goes .vpReplayLimit 0) ∧ goes .vpClockLoss (if often then 0 else 1) ∧
      (late = true → goes .vpAckTmo (if often then 0 else 2)) ∧
      goes .vpMarkerLoss (if often then 0 else if late then 2 else 3)) ∧
    (often = false → stays .vpReplayLimit) ∧ (late = false → stays .vpAckTmo) ∧
    (v.state ≠ .up → v.lossAt = none →
      stays .vpReplayLimit ∧ stays .vpClockLoss ∧ stays .vpAckTmo ∧ stays .vpMarkerLoss) ∧
    (∀ l, v.state ≠ .up → v.lossAt = some l → ∀ (i : Instr) (cls : Nat),
      (i = .vpReplayLimit ∧ cls = 0 ∧ often = true) ∨ (i = .vpClockLoss ∧ cls = 1) ∨ (i = .vpAckTmo ∧ cls = 2 ∧ late = true) ∨
        (i = .vpMarkerLoss ∧ cls = 3) →
      let mine := fun (r : Report) => r.kind = 0xD ∧ r.src = l.src ∧ r.cls = l.cls ∧ r.reach = clkC s.hw
      let counts := fun (h : Hw) => (∀ r, s.hw.diag.rq = [r] → mine r → h.diag.rq = [{ r with cls := cls }]) ∧
        ((∀ r ∈ s.hw.diag.rq, ¬ mine r) → h.diag.rq = s.hw.diag.rq) ∧ frame h ∧ h.diag.gav = g
      let w := { v with lossAt := some { l with cls := cls } }
      let first := l.cls = 4 ∧ l.cyc / 4 = clkC s.hw
      (first → l.code = 1 → After i s (fun h => CmdTook 3 1 5 s.hw h ∧ h.vp = w ∧ counts h ∧ h.ports = s.hw.ports ∧
        SameRegs (cmdRegs 3) s.hw h)) ∧
      (first → l.code ≠ 1 → After i s (fun h => h.vp = offs (runs w) ∧ runUp h ∧ whole h ∧ counts h ∧ SameRegs [0x306C] s.hw h)) ∧
      (¬ first → l.cyc = t → cls < l.cls → After i s (fun h => h.vp = w ∧ counts h ∧ h.ports = s.hw.ports ∧ SameRegs [] s.hw h)) ∧
      (¬ first → l.cyc ≠ t ∨ l.cls ≤ cls → stays i))

/-- Frames: control bits [16b+15:16b] come in beat b, and data bit W * b + j on active wire j, a repaired wire's on its spare. One that
fails its CRC is counted and answered NAK; of every good one the acknowledgement empties the replay buffer up to its frame, and a NAK asks
for all that is kept; the next one in order delivers its flits to their ingress buffers, but for the rest of a message cut short, and its
credits. The port sends a replayed frame first, an empty one with the last SEQ while the replay buffer is full, else a new one, kept for
replay, with up to 15 credits for each VC and the flits that may leave (R388, R390 to R395). -/
def Obligations.FramesAreTakenAndSent : Prop :=
  (∀ (v : Vp) (beats : List (BitVec 579)),
    let wire := fun (b g i : Nat) =>
      let x := beats.getD b 0
      let r := cGet 0 v.repair g
      let first := (groupWires g).1
      let n := (groupWires g).2
      if spareFor r 1 = some i then bit x (first + n + 1) else if spareFor r 0 = some i then bit x (first + n) else bit x (first + i)
    (∀ b i, b < 8 → i < 16 → bit (rxCtl v beats) (16 * b + i) = wire b 16 i) ∧
    (∀ b j, b < 8 → ones v.gmaskRx.toNat 16 = 4 * (v.width % 4 + 1) → j < 128 * (v.width % 4 + 1) →
      let k := 128 * (v.width % 4 + 1) * b + j
      bit ((rxSlots v beats).getD (k / 512) 0) (k % 512) = wire b ((activeGroups v.gmaskRx).getD (j / 32) 0) (j % 32)) ∧
    (rxSlots v beats).length = 2 * (v.width % 4 + 1)) ∧
  (∀ (f : Frame) (ack : Option Nat) (nak : Bool), f.seq < 1024 → (∀ a, ack = some a → a < 1024) → f.crd.length ≤ 10 →
    (∀ n ∈ f.crd, n < 16) → f.slots.length ≤ 8 → (∀ p ∈ f.slots, p.1 < 16) →
    let x := frameCtl f ack nak
    fld x 57 48 = f.seq ∧ fld x 67 58 = ack.getD 0 ∧ bit x 68 = ack.isSome ∧ bit x 69 = nak ∧ fld x 127 110 = 0 ∧
    (∀ c, c < 10 → fld x (73 + 4 * c) (70 + 4 * c) = f.crd.getD c 0) ∧
    (∀ j, j < 8 → fld x (6 * j + 5) (6 * j) = match f.slots[j]? with
      | some (vc, fl) => 1 + (if fl.hdr then 2 else 0) + 4 * vc
      | none => 0)) ∧
  (∀ (s : State) (ctl : List (BitVec 18)) (data : List (BitVec 544)), running s.hw = true →
    let v := s.hw.vp
    let beats := ctl.zipWith rxWires data
    let c := rxCtl v beats
    let slots := rxSlots v beats
    let good := frameCrc c slots = fld c 127 112
    let num := 2 * (v.width % 4 + 1)
    let code := fun (j : Nat) => fld c (6 * j + 5) (6 * j)
    let next := match v.rxSeq with | some n => (n + 1) % 1024 | none => 0
    let upTo := if bit c 68 then v.replay.findIdx? (fun f => decide (f.seq = fld c 67 58)) else none
    let acked : Vp := match upTo with
      | none => v
      | some k => { v with
        replay := v.replay.drop (k + 1), resend := v.resend.filter (fun n => (v.replay.take (k + 1)).all (fun x => decide (x.seq ≠ n))) }
    let told := if bit c 69 = true ∧ acked.resend = [] then { acked with resend := acked.replay.map (·.seq) } else acked
    let arrive := fun (k : Nat) =>
      let l := ((List.range num).filter (fun j => decide (code j % 2 = 1 ∧ 16 + code j / 4 = k))).map (fun j =>
        ({ hdr := decide (code j / 2 % 2 = 1), bits := slots.getD j 0, at_ := now s.hw } : Flit))
      if k ∈ s.hw.ports.cut then (l.takeWhile (fun f => !f.hdr), l.dropWhile (fun f => !f.hdr)) else ([], l)
    (v.state ≠ .up → After (.vpFrameIn ctl data) s (fun h => h = s.hw)) ∧
    (v.state = .up → ¬ good → After (.vpFrameIn ctl data) s (fun h => h.vp = { v with nakDue := true } ∧
      roGet h 0x3068 = satAdd (roGet s.hw 0x3068) 1 ∧ SameRegs [0x3068] s.hw h ∧ h = { s.hw with vp := h.vp, ro := h.ro })) ∧
    (v.state = .up → good → fld c 57 48 ≠ next → After (.vpFrameIn ctl data) s (fun h => h = { s.hw with vp := told })) ∧
    (v.state = .up → good → fld c 57 48 = next → After (.vpFrameIn ctl data) s (fun h =>
      h.vp = { told with rxSeq := some next, nakDue := false } ∧
      (∀ k, cGet 0 h.ports.crd k = cGet 0 s.hw.ports.crd k +
        if 16 ≤ k ∧ k < 26 then fld c (73 + 4 * (k - 16)) (70 + 4 * (k - 16)) else 0) ∧
      (∀ k, cGet [] h.ports.ing k = cGet [] s.hw.ports.ing k ++ if 16 ≤ k ∧ k < 26 then (arrive k).2 else []) ∧
      (∀ k, cGet 0 h.ports.owed k = cGet 0 s.hw.ports.owed k + if 16 ≤ k ∧ k < 26 then (arrive k).1.length else 0) ∧
      h.ports.cut = s.hw.ports.cut.filter (fun k => !(decide (16 ≤ k ∧ k < 26) && !(arrive k).2.isEmpty)) ∧
      SameRegs regOvf s.hw h ∧ ((∀ j, j < num → code j % 2 = 0) → h.perf = s.hw.perf) ∧
      h = { s.hw with
        vp := h.vp, perf := h.perf, ro := h.ro, hwSet := h.hwSet
        ports := { s.hw.ports with ing := h.ports.ing, crd := h.ports.crd, owed := h.ports.owed, cut := h.ports.cut } }))) ∧
  (∀ (s : State), running s.hw = true →
    let v := s.hw.vp
    let may := v.state = .up ∧ (v.txCyc = 0 ∨ v.txCyc + 4 ≤ now s.hw)
    let pays := fun (old : List Nat) (c : Nat) =>
      if c < 2 ∧ gavBusy s.hw = true then 0 else min (15 - old.getD c 0) (cGet 0 s.hw.ports.owed (16 + c))
    let crdOf := fun (old : List Nat) => (List.range 10).map (fun c => old.getD c 0 + pays old c)
    let paid_ := fun (old : List Nat) (h : Hw) => ∀ k, cGet 0 h.ports.owed k =
      cGet 0 s.hw.ports.owed k - if 16 ≤ k ∧ k < 26 then pays old (k - 16) else 0
    let driven := fun (f : Frame) (x : Vp) =>
      let w := frameCtl f x.rxSeq x.nakDue
      let d := (List.range (2 * (x.width % 4 + 1))).map (fun j => ((f.slots[j]?).map (fun p => p.2.bits)).getD 0)
      ({ x with
        txCtl := w + BitVec.ofNat 128 (frameCrc w d <<< 112), txSlots := (d.zipIdx).map (fun p => (p.2, p.1)), txCyc := now s.hw } : Vp)
    (¬ may → After .vpFrameOut s (fun h => h = s.hw)) ∧
    (∀ n rest f, may → v.resend = n :: rest → v.replay.find? (fun f => decide (f.seq = n)) = some f →
      let f' : Frame := { f with crd := crdOf f.crd, replays := f.replays + 1 }
      After .vpFrameOut s (fun h =>
        h.vp = driven f' { v with resend := rest, replay := v.replay.map (fun x => if x.seq = f.seq then f' else x) } ∧
        paid_ f.crd h ∧ roGet h 0x3060 = satAdd (roGet s.hw 0x3060) 1 ∧ SameRegs (0x3060 :: regOvf) s.hw h ∧
        h = { s.hw with
          vp := h.vp, perf := h.perf, ro := h.ro, hwSet := h.hwSet, ports := { s.hw.ports with owed := h.ports.owed } })) ∧
    (∀ n rest, may → v.resend = n :: rest → v.replay.find? (fun f => decide (f.seq = n)) = none →
      After .vpFrameOut s (fun h => h = { s.hw with vp := { v with resend := rest } })) ∧
    (may → v.resend = [] → 64 ≤ v.replay.length → After .vpFrameOut s (fun h =>
      h.vp = driven { seq := (v.txSeq + 1023) % 1024, crd := crdOf [], slots := [], notes := [], cyc := now s.hw, replays := 0 } v ∧
      paid_ [] h ∧ h = { s.hw with vp := h.vp, ports := { s.hw.ports with owed := h.ports.owed } })) ∧
    (may → v.resend = [] → v.replay.length < 64 → After .vpFrameOut s (fun h => ∃ f : Frame,
      h.vp = driven f { v with txSeq := (v.txSeq + 1) % 1024, replay := v.replay ++ [f] } ∧ f.seq = v.txSeq ∧ f.crd = crdOf [] ∧
      f.cyc = now s.hw ∧ f.replays = 0 ∧ f.slots.length ≤ 2 * (v.width % 4 + 1) ∧ paid_ [] h ∧
      (pickVc s.cfg s.hw .vp false = none → f.slots = [] ∧ f.notes = [] ∧
        h = { s.hw with vp := h.vp, ports := { s.hw.ports with owed := h.ports.owed } }) ∧
      (∀ vc m, pickVc s.cfg s.hw .vp false = some (vc, m) → f.slots.head? =
        some (vc, { hdr := decide (m.sent = 0), bits := (msgFlits m).getD m.sent 0, at_ := now s.hw })) ∧
      h.cyc = s.hw.cyc ∧ h.qos = s.hw.qos ∧ h.path = s.hw.path ∧ h.ports.ing = s.hw.ports.ing ∧ h.arr = s.hw.arr ∧
      h.home.mode = s.hw.home.mode)))

/-- Training: phase A lasts 256 CLK_P cycles; the wire test of phase B repairs two wires of a group with good spares and fails a group
with more; phase C ends with the partner's 17 repair entries; in phase D the two proposals agree, or the run goes on with the narrower
width and a new generation, and ends in DOWN after its third attempt; at the end of phase E the link is UP with sequence numbers and
credits anew. The lowest-numbered good copy of a word counts, and an attempt whose partner is missing for 8,192 cycles ends. The port
drives every wire 0 in DISABLED, its forwarded clocks else, the marker in phase A, the PRBS-15 of each wire in phase B, and then its
REPAIR, PROP and CONFIRM words (R387, R394, R396 to R402). -/
def Obligations.TrainingRunsItsPhases : Prop :=
  (∀ (s : State) (bad : List Nat) (beats : List (BitVec 579)), running s.hw = true →
    let v := s.hw.vp
    let t := now s.hw
    let onlyVp := fun (v' : Vp) (h : Hw) => h = { s.hw with vp := v' }
    let down := fun (cls : Nat) (v' : Vp) (h : Hw) => h.vp = { v' with
        state := .down, unsent := v'.unsent ++ v'.replay.flatMap (·.notes), replay := [], resend := [], txCtl := 0, txSlots := []
        txCyc := 0 } ∧
      bit (roGet h 0x3010) 2 = true ∧ (s.hw.diag.rq.length < 32 → Reported 0xD false v'.gen.toNat cls h) ∧
      (∀ k, cGet [] h.ports.eg k = if 16 ≤ k ∧ k < 26 then (cGet [] s.hw.ports.eg k).map (fun m => { m with sent := 0 })
        else cGet [] s.hw.ports.eg k) ∧
      SameRegs ([0x3010, 0x14048, 0x14010] ++ regOvf) s.hw h ∧
      h = { s.hw with
        vp := h.vp, ro := h.ro, hwSet := h.hwSet, perf := h.perf, ports := { s.hw.ports with eg := h.ports.eg }
        diag := { s.hw.diag with rq := h.diag.rq } }
    let again := fun (v' : Vp) => { v' with
      attempt := v'.attempt + 1, phase := .c, phaseCyc := t, attCyc := t, gotRepair := [], gotProp := none, gotConfirm := none }
    let stays := fun (i : Instr) => After i s (fun h => h = s.hw)
    let ends := fun (P : Hw → Prop) => After (.trainPhaseEnd bad) s P
    (v.state ≠ .training → stays (.trainPhaseEnd bad) ∧ stays (.trainWordRx beats) ∧ stays .trainAttemptTmo) ∧
    (v.state = .training →
      ((v.phase = .a ∧ t < v.phaseCyc + 256) ∨ (v.phase = .b ∧ t < v.phaseCyc + 4096) ∨
        (v.phase = .c ∧ (v.gotRepair.length < 17 ∨ t < v.gotCyc + 128)) ∨ (v.phase = .d ∧ (v.gotProp = none ∨ t < v.gotCyc + 128)) ∨
        (v.phase = .e ∧ (v.gotConfirm = none ∨ t < v.gotCyc + 64)) → stays (.trainPhaseEnd bad)) ∧
      (v.phase = .a → v.phaseCyc + 256 ≤ t → ends (onlyVp { v with phase := .b, phaseCyc := t })) ∧
      (v.phase = .b → v.phaseCyc + 4096 ≤ t → ends (fun h =>
        (∀ g, g < 17 → bit h.vp.failed g = (testGroup bad g).2.2) ∧
        (∀ k, cGet 0 h.vp.repair k = if k < 17 then repairWord k (testGroup bad k) else cGet 0 v.repair k) ∧
        ((∃ g, g < 17 ∧ ((testGroup bad g).1.isSome = true ∨ (testGroup bad g).2.1.isSome = true)) → bit (roGet h 0x3010) 3 = true) ∧
        ((∀ g, g < 17 → (testGroup bad g).1 = none ∧ (testGroup bad g).2.1 = none) → h.ro = s.hw.ro) ∧
        SameRegs [0x3010] s.hw h ∧
        h = { s.hw with
          ro := h.ro, hwSet := h.hwSet, vp := { v with phase := .c, phaseCyc := t, failed := h.vp.failed, repair := h.vp.repair } })) ∧
      (v.phase = .c → 17 ≤ v.gotRepair.length → v.gotCyc + 128 ≤ t → ends (onlyVp { v with phase := .d, phaseCyc := t })) ∧
      (∀ w, v.phase = .d → v.gotProp = some w → v.gotCyc + 128 ≤ t →
        let pw := fld w 5 4
        let pm : BitVec 16 := w.extractLsb' 16 16
        let pg : BitVec 8 := w.extractLsb' 8 8
        let newGen := BitVec.ofNat 8 (max v.gen.toNat pg.toNat + 1)
        (∀ gm, propose s.cfg v = some (pw, gm) → v.gen = pg → ones pm.toNat 16 = 4 * (pw + 1) →
          ends (onlyVp { v with phase := .e, phaseCyc := t, width := pw, gmaskTx := pm, gmaskRx := gm })) ∧
        (∀ x gm, propose s.cfg v = some (x, gm) → x ≠ pw ∨ v.gen ≠ pg ∨ ones pm.toNat 16 ≠ 4 * (pw + 1) →
          let v' : Vp := { v with runMax := min v.runMax (min x pw), gen := newGen }
          (v.attempt < 3 → ends (onlyVp (again v'))) ∧ (3 ≤ v.attempt → ends (down (if pm = 0 then 6 else 5) v'))) ∧
        (propose s.cfg v = none →
          let v' : Vp := { v with runMax := 0, gen := newGen }
          (v.attempt < 3 → ends (onlyVp (again v'))) ∧ (3 ≤ v.attempt → ends (down 6 v')))) ∧
      (v.phase = .e → v.gotConfirm.isSome = true → v.gotCyc + 64 ≤ t →
        let w := v.gotProp.getD 0
        let had : Option Nat := if bit w 42 then v.replay.findIdx? (fun f => decide (f.seq = fld w 41 32)) else none
        let open_ := fun (k : Nat) => (openFlits (cGet [] s.hw.ports.ing k)).length
        let kept := fun (k : Nat) => (cGet [] s.hw.ports.ing k).take ((cGet [] s.hw.ports.ing k).length - open_ k)
        ends (fun h =>
          h.vp = { v with
            state := .up, txSeq := 0, rxSeq := none, nakDue := false, txCyc := 0, replay := [], resend := []
            unsent := v.unsent ++ ((match had with | some k => v.replay.drop (k + 1) | none => v.replay : List Frame)).flatMap (·.notes) } ∧
          (∀ k, 16 ≤ k → k < 26 → cGet 0 h.ports.crd k = 0 ∧ cGet [] h.ports.ing k = kept k ∧
            cGet 0 h.ports.owed k = 32 - (kept k).length ∧ (k ∈ h.ports.cut ↔ open_ k ≠ 0)) ∧
          (∀ k, k < 16 ∨ 26 ≤ k → cGet [] h.ports.ing k = cGet [] s.hw.ports.ing k ∧ cGet 0 h.ports.crd k = cGet 0 s.hw.ports.crd k ∧
            cGet 0 h.ports.owed k = cGet 0 s.hw.ports.owed k ∧ (k ∈ h.ports.cut ↔ k ∈ s.hw.ports.cut)) ∧
          (v.width < cf s.cfg 3 0x44 1 0 → bit (roGet h 0x3010) 4 = true) ∧ (cf s.cfg 3 0x44 1 0 ≤ v.width → h.ro = s.hw.ro) ∧
          SameRegs [0x3010] s.hw h ∧
          h = { s.hw with
            vp := h.vp, ro := h.ro, hwSet := h.hwSet
            ports := { s.hw.ports with ing := h.ports.ing, crd := h.ports.crd, owed := h.ports.owed, cut := h.ports.cut } })) ∧
      (goodCopy (rxCopies v beats) = none ∨ v.phase = .a ∨ v.phase = .b → stays (.trainWordRx beats)) ∧
      (∀ w, goodCopy (rxCopies v beats) = some w →
        (v.phase = .c → fld w 3 0 ≠ 2 ∨ 17 ≤ fld w 8 4 → stays (.trainWordRx beats)) ∧
        (v.phase = .c → fld w 3 0 = 2 → fld w 8 4 < 17 → After (.trainWordRx beats) s (fun h =>
          (∀ k, cGet 0 h.vp.repair k = if k = 32 + fld w 8 4 then w.setWidth 22 else cGet 0 v.repair k) ∧
          onlyVp { v with
            gotRepair := if fld w 8 4 ∈ v.gotRepair then v.gotRepair else v.gotRepair ++ [fld w 8 4], repair := h.vp.repair
            gotCyc := if v.gotRepair.length < 17 then t else v.gotCyc } h)) ∧
        (v.phase = .d → fld w 3 0 ≠ 1 → stays (.trainWordRx beats)) ∧
        (v.phase = .d → fld w 3 0 = 1 → After (.trainWordRx beats) s (onlyVp { v with
          pgen := w.extractLsb' 8 8, gotProp := some (v.gotProp.getD w), gotCyc := if v.gotProp.isNone then t else v.gotCyc })) ∧
        (v.phase = .e → fld w 3 0 ≠ 3 ∨ v.gotConfirm.isSome = true → stays (.trainWordRx beats)) ∧
        (v.phase = .e → fld w 3 0 = 3 → v.gotConfirm = none →
          After (.trainWordRx beats) s (onlyVp { v with gotConfirm := some w, gotCyc := t }))) ∧
      (let missing := (v.phase = .c ∧ v.gotRepair.length < 17) ∨ (v.phase = .d ∧ v.gotProp = none) ∨ (v.phase = .e ∧ v.gotConfirm = none);
        (v.attCyc + 8192 ≤ t → missing → (v.attempt = 2 → After .trainAttemptTmo s (onlyVp (again v))) ∧
          (v.attempt ≠ 2 → After .trainAttemptTmo s (down 6 v))) ∧
        (t < v.attCyc + 8192 ∨ ¬ missing → stays .trainAttemptTmo)))) ∧
  (∀ (v : Vp) (beats : List (BitVec 579)) (g : Nat) (r : BitVec 22), g < 17 → r = 0 ∨ r = cGet 0 v.repair g →
    let at_ := fun (b : Nat) => (rxGroup (beats.getD b 0) r g).toNat
    (g, BitVec.ofNat 64 (if g < 16 then at_ 0 + at_ 1 * 2 ^ 32
      else at_ 0 % 65536 + at_ 1 % 65536 * 2 ^ 16 + at_ 2 % 65536 * 2 ^ 32 + at_ 3 % 65536 * 2 ^ 48)) ∈ rxCopies v beats) ∧
  (∀ (copies : List (Nat × BitVec 64)) (w : BitVec 64), goodCopy copies = some w →
    ∃ g, (g, w) ∈ copies ∧ wordCrc w = fld w 63 48 ∧ ∀ p ∈ copies, wordCrc p.2 = fld p.2 63 48 → g ≤ p.1) ∧
  (∀ (c : Cells Word) (v : Vp) (n : Nat),
    let w := trainWord c v n
    wordCrc w = fld w 63 48 ∧
    (v.phase = .c → w.setWidth 22 = cGet 0 v.repair (n % 17)) ∧
    (v.phase = .d → fld w 3 0 = 1 ∧ fld w 15 8 = v.gen.toNat ∧ fld w 41 32 = v.rxSeq.getD 0 % 1024 ∧ bit w 42 = v.rxSeq.isSome ∧
      (∀ x m, propose c v = some (x, m) → fld w 5 4 = x ∧ fld w 31 16 = m.toNat) ∧
      (propose c v = none → fld w 5 4 = 0 ∧ fld w 31 16 = 0)) ∧
    (v.phase = .e → fld w 3 0 = 3 ∧ fld w 5 4 = v.width % 4 ∧ fld w 15 8 = v.gen.toNat)) ∧
  (∀ (c : Cells Word) (h : Hw) (b w : Nat), w < 579 →
    let l := bit (txWires c h b) w
    let n := 2 * now h + b - 2 * h.vp.phaseCyc
    (h.vp.state = .disabled → l = false) ∧
    (562 ≤ w → h.vp.state = .training ∨ h.vp.state = .up → l = true) ∧
    (h.vp.state = .training → h.vp.phase = .a → 544 ≤ w → w < 562 → l = decide (n % 2 = 0)) ∧
    (h.vp.state = .training → h.vp.phase = .b → w < 562 → l = prbsBit w n) ∧
    (h.vp.state = .training → h.vp.phase = .d ∨ h.vp.phase = .e → w < 544 → w % 34 < 32 →
      spareFor (cGet 0 h.vp.repair (32 + w / 34)) 0 ≠ some (w % 34) → spareFor (cGet 0 h.vp.repair (32 + w / 34)) 1 ≠ some (w % 34) →
      l = bit (trainWord c h.vp (n / 4)) (32 * (n % 2) + w % 34)) ∧
    (h.vp.state = .training → h.vp.phase = .d ∨ h.vp.phase = .e → 544 ≤ w → w < 560 →
      spareFor (cGet 0 h.vp.repair 48) 0 ≠ some (w - 544) → spareFor (cGet 0 h.vp.repair 48) 1 ≠ some (w - 544) →
      l = bit (trainWord c h.vp (n / 4)) (16 * (n % 4) + (w - 544)))) ∧
  (∀ w n, w < 562 → prbsBit w 0 = bit (BitVec.ofNat 15 (w + 1)) 14 ∧ (14 < n → prbsBit w (n + 1) = (prbsBit w (n - 14) != prbsBit w (n - 13))))

/-! ### Registers, interrupts and counters -/

/-- SP requests enter the register queue before the mesh's of the same CLK_C cycle, four outstanding at most; at a CLK_C edge one access
executes, and responses leave in order; a malformed SP address is answered DECERR and counted. A write of a software register takes its
RW bits, and its RWL bits while LOCK is 0; LOCK is set and not cleared by software; sticky bits written 1 clear, but for those set in the
same CLK_C cycle; a write of PG_CMD is its command, and DECERR for an undefined CODE; a write of a covered word closes the gate, one of
HMT_CSUM starts a check, whose end opens the gate or flags the mismatch; a read of a low word captures its high word; an access of no
register has no effect (R8, R10 to R14, R23, R377, R424, R443, R444, R485, R487, R488). -/
def Obligations.RegistersAreAccessed : Prop :=
  ∀ (s : State), running s.hw = true →
    let p := s.hw.path
    let stays := fun (i : Instr) => After i s (fun h => h = s.hw)
    (∀ (write : Bool) (addr data : BitVec 32),
      (p.queue.length < 16 → p.spOut.length < 4 → After (.spRequest write addr data) s (fun h => ∃ a : Access,
        a.carrier = .sp ∧ a.write = write ∧ a.off = addr.toNat ∧ a.data = data ∧ a.at_ = clkC s.hw ∧
        a.bad = decide (addr.toNat % 4 ≠ 0 ∨ 2 ^ 18 ≤ addr.toNat) ∧
        h = { s.hw with path := { p with queue := p.queue ++ [a], spOut := p.spOut ++ [none] } })) ∧
      (16 ≤ p.queue.length ∨ 4 ≤ p.spOut.length → stays (.spRequest write addr data))) ∧
    (∀ r rest, p.spOut = some r :: rest →
      (s.hw.rst.cmd = none → After .spResponse s (fun h => h = { s.hw with path := { p with spOut := rest, spPins := some r } })) ∧
      (∀ n, s.hw.rst.cmd ≠ none → p.spMay = some (n + 1) → After .spResponse s (fun h => h = { s.hw with
        path := { p with spOut := rest, spPins := some r, spMay := some n }
        rst := if n = 0 ∧ p.spCarries = true then { s.hw.rst with cmdLeft := some (now s.hw) } else s.hw.rst })) ∧
      (s.hw.rst.cmd ≠ none → p.spMay = none ∨ p.spMay = some 0 → stays .spResponse)) ∧
    (p.spOut.head? = none ∨ p.spOut.head? = some none → stays .spResponse) ∧
    (s.pending = [] → now s.hw + 1 < 2 ^ 64 → (∀ r ∈ s.hw.core.adm, isCfg r.kind = false) →
      let q1 := p.queue ++ (p.tpWait.take (16 - p.queue.length)).map (fun a => { a with at_ := (now s.hw + 1) / 4 })
      let q2 := q1 ++ p.mesh.take (16 - q1.length)
      ((now s.hw + 1) % 4 ≠ 0 → ∃ t, step s = .next t ∧ t.hw.path = p) ∧
      ((now s.hw + 1) % 4 = 0 → ∃ t, step s = .next t ∧ t.hw.path.tpWait = p.tpWait.drop (16 - p.queue.length) ∧
        t.hw.path.mesh = p.mesh.drop (16 - q1.length) ∧
        (s.hw.diag.gav.failed = false → t.hw.path.queue = q2.drop 1) ∧
        (s.hw.diag.gav.failed = true → (∀ a ∈ q2, a.carrier ≠ .sp ∧ a.carrier ≠ .tp) → t.hw.path.queue = q2) ∧
        (∀ a rest, s.hw.diag.gav.failed = false → q2 = a :: rest → a.carrier = .sp → a.bad = true →
          t.hw.path.spOut = fillFirst (0, 3) p.spOut ∧ roGet t.hw 0x5070 = satAdd (roGet s.hw 0x5070) 1 ∧
          bit (roGet t.hw 0x5010) 0 = true ∧ t.cfg = s.cfg))) ∧
    (∀ (o : Nat) (d : BitVec 32),
      let row := regRow o
      let m := if locked s.cfg then row.rw else row.rw ||| row.rwl
      let takes := fun (c : Cells Word) => cfgGet c o = (cfgGet s.cfg o &&& ~~~ m) ||| (d &&& m) ∧ ∀ k, k ≠ o → cfgGet c k = cfgGet s.cfg k
      let units := 0x10800 ≤ o ∧ o < 0x11000 ∧ o % 8 = 4
      (offOk o = true → isCovered o = false → o ∉ [0x58, 0x6040, 0x10040, 0x10044, 0x18040, 0x19044] → ¬ units →
        writeHw s.cfg o d s.hw = none → AfterCfg (.registerWrite o d) s (fun c h => takes c ∧ h = s.hw)) ∧
      (offOk o = true → units → AfterCfg (.registerWrite o d) s (fun c h => takes c ∧ h = { s.hw with qos := { s.hw.qos with
        ucyc := clkM s.hw, uold := h.qos.uold } } ∧ cFind h.qos.uold ((o - 0x10800) / 8) = some (unitsSeen s.cfg s.hw ((o - 0x10800) / 8)))) ∧
      (offOk o = true → o = 0x10044 → AfterCfg (.registerWrite o d) s (fun c h => takes c ∧ h.qos.boundary = now s.hw ∧
        h = { s.hw with qos := h.qos })) ∧
      (offOk o = false → stays (.registerWrite o d)) ∧
      (w1cMask o ≠ 0 →
        let left := roGet s.hw o &&& ~~~ (d &&& w1cMask o &&& ~~~ wroteNow s.hw o)
        After (.w1cWrite o d) s (fun h => roGet h o = left ∧ SameRegs [o] s.hw h ∧ h = { s.hw with ro := h.ro })) ∧
      (w1cMask o = 0 → stays (.w1cWrite o d)) ∧
      (isCovered o = false → exec (.coveredWordWrite o d) s = .next s) ∧
      (isCovered o = true → AfterCfg (.coveredWordWrite o d) s (fun c h => takes c ∧
        (s.hw.units.hmt = none → roGet h 0x6044 = roGet s.hw 0x6044 &&& 0xFFFFFFFE ∧ SameRegs [0x6044] s.hw h) ∧
        (∀ t, s.hw.units.hmt = some t → clkC s.hw < t + 4162 → roGet h 0x6044 = 4 ∧ SameRegs [0x6044] s.hw h) ∧
        (∀ t, s.hw.units.hmt = some t → t + 4162 ≤ clkC s.hw →
          let v := crc32 (coveredWords s.cfg)
          roGet h 0x6048 = v ∧ roGet h 0x6044 = (if v = cfgGet s.cfg 0x6040 then 0 else 2) ∧
          (v ≠ cfgGet s.cfg 0x6040 → bit (roGet h 0x6010) 0 = true) ∧ SameRegs [0x6044, 0x6048, 0x6010] s.hw h) ∧
        h = { s.hw with ro := h.ro, hwSet := h.hwSet, units := { s.hw.units with hmt := none } })) ∧
      (∀ path x, wideAt s.hw o = some x → After (.lowWordRead path o) s (fun h =>
        capOfPath h path = some (o, (x >>> 32).setWidth 32) ∧ (∀ q, q ≠ path → capOfPath h q = capOfPath s.hw q) ∧
        h = { s.hw with path := { p with capSp := h.path.capSp, capMp := h.path.capMp, capVp := h.path.capVp } })) ∧
      (∀ path, wideAt s.hw o = none → stays (.lowWordRead path o))) ∧
    (∀ d : BitVec 32,
      let code := fld d 7 0
      let is := fun (o n : Nat) (i : Instr) => code = n → exec (.registerWrite o d) s = exec i s
      is 0x301C 1 .vpRetrain ∧ is 0x301C 2 .vpDisable ∧
      is 0x1001C 1 .clrCounters ∧ is 0x1201C 2 .marchStop ∧ is 0x1601C 1 .recover ∧ is 0x1801C 1 .pmuSnap ∧
      is 0x1401C 1 (.logFree (d.extractLsb' 8 6) (d.extractLsb' 16 16)) ∧
      is 0x701C 1 (.setMode (d.extractLsb' 8 4) (d.extractLsb' 12 2)) ∧
      (∀ q, pageHasCmd q = true → pageCmd0 s.cfg q d s.hw = none → pageCmd1 s.cfg q d s.hw = none →
        After (.registerWrite (rg q 0x1C) d) s (fun h => CmdTook q (if q = 7 then fld d 13 12 * 2 ^ 14 + fld d 11 8 * 2 ^ 8 + fld d 7 0
          else (d &&& cmdFields q).toNat) 3 s.hw h ∧ SameRegs (cmdRegs q) s.hw h ∧ h = { s.hw with ro := h.ro, hwSet := h.hwSet }))) ∧
    (∀ d : BitVec 32,
      AfterCfg (.slcCtrlWrite d) s (fun c h => cfgGet c 0x58 = (cfgGet s.cfg 0x58 ||| d) &&& 1 ∧
        (∀ k, k ≠ 0x58 → cfgGet c k = cfgGet s.cfg k) ∧ h = s.hw) ∧
      AfterCfg (.hmtCsumWrite d) s (fun c h => cfgGet c 0x6040 = d ∧ (∀ k, k ≠ 0x6040 → cfgGet c k = cfgGet s.cfg k) ∧
        roGet h 0x6044 = 0x80000000 ∧ SameRegs [0x6044, 0x6048, 0x6010] s.hw h ∧
        ((∀ t, s.hw.units.hmt = some t → clkC s.hw < t + 4162) → SameRegs [0x6044] s.hw h) ∧
        h = { s.hw with ro := h.ro, hwSet := h.hwSet, units := { s.hw.units with hmt := some (clkC s.hw) } })) ∧
    ((∀ t, s.hw.units.hmt = some t → clkC s.hw < t + 4162) → stays .hmtCheckDone) ∧
    (∀ t, s.hw.units.hmt = some t → t + 4162 ≤ clkC s.hw →
      let v := crc32 (coveredWords s.cfg)
      let ends := fun (h : Hw) => roGet h 0x6048 = v ∧
        h = { s.hw with ro := h.ro, hwSet := h.hwSet, units := { s.hw.units with hmt := none } }
      (v = cfgGet s.cfg 0x6040 → After .hmtCheckDone s (fun h => ends h ∧ roGet h 0x6044 = 1 ∧ SameRegs [0x6044, 0x6048] s.hw h)) ∧
      (v ≠ cfgGet s.cfg 0x6040 → After .hmtCheckDone s (fun h => ends h ∧ roGet h 0x6044 = 2 ∧ bit (roGet h 0x6010) 0 = true ∧
        SameRegs [0x6044, 0x6048, 0x6010] s.hw h)))

/-- A message-signalled interrupt that is enabled and armed is sent while its condition is high and disarms; a write of MSI_ARM arms
(R379). SNAP copies the counters and the count of the last cycle; a counter's word is written as it stands; MODE, EVSEL and CC_CTRL
take their bits; SMP.HEAD moves up to TAIL, SEED loads the LFSR; a counter that wraps does so in the cycle that adds to it, with its
overflow bit (R459, R461 to R465, R467, R472, R473). -/
def Obligations.InterruptsAndCountersAct : Prop :=
  ∀ (s : State), running s.hw = true →
    let off := roGet s.hw 0x5040
    let stays := fun (i : Instr) => After i s (fun h => h = s.hw)
    (∀ d : BitVec 32, After (.msiArmWrite d) s (fun h => roGet h 0x5040 = off &&& ~~~ ((d &&& 0xF) <<< 8) ∧
      SameRegs [0x5040] s.hw h ∧ wroteNow h 0x5044 = wroteNow s.hw 0x5044 ||| ((d &&& 0xF) ||| (((off >>> 8) &&& (d &&& 0xF)) <<< 4)) ∧
      (∀ o, o ≠ 0x5044 → wroteNow h o = wroteNow s.hw o) ∧ h = { s.hw with ro := h.ro, hwSet := h.hwSet })) ∧
    (∀ n,
      let note := wroteNow s.hw 0x5044
      let cfg := cfgGet s.cfg (0x5050 + 8 * n)
      let due := n < 4 ∧ bit cfg 31 = true ∧ bit off (8 + n) = false ∧ irqLevel s.cfg s.hw n = true ∧ bit note (4 + n) = false ∧
        bit note (8 + n) = false
      let label : Label := BitVec.ofNat 12 (fld cfg 27 16)
      (due → After (.msiSend n) s (fun h => roGet h 0x5040 = (if bit note n then off else setBit off (8 + n) true) ∧
        Queued .mp (vcOf 3 (tcOf s.cfg (groupOf s.cfg label))) {
          hdr := fromSlice s.hw { type := 0x3D, dst := cfg.setWidth 16, label := label, arg2 := cfgGet s.cfg (0x5054 + 8 * n) }
          iseq := s.hw.core.nextSeq } s.hw h ∧
        bit (wroteNow h 0x5044) (8 + n) = true ∧ SameRegs [0x5040] s.hw h ∧
        h = { s.hw with ro := h.ro, hwSet := h.hwSet, ports := { s.hw.ports with eg := h.ports.eg } })) ∧
      (¬ due → stays (.msiSend n))) ∧
    After .pmuSnap s (fun h => CmdTook 24 1 0 s.hw h ∧
      (∀ e, e < 160 →
        let x := cGet 0 s.hw.perf.ctr e - BitVec.ofNat 48 (cGet 0 s.hw.perf.inc e)
        cGet 0 h.perf.shadow (8 * e) = x.setWidth 32 ∧ cGet 0 h.perf.shadow (8 * e + 4) = (x >>> 32).setWidth 32) ∧
      (∀ k, k < 8 → cGet 0 h.perf.shadow (0x508 + 8 * k) = (cGet 0 s.hw.perf.pc k).setWidth 32 ∧
        cGet 0 h.perf.shadow (0x50C + 8 * k) = (cGet 0 s.hw.perf.pc k >>> 32).setWidth 32) ∧
      cGet 0 h.perf.shadow 0x500 = (cGet 0 s.hw.perf.pc 8).setWidth 32 ∧
      cGet 0 h.perf.shadow 0x504 = (cGet 0 s.hw.perf.pc 8 >>> 32).setWidth 32 ∧
      (∀ k, k < 5 → cGet 0 h.perf.shadow (0x580 + 4 * k) = roGet s.hw (0x18080 + 4 * k)) ∧
      cGet 0 h.perf.shadow 0x594 = roGet s.hw 0x180C0 ∧
      roGet h 0x18048 = (s.hw.cyc - 1).setWidth 32 ∧ roGet h 0x1804C = ((s.hw.cyc - 1) >>> 32).setWidth 32 ∧
      roGet h 0x18050 = BitVec.ofNat 32 (((roGet s.hw 0x18050).toNat + 1) % 2 ^ 32) ∧
      SameRegs ([0x18048, 0x1804C, 0x18050] ++ cmdRegs 24) s.hw h ∧
      h = { s.hw with ro := h.ro, hwSet := h.hwSet, perf := { s.hw.perf with shadow := h.perf.shadow } }) ∧
    (∀ d : BitVec 32,
      AfterCfg (.pmuModeWrite d) s (fun c h => cfgGet c 0x18040 = (cfgGet s.cfg 0x18040 &&& 0xFFFFFFFE) ||| (d &&& 1) ∧
        (∀ k, k ≠ 0x18040 → cfgGet c k = cfgGet s.cfg k) ∧ h = s.hw) ∧
      (∀ o,
        let is := o = 0x180C8 ∨ (0x18148 ≤ o ∧ o < 0x18168 ∧ o % 4 = 0)
        let m : Word := if o = 0x180C8 then 1 else 0x800001FF
        (is → AfterCfg (.evselWrite o d) s (fun c h => cfgGet c o = (cfgGet s.cfg o &&& ~~~ m) ||| (d &&& m) ∧
          (∀ k, k ≠ o → cfgGet c k = cfgGet s.cfg k) ∧ h = s.hw)) ∧
        (¬ is → exec (.evselWrite o d) s = .next s)) ∧
      (∀ k o, k < 9 → o = (if k = 8 then 0x18100 else 0x18108 + 8 * k) →
        let x := cGet 0 s.hw.perf.pc k
        let wrote := fun (h : Hw) => (∀ j, j ≠ k → cGet 0 h.perf.pc j = cGet 0 s.hw.perf.pc j) ∧ k ∈ h.perf.wrote ∧
          (∀ j ∈ h.perf.wrote, j = k ∨ j ∈ s.hw.perf.wrote) ∧ (∀ j ∈ s.hw.perf.wrote, j ∈ h.perf.wrote) ∧
          h = { s.hw with perf := { s.hw.perf with pc := h.perf.pc, wrote := h.perf.wrote } }
        After (.compatCounterWrite o d) s (fun h => wrote h ∧
          cGet 0 h.perf.pc k = (((x >>> 32).setWidth 16 : BitVec 16) ++ d).setWidth 48) ∧
        After (.compatCounterWrite (o + 4) d) s (fun h => wrote h ∧
          cGet 0 h.perf.pc k = ((d.setWidth 16 : BitVec 16) ++ (x.setWidth 32 : BitVec 32)).setWidth 48)) ∧
      (∀ o, o < 0x18100 ∨ 0x18148 ≤ o ∨ o % 4 ≠ 0 → exec (.compatCounterWrite o d) s = .next s) ∧
      (let head := fld (roGet s.hw 0x19048) 4 0
        let fits := (fld d 4 0 + 32 - head) % 32 ≤ (fld (roGet s.hw 0x1904C) 4 0 + 32 - head) % 32
        (fits → After (.smpHeadWrite d) s (fun h => roGet h 0x19048 = BitVec.ofNat 32 (fld d 4 0) ∧ SameRegs [0x19048] s.hw h ∧
          h = { s.hw with ro := h.ro })) ∧
        (¬ fits → After (.smpHeadWrite d) s (fun h => bit (roGet h 0x19010) 0 = true ∧ SameRegs [0x19010] s.hw h ∧
          h = { s.hw with ro := h.ro, hwSet := h.hwSet }))) ∧
      AfterCfg (.smpSeedWrite d) s (fun c h => cfgGet c 0x19044 = (cfgGet s.cfg 0x19044 &&& 0xFF800000) ||| (d &&& 0x7FFFFF) ∧
        (∀ k, k ≠ 0x19044 → cfgGet c k = cfgGet s.cfg k) ∧
        h = { s.hw with perf := { s.hw.perf with lfsr := if d.setWidth 23 = (0 : BitVec 23) then 1 else d.setWidth 23 } })) ∧
    (∀ e, (timeWraps s.cfg s.hw e = true → s.pending = [] → exec (.cyclesCounterWrap e) s = step s) ∧
      (timeWraps s.cfg s.hw e = false → exec (.cyclesCounterWrap e) s = .next s)) ∧
    (cGet 0 s.hw.perf.ctr 0 = 0xFFFFFFFFFFFF → (now s.hw + 1) % 4 ≠ 0 →
      ∃ t, exec (.cyclesCounterWrap 0) s = .next t ∧ t.pending = s.pending ∧ t.cfg = s.cfg ∧ t.hw.cyc = s.hw.cyc + 1 ∧
        cGet 0 t.hw.perf.ctr 0 = 0 ∧ bit (roGet t.hw 0x18080) 0 = true)

/-- The Test Port: the instruction register captures, shifts and updates, and the wrapper's reset clears it; a code that is not listed
selects the bypass register; the data register of SLC_REGACC captures DONE, the code and the data of the last access, shifts, and starts
an access with DONE 0, in the register queue or waiting for it; that of SLC_MBIST captures the march's result, shifts, and starts the
start-up march in HOLD; under WS_EXTEST the boundary register captures, shifts and updates (R406, R428 to R431; the order of the shift and
what an instruction capture holds are the model's choices, log entry 122). -/
def Obligations.TestPortActs : Prop :=
  ∀ (s : State) (wsi : Bool),
    let p := s.hw.path
    let only := fun (i : Instr) (p' : RegPath) => exec i s = .next { s with hw := { s.hw with path := p' } }
    let drawn := fun (i : Instr) (p' : RegPath) => exec i s = .next { s with hw := { s.hw with path := p', free := s.hw.free + 1 } }
    let stays := fun (i : Instr) => exec i s = .next s
    let listed := [0x01, 0x02, 0x10, 0x11]
    let shifted := fun (n : Nat) (x y : BitVec n) => ∀ i, i < n → y.getLsbD i = if i + 1 = n then wsi else x.getLsbD (i + 1)
    drawn (.tpInstruction .capture) { p with wirShift := (Config.tpOpen s.hw.free).setWidth 8 } ∧
    (∃ y, shifted 8 p.wirShift y ∧ only (.tpInstruction (.shift wsi)) { p with wirShift := y, wso := p.wirShift.getLsbD 0 }) ∧
    only (.tpInstruction .update) { p with wir := p.wirShift } ∧
    (p.wir.toNat ∉ listed → drawn (.tpInstruction .bypassCapture) { p with bypass := (Config.tpOpen s.hw.free).getLsbD 0 } ∧
      only (.tpInstruction (.bypassShift wsi)) { p with bypass := wsi, wso := p.bypass }) ∧
    (p.wir.toNat ∈ listed → stays (.tpInstruction .bypassCapture) ∧ stays (.tpInstruction (.bypassShift wsi))) ∧
    only .wrapperReset { p with wir := 0 } ∧
    (p.wir = 0x01 →
      (∀ rx, only (.extestBoundaryUpdate (.capture rx)) { p with vprx := rx }) ∧
      only (.extestBoundaryUpdate .update) { p with txPins := p.vptx } ∧
      only (.extestBoundaryUpdate (.shift wsi)) { p with
        coreSeg := (wsi :: p.coreSeg).take Config.coreLen, wso := p.vprx.getLsbD 578
        vptx := (p.vptx <<< 1) ||| (BitVec.ofBool ((wsi :: p.coreSeg).getD Config.coreLen false)).setWidth 579
        vprx := (p.vprx <<< 1) ||| (BitVec.ofBool (p.vptx.getLsbD 578)).setWidth 579 } ∧
      ∀ c b, vpTxPins c s.hw b = p.txPins) ∧
    (p.wir ≠ 0x01 → (∀ op, stays (.extestBoundaryUpdate op)) ∧ ∀ c b, vpTxPins c s.hw b = txWires c s.hw b) ∧
    (p.wir ≠ 0x10 → ∀ op, stays (.tpRegacc op)) ∧
    (p.wir = 0x10 →
      (∃ x : BitVec 68, drawn (.tpRegacc .capture) { p with regAcc := x } ∧ x.getLsbD 67 = p.tpDone ∧ x.extractLsb' 64 3 = p.tpCode ∧
        x.extractLsb' 0 32 = p.tpData) ∧
      (∃ y, shifted 68 p.regAcc y ∧ only (.tpRegacc (.shift wsi)) { p with regAcc := y, wso := p.regAcc.getLsbD 0 }) ∧
      (running s.hw = false → only (.tpRegacc .update) { p with tpDone := false }) ∧
      (running s.hw = true →
        let off := p.regAcc.extractLsb' 32 32
        let a : Access := {
          carrier := .tp, write := p.regAcc.getLsbD 67, off := off.toNat, data := p.regAcc.extractLsb' 0 32
          bad := decide (off.toNat % 4 ≠ 0 ∨ 2 ^ 18 ≤ off.toNat) }
        (16 ≤ p.queue.length → only (.tpRegacc .update) { p with tpDone := false, tpWait := p.tpWait ++ [a] }) ∧
        (p.queue.length < 16 → only (.tpRegacc .update) { p with
          tpDone := false, queue := p.queue ++ [{ a with at_ := clkC s.hw }] }))) ∧
    (p.wir ≠ 0x11 → ∀ op, stays (.tpMbist op)) ∧
    (p.wir = 0x11 →
      (∃ x : BitVec 64, only (.tpMbist .capture) { p with mbist := x } ∧
        x.getLsbD 63 = (match s.hw.prot.march with | some m => m.boot | none => false) ∧
        x.getLsbD 62 = bit (roGet s.hw 0x13010) 1 ∧ x.extractLsb' 56 6 = BitVec.ofNat 6 s.hw.prot.lrt.length ∧
        x.extractLsb' 40 16 = (roGet s.hw 0x1204C).setWidth 16 ∧ x.extractLsb' 8 32 = roGet s.hw 0x12048 ∧
        x.extractLsb' 0 6 = BitVec.ofNat 6 (ones (roGet s.hw 0x13044).toNat 32) ∧ x.extractLsb' 6 2 = 0) ∧
      (∃ y, shifted 64 p.mbist y ∧ only (.tpMbist (.shift wsi)) { p with mbist := y, wso := p.mbist.getLsbD 0 }) ∧
      (running s.hw = false → stays (.tpMbist .update)) ∧
      (running s.hw = true → s.hw.rst.boot ≠ .hold ∨ p.mbist.getLsbD 0 = false → After (.tpMbist .update) s (fun h => h = s.hw)) ∧
      (running s.hw = true → s.hw.rst.boot = .hold → p.mbist.getLsbD 0 = true → After (.tpMbist .update) s (fun h =>
        (∃ m : March, h.prot.march = some m ∧ m.boot = true ∧ m.destroy = true ∧ m.spare = true ∧ m.stop = false ∧ m.wait = false ∧
          m.row = 0 ∧ m.op = 0 ∧ (∀ b, b < 32 → bit m.banks b = !(pwr s.hw b).dead) ∧ m.endAt = clkM s.hw + 344064) ∧
        ((∀ b, b < 32 → (pwr s.hw b).dead = false) → h.prot.disWait = s.hw.prot.disWait) ∧
        (∀ k, k < 8389632 → cGet 0 h.arr.words k =
          if 8388608 ≤ k ∨ (pwr s.hw (k / 262144)).dead = false then 0 else cGet 0 s.hw.arr.words k) ∧
        (∀ b, (∀ q ∈ s.hw.arr.banks, q.1 = b → q.2 = bank s.hw b) →
          bank h b = { bank s.hw b with pend := [], cur := none, fly := [] }) ∧
        (∀ q ∈ [9, 11, 13, 17, 18, 19], roGet h (rg q 0x20) = setBit (roGet s.hw (rg q 0x20)) 31 false) ∧
        roGet h 0x8044 = setBit (roGet s.hw 0x8044) 31 false ∧
        (∀ o ∈ [0x12048, 0x1204C, 0x12050], roGet h o = 0) ∧
        SameRegs [0x9020, 0xB020, 0xD020, 0x11020, 0x12020, 0x13020, 0x8044, 0x12048, 0x1204C, 0x12050, 0x12054] s.hw h ∧
        h = { s.hw with
          ro := h.ro, rst := { s.hw.rst with boot := .march, bootCyc := now s.hw, marched := true }
          core := { s.hw.core with tt := [], adm := s.hw.core.adm.filter (fun r => r.port.isSome) }
          home := { s.hw.home with tags := [], sf := [], sweep := none }
          arr := { s.hw.arr with words := h.arr.words, banks := h.arr.banks }
          near := { Near.init with stamp := s.hw.near.stamp }, reel := { s.hw.reel with sbuf := [] }
          xp := { s.hw.xp with wait := [] }
          units := { Units.init with events := s.hw.units.events, recs := s.hw.units.recs, hmt := s.hw.units.hmt }
          prot := { s.hw.prot with scrub := none, chk := none, march := h.prot.march, disWait := h.prot.disWait } })))
end

