-- ==== Sys2Proof/Laws/Store.lean ====
section
/-! SUPPORT. Sparse storage: a read after a write gives the value written, a write leaves every other index alone, and every
operation keeps the canonical form. -/
namespace Sys2Proof.Machine

variable {α : Type}

@[simp] theorem cFind_nil (k : Nat) : cFind ([] : Cells α) k = none := rfl

@[simp] theorem cGet_nil (d : α) (k : Nat) : cGet d [] k = d := rfl

theorem cFind_cons (i : Nat) (v : α) (r : Cells α) (k : Nat) :
    cFind ((i, v) :: r) k = if i = k then some v else cFind r k := rfl

@[simp] theorem cFind_cDel_same (c : Cells α) (k : Nat) : cFind (cDel c k) k = none := by
  induction c with
  | nil => rfl
  | cons p r ih =>
    obtain ⟨i, v⟩ := p
    unfold cDel
    split
    · exact ih
    · rename_i h; simp [cFind, h, ih]

theorem cFind_cDel_ne (c : Cells α) {k j : Nat} (h : j ≠ k) : cFind (cDel c k) j = cFind c j := by
  induction c with
  | nil => rfl
  | cons p r ih =>
    obtain ⟨i, v⟩ := p
    unfold cDel
    split
    · rename_i e; subst e; simp [cFind, ih, Ne.symm h]
    · simp [cFind, ih]

@[simp] theorem cFind_cIns_same (c : Cells α) (k : Nat) (v : α) : cFind (cIns c k v) k = some v := by
  induction c with
  | nil => simp [cIns, cFind]
  | cons p r ih =>
    obtain ⟨i, w⟩ := p
    unfold cIns
    split
    · simp [cFind]
    · split
      · simp [cFind]
      · rename_i h; simp [cFind, ih, Ne.symm h]

theorem cFind_cIns_ne (c : Cells α) {k j : Nat} (v : α) (h : j ≠ k) : cFind (cIns c k v) j = cFind c j := by
  induction c with
  | nil => simp [cIns, cFind, Ne.symm h]
  | cons p r ih =>
    obtain ⟨i, w⟩ := p
    unfold cIns
    split
    · simp [cFind, Ne.symm h]
    · split
      · rename_i e; subst e; simp [cFind, Ne.symm h]
      · simp [cFind, ih]

@[simp] theorem cGet_cPut_same [DecidableEq α] (d : α) (c : Cells α) (k : Nat) (v : α) : cGet d (cPut d c k v) k = v := by
  unfold cGet cPut
  split
  · rename_i h; simp [h]
  · simp

theorem cFind_cPut_ne [DecidableEq α] (d : α) (c : Cells α) {k j : Nat} (v : α) (h : j ≠ k) : cFind (cPut d c k v) j = cFind c j := by
  unfold cPut
  split
  · rw [cFind_cDel_ne c h]
  · rw [cFind_cIns_ne c v h]

theorem cGet_cPut_ne [DecidableEq α] (d : α) (c : Cells α) {k j : Nat} (v : α) (h : j ≠ k) :
    cGet d (cPut d c k v) j = cGet d c j := by
  unfold cGet cPut
  split
  · rw [cFind_cDel_ne c h]
  · rw [cFind_cIns_ne c v h]

theorem cFind_cUpd_same (c : Cells α) (k : Nat) (f : α → α) : cFind (cUpd c k f) k = (cFind c k).map f := by
  induction c with
  | nil => rfl
  | cons p r ih =>
    obtain ⟨i, v⟩ := p
    by_cases h : i = k
    · simp [cUpd, cFind, h]
    · simp only [cUpd] at ih
      simp [cUpd, cFind, h, ih]

theorem cFind_cUpd_ne (c : Cells α) {k j : Nat} (f : α → α) (h : j ≠ k) : cFind (cUpd c k f) j = cFind c j := by
  induction c with
  | nil => rfl
  | cons p r ih =>
    obtain ⟨i, v⟩ := p
    simp only [cUpd] at ih
    by_cases e : i = k
    · simp [cUpd, cFind, e, Ne.symm h, ih]
    · simp [cUpd, cFind, e, ih]

/-! ### The canonical form -/

theorem cRising_mono {lo lo' : Nat} (h : lo' ≤ lo) {c : Cells α} (w : cRising lo c = true) : cRising lo' c = true := by
  cases c with
  | nil => rfl
  | cons p r =>
    obtain ⟨i, v⟩ := p
    simp only [cRising, Bool.and_eq_true, decide_eq_true_eq] at w ⊢
    exact ⟨Nat.le_trans h w.1, w.2⟩

theorem cRising_cDel {lo : Nat} {c : Cells α} (k : Nat) (w : cRising lo c = true) : cRising lo (cDel c k) = true := by
  induction c generalizing lo with
  | nil => rfl
  | cons p r ih =>
    obtain ⟨i, v⟩ := p
    simp only [cRising, Bool.and_eq_true, decide_eq_true_eq] at w
    unfold cDel
    split
    · exact cRising_mono (Nat.le_succ_of_le w.1) (ih w.2)
    · simp only [cRising, Bool.and_eq_true, decide_eq_true_eq]
      exact ⟨w.1, ih w.2⟩

theorem cRising_cIns {lo : Nat} {c : Cells α} {k : Nat} (v : α) (b : lo ≤ k) (w : cRising lo c = true) :
    cRising lo (cIns c k v) = true := by
  induction c generalizing lo with
  | nil => simp [cIns, cRising, b]
  | cons p r ih =>
    obtain ⟨i, x⟩ := p
    simp only [cRising, Bool.and_eq_true, decide_eq_true_eq] at w
    unfold cIns
    split
    · rename_i h
      simp only [cRising, Bool.and_eq_true, decide_eq_true_eq]
      exact ⟨b, h, w.2⟩
    · split
      · rename_i h; subst h
        simp only [cRising, Bool.and_eq_true, decide_eq_true_eq]
        exact ⟨b, w.2⟩
      · rename_i h1 h2
        simp only [cRising, Bool.and_eq_true, decide_eq_true_eq]
        exact ⟨w.1, ih (by omega) w.2⟩

theorem mem_cDel {c : Cells α} {k : Nat} {p : Nat × α} (h : p ∈ cDel c k) : p ∈ c := by
  induction c with
  | nil => exact h
  | cons q r ih =>
    obtain ⟨i, v⟩ := q
    unfold cDel at h
    split at h
    · exact List.mem_cons_of_mem _ (ih h)
    · cases h with
      | head => exact List.mem_cons_self ..
      | tail _ h => exact List.mem_cons_of_mem _ (ih h)

theorem mem_cIns {c : Cells α} {k : Nat} {v : α} {p : Nat × α} (h : p ∈ cIns c k v) : p = (k, v) ∨ p ∈ c := by
  induction c with
  | nil => simp [cIns] at h; exact .inl h
  | cons q r ih =>
    obtain ⟨i, w⟩ := q
    unfold cIns at h
    split at h
    · simp only [List.mem_cons] at h ⊢; exact h
    · split at h
      · simp only [List.mem_cons] at h ⊢; exact h.imp_right .inr
      · simp only [List.mem_cons] at h ⊢
        rcases h with h | h
        · exact .inr (.inl h)
        · rcases ih h with h | h
          · exact .inl h
          · exact .inr (.inr h)

theorem cWf_nil [DecidableEq α] (d : α) : cWf d [] = true := rfl

/-- A write keeps the canonical form. -/
theorem cWf_cPut [DecidableEq α] {d : α} {c : Cells α} (k : Nat) (v : α) (w : cWf d c = true) : cWf d (cPut d c k v) = true := by
  simp only [cWf, Bool.and_eq_true, List.all_eq_true, decide_eq_true_eq] at w ⊢
  unfold cPut
  split
  · exact ⟨cRising_cDel k w.1, fun p h => w.2 p (mem_cDel h)⟩
  · rename_i hv
    refine ⟨cRising_cIns v (Nat.zero_le k) w.1, fun p h => ?_⟩
    rcases mem_cIns h with h | h
    · subst h; exact hv
    · exact w.2 p h

theorem cRising_filter {lo : Nat} {c : Cells α} (f : Nat × α → Bool) (w : cRising lo c = true) : cRising lo (c.filter f) = true := by
  induction c generalizing lo with
  | nil => rfl
  | cons p r ih =>
    obtain ⟨i, v⟩ := p
    simp only [cRising, Bool.and_eq_true, decide_eq_true_eq] at w
    by_cases h : f (i, v) = true
    · rw [List.filter_cons_of_pos h]
      simp only [cRising, Bool.and_eq_true, decide_eq_true_eq]
      exact ⟨w.1, ih w.2⟩
    · rw [List.filter_cons_of_neg h]
      exact cRising_mono (Nat.le_succ_of_le w.1) (ih w.2)

/-- Removing indexes keeps the canonical form. -/
theorem cWf_filter [DecidableEq α] {d : α} {c : Cells α} (f : Nat × α → Bool) (w : cWf d c = true) : cWf d (c.filter f) = true := by
  simp only [cWf, Bool.and_eq_true, List.all_eq_true, decide_eq_true_eq] at w ⊢
  exact ⟨cRising_filter f w.1, fun p h => w.2 p ((List.mem_filter.mp h).1)⟩

theorem cWf_cClear [DecidableEq α] {d : α} {c : Cells α} (lo n : Nat) (w : cWf d c = true) : cWf d (cClear c lo n) = true :=
  cWf_filter _ w

theorem cFind_filter (c : Cells α) (f : Nat → Bool) (k : Nat) :
    cFind (c.filter (fun p => f p.1)) k = if f k = true then cFind c k else none := by
  induction c with
  | nil => simp
  | cons p r ih =>
    obtain ⟨i, v⟩ := p
    by_cases h : f i = true
    · rw [List.filter_cons_of_pos (by simpa using h)]
      by_cases e : i = k
      · subst e; simp [cFind, h]
      · simp [cFind, e, ih]
    · rw [List.filter_cons_of_neg (by simpa using h), ih]
      by_cases e : i = k
      · subst e; simp [h]
      · simp [cFind, e]

/-- Clearing a range leaves every index outside it and empties every index in it. -/
theorem cFind_cClear (c : Cells α) (lo n k : Nat) :
    cFind (cClear c lo n) k = if lo ≤ k ∧ k < lo + n then none else cFind c k := by
  unfold cClear
  rw [cFind_filter c (fun i => !(decide (lo ≤ i) && decide (i < lo + n)))]
  by_cases h : lo ≤ k ∧ k < lo + n
  · simp [h]
  · rw [if_neg h]
    rw [if_pos]
    simp only [Bool.not_eq_true', Bool.and_eq_false_iff, decide_eq_false_iff_not]
    omega

end Sys2Proof.Machine
end

