-- ==== Sys2Proof/Laws/Kept.lean ====
section
/-! SUPPORT. What the transactions change as they go on by themselves, and what they leave: one lemma for each function that
`settle` reaches. `Kept h0 h` says that `h` differs from `h0` only in the parts that `Hw.fixed` blanks. -/
namespace Sys2Proof.Machine

/-- Registers that no transaction writes as it goes on. -/
def keptReg (o : Nat) : Bool := decide (o < 0x8000)

theorem keptReg_hi {o : Nat} (q : 0x8000 ≤ o) : keptReg o = false := decide_eq_false (Nat.not_lt.mpr q)

/-- The slice with everything blanked that transactions change as they go on. -/
def Hw.fixed (h : Hw) : Hw :=
  { h with
    core := Core.init, near := Near.init, free := 0, hwSet := []
    ro := h.ro.filter (fun p => keptReg p.1)
    ports := { h.ports with eg := [] }
    xp := { h.xp with wait := [], wrs := [] }
    arr := { words := h.arr.words.filter (fun p => decide (p.1 < 8388608)), banks := [], pwr := [] }
    home := { h.home with tags := [], plru := [], sf := [], sfPlru := [], sfCyc := none, gaveUp := [] }
    glp := { h.glp with chan := [], remote := [], nextTag := 0, late := [] }
    reel := { h.reel with ctx := [], sbuf := [] }
    units := { Units.init with hmt := h.units.hmt, mnt := h.units.mnt, events := h.units.events }
    prot := { Prot.init with march := h.prot.march, injTt := h.prot.injTt }
    diag := { h.diag with rq := [] }
    perf := { h.perf with ctr := [], inc := [], fly := [], buf := [] } }

/-- `b` differs from `a` only in what transactions change as they go on. -/
def Kept (a b : Hw) : Prop := b.fixed = a.fixed

variable {h0 h : Hw}

theorem modCore_kept {f} (k : Kept h0 h) : Kept h0 (h.modCore f) := k
theorem setCore_kept {x} (k : Kept h0 h) : Kept h0 (h.setCore x) := k
theorem modNear_kept {f} (k : Kept h0 h) : Kept h0 (h.modNear f) := k
theorem setNear_kept {x} (k : Kept h0 h) : Kept h0 (h.setNear x) := k
theorem setFree_kept {x} (k : Kept h0 h) : Kept h0 (h.setFree x) := k
theorem setHwSet_kept {x} (k : Kept h0 h) : Kept h0 (h.setHwSet x) := k
theorem setPorts_kept {x : Ports} (k : Kept h0 h) (q : { x with eg := [] } = { h.ports with eg := [] }) : Kept h0 (h.setPorts x) := by
  unfold Kept at *; rw [← k]
  simp only [Hw.fixed, Hw.setPorts, q]
theorem modPorts_kept {f : Ports → Ports} (k : Kept h0 h) (q : { (f h.ports) with eg := [] } = { h.ports with eg := [] }) : Kept h0 (h.modPorts f) := setPorts_kept k q
theorem setXp_kept {x : Xp} (k : Kept h0 h) (q : { x with wait := [], wrs := [] } = { h.xp with wait := [], wrs := [] }) : Kept h0 (h.setXp x) := by
  unfold Kept at *; rw [← k]
  simp only [Hw.fixed, Hw.setXp, q]
theorem modXp_kept {f : Xp → Xp} (k : Kept h0 h) (q : { (f h.xp) with wait := [], wrs := [] } = { h.xp with wait := [], wrs := [] }) : Kept h0 (h.modXp f) := setXp_kept k q
theorem setHome_kept {x : Home} (k : Kept h0 h) (q : { x with tags := [], plru := [], sf := [], sfPlru := [], sfCyc := none, gaveUp := [] } = { h.home with tags := [], plru := [], sf := [], sfPlru := [], sfCyc := none, gaveUp := [] }) : Kept h0 (h.setHome x) := by
  unfold Kept at *; rw [← k]
  simp only [Hw.fixed, Hw.setHome, q]
theorem modHome_kept {f : Home → Home} (k : Kept h0 h) (q : { (f h.home) with tags := [], plru := [], sf := [], sfPlru := [], sfCyc := none, gaveUp := [] } = { h.home with tags := [], plru := [], sf := [], sfPlru := [], sfCyc := none, gaveUp := [] }) : Kept h0 (h.modHome f) := setHome_kept k q
theorem setGlp_kept {x : Glp} (k : Kept h0 h) (q : { x with chan := [], remote := [], nextTag := 0, late := [] } = { h.glp with chan := [], remote := [], nextTag := 0, late := [] }) : Kept h0 (h.setGlp x) := by
  unfold Kept at *; rw [← k]
  simp only [Hw.fixed, Hw.setGlp, q]
theorem modGlp_kept {f : Glp → Glp} (k : Kept h0 h) (q : { (f h.glp) with chan := [], remote := [], nextTag := 0, late := [] } = { h.glp with chan := [], remote := [], nextTag := 0, late := [] }) : Kept h0 (h.modGlp f) := setGlp_kept k q
theorem setReel_kept {x : Reel} (k : Kept h0 h) (q : { x with ctx := [], sbuf := [] } = { h.reel with ctx := [], sbuf := [] }) : Kept h0 (h.setReel x) := by
  unfold Kept at *; rw [← k]
  simp only [Hw.fixed, Hw.setReel, q]
theorem modReel_kept {f : Reel → Reel} (k : Kept h0 h) (q : { (f h.reel) with ctx := [], sbuf := [] } = { h.reel with ctx := [], sbuf := [] }) : Kept h0 (h.modReel f) := setReel_kept k q
theorem setDiag_kept {x : Diag} (k : Kept h0 h) (q : { x with rq := [] } = { h.diag with rq := [] }) : Kept h0 (h.setDiag x) := by
  unfold Kept at *; rw [← k]
  simp only [Hw.fixed, Hw.setDiag, q]
theorem modDiag_kept {f : Diag → Diag} (k : Kept h0 h) (q : { (f h.diag) with rq := [] } = { h.diag with rq := [] }) : Kept h0 (h.modDiag f) := setDiag_kept k q
theorem setPerf_kept {x : Perf} (k : Kept h0 h) (q : { x with ctr := [], inc := [], fly := [], buf := [] } = { h.perf with ctr := [], inc := [], fly := [], buf := [] }) : Kept h0 (h.setPerf x) := by
  unfold Kept at *; rw [← k]
  simp only [Hw.fixed, Hw.setPerf, q]
theorem modPerf_kept {f : Perf → Perf} (k : Kept h0 h) (q : { (f h.perf) with ctr := [], inc := [], fly := [], buf := [] } = { h.perf with ctr := [], inc := [], fly := [], buf := [] }) : Kept h0 (h.modPerf f) := setPerf_kept k q
theorem setArr_kept {x : Arr} (k : Kept h0 h) (q : x.words.filter (fun p => decide (p.1 < 8388608)) = h.arr.words.filter (fun p => decide (p.1 < 8388608))) : Kept h0 (h.setArr x) := by
  unfold Kept at *; rw [← k]
  simp only [Hw.fixed, Hw.setArr, q]
theorem modArr_kept {f : Arr → Arr} (k : Kept h0 h) (q : (f h.arr).words.filter (fun p => decide (p.1 < 8388608)) = h.arr.words.filter (fun p => decide (p.1 < 8388608))) : Kept h0 (h.modArr f) := setArr_kept k q
theorem setUnits_kept {x : Units} (k : Kept h0 h) (q : (x.hmt, x.mnt, x.events) = (h.units.hmt, h.units.mnt, h.units.events)) : Kept h0 (h.setUnits x) := by
  unfold Kept at *; rw [← k]
  simp only [Prod.mk.injEq] at q
  simp only [Hw.fixed, Hw.setUnits, q]
theorem modUnits_kept {f : Units → Units} (k : Kept h0 h) (q : ((f h.units).hmt, (f h.units).mnt, (f h.units).events) = (h.units.hmt, h.units.mnt, h.units.events)) : Kept h0 (h.modUnits f) := setUnits_kept k q
theorem setProt_kept {x : Prot} (k : Kept h0 h) (q : (x.march, x.injTt) = (h.prot.march, h.prot.injTt)) : Kept h0 (h.setProt x) := by
  unfold Kept at *; rw [← k]
  simp only [Prod.mk.injEq] at q
  simp only [Hw.fixed, Hw.setProt, q]
theorem modProt_kept {f : Prot → Prot} (k : Kept h0 h) (q : ((f h.prot).march, (f h.prot).injTt) = (h.prot.march, h.prot.injTt)) : Kept h0 (h.modProt f) := setProt_kept k q

theorem foldl_kept {α : Type} {g : Hw → α → Hw} {l : List α} (k : Kept h0 h) (H : ∀ h x, Kept h0 h → Kept h0 (g h x)) :
    Kept h0 (l.foldl g h) := by
  induction l generalizing h with
  | nil => exact k
  | cons x r ih => exact ih (H h x k)

theorem ite_kept {p : Prop} [Decidable p] {x y : Hw} (kx : Kept h0 x) (ky : Kept h0 y) : Kept h0 (if p then x else y) := by
  split
  · exact kx
  · exact ky

theorem filter_cPut {α : Type} [DecidableEq α] (d : α) (c : Cells α) (k : Nat) (v : α) (f : Nat → Bool) (q : f k = false) :
    (cPut d c k v).filter (fun p => f p.1) = c.filter (fun p => f p.1) := by
  have del : (cDel c k).filter (fun p => f p.1) = c.filter (fun p => f p.1) := by
    induction c with
    | nil => rfl
    | cons p r ih =>
      obtain ⟨i, w⟩ := p
      unfold cDel
      split
      · rename_i e; subst e; rw [ih, List.filter_cons_of_neg (by simp [q])]
      · simp only [List.filter_cons, ih]
  have ins : (cIns c k v).filter (fun p => f p.1) = c.filter (fun p => f p.1) := by
    induction c with
    | nil => simp [cIns, q]
    | cons p r ih =>
      obtain ⟨i, w⟩ := p
      unfold cIns
      split
      · rw [List.filter_cons_of_neg (by simp [q])]
      · split
        · rename_i e; subst e; rw [List.filter_cons_of_neg (by simp [q]), List.filter_cons_of_neg (by simp [q])]
        · simp only [List.filter_cons]
          rw [ih (by
            unfold cDel at del
            split at del
            · rename_i _ e1 e2; exact absurd e2.symm e1
            · simp only [List.filter_cons] at del
              split at del
              · exact (List.cons.injEq .. ▸ del).2
              · exact del)]
  unfold cPut
  split
  · exact del
  · exact ins

theorem roPut_kept {o : Nat} {v : Word} (k : Kept h0 h) (q : keptReg o = false) : Kept h0 (roPut o v h) := by
  unfold Kept at *; rw [← k]; simp only [Hw.fixed, roPut, Hw.setRo, filter_cPut _ _ _ _ keptReg q]
theorem noteHw_kept {o : Nat} {m : Word} (k : Kept h0 h) : Kept h0 (noteHw o m h) := k
theorem roSet_kept {o : Nat} {v : Word} (k : Kept h0 h) (q : keptReg o = false) : Kept h0 (roSet o v h) := noteHw_kept (roPut_kept k q)
theorem sticky_kept {o : Nat} {m : Word} (k : Kept h0 h) (q : keptReg o = false) : Kept h0 (sticky o m h) := noteHw_kept (roPut_kept k q)
theorem err_kept {p b : Nat} (k : Kept h0 h) (q : keptReg (rg p 0x10) = false) : Kept h0 (err p b h) := sticky_kept k q
theorem cnt_kept {p o n : Nat} (k : Kept h0 h) (q : keptReg (rg p o) = false) : Kept h0 (cnt p o n h) := roPut_kept k q
theorem cntW_kept {p o n w : Nat} (k : Kept h0 h) (q : keptReg (rg p o) = false) : Kept h0 (cntW p o n h w) := roPut_kept k q
theorem put_kept {p o n : Nat} (k : Kept h0 h) (q : keptReg (rg p o) = false) : Kept h0 (put p o n h) := roPut_kept k q
theorem setPwr_kept {b p} (k : Kept h0 h) : Kept h0 (setPwr b p h) := k
theorem setBank_kept {b p} (k : Kept h0 h) : Kept h0 (setBank b p h) := k









theorem ev_kept {e n : Nat} {h : Hw} (hk : Kept h0 h) : Kept h0 (ev e n h) := by
  unfold ev
  repeat' first
    | (with_reducible assumption) | (with_reducible apply sticky_kept)
    | (with_reducible apply foldl_kept) | (with_reducible apply ite_kept) | (with_reducible intro _ _ _) | split | dsimp only | ((with_reducible show _ = _) <;> first | exact rfl | decide | (apply keptReg_hi; (try unfold stageOff); unfold rg; omega)) | (with_reducible apply modPerf_kept)

theorem report_kept {kind : Nat} {place : Bool} {src cls : Nat} {wmask : Word} {rid : Rid} {h : Hw} {iseq : Nat} (hk : Kept h0 h) : Kept h0 (report kind place src cls wmask rid h iseq) := by
  unfold report
  repeat' first
    | (with_reducible assumption) | (with_reducible apply err_kept) | (with_reducible apply cnt_kept) | (with_reducible apply ev_kept)
    | (with_reducible apply foldl_kept) | (with_reducible apply ite_kept) | (with_reducible intro _ _ _) | split | dsimp only | ((with_reducible show _ = _) <;> first | exact rfl | decide | (apply keptReg_hi; (try unfold stageOff); unfold rg; omega)) | (with_reducible apply modDiag_kept)

theorem send_kept {p : Port} {v : Nat} {m : OutMsg} (k : Kept h0 h) : Kept h0 (send p v m h) := k


theorem pwrAsk_kept {b : Nat} {x : PwrSt} {h : Hw} (hk : Kept h0 h) : Kept h0 (pwrAsk b x h) := by
  unfold pwrAsk
  repeat' first
    | (with_reducible assumption) | (with_reducible apply setPwr_kept)
    | (with_reducible apply foldl_kept) | (with_reducible apply ite_kept) | (with_reducible intro _ _ _) | split | dsimp only | ((with_reducible show _ = _) <;> first | exact rfl | decide | (apply keptReg_hi; (try unfold stageOff); unfold rg; omega))


theorem enqOp_kept {op : BankOp} {h : Hw} (hk : Kept h0 h) : Kept h0 (enqOp op h) := by
  unfold enqOp
  repeat' first
    | (with_reducible assumption) | (with_reducible apply ev_kept) | (with_reducible apply pwrAsk_kept) | (with_reducible apply setBank_kept)
    | (with_reducible apply foldl_kept) | (with_reducible apply ite_kept) | (with_reducible intro _ _ _) | split | dsimp only | ((with_reducible show _ = _) <;> first | exact rfl | decide | (apply keptReg_hi; (try unfold stageOff); unfold rg; omega))

theorem setTag_kept {s w : Nat} {t : Tag} (k : Kept h0 h) : Kept h0 (setTag s w t h) := k

theorem dropTag_kept {set way : Nat} {h : Hw} (hk : Kept h0 h) : Kept h0 (dropTag set way h) := by
  unfold dropTag
  repeat' first
    | (with_reducible assumption) | (with_reducible apply setTag_kept)
    | (with_reducible apply foldl_kept) | (with_reducible apply ite_kept) | (with_reducible intro _ _ _) | split | dsimp only | ((with_reducible show _ = _) <;> first | exact rfl | decide | (apply keptReg_hi; (try unfold stageOff); unfold rg; omega))

theorem tagErrs_kept {ln : Nat} {rid : Rid} {h : Hw} (hk : Kept h0 h) : Kept h0 (tagErrs ln rid h) := by
  unfold tagErrs
  repeat' first
    | (with_reducible assumption) | (with_reducible apply err_kept) | (with_reducible apply cnt_kept) | (with_reducible apply report_kept) | (with_reducible apply setTag_kept) | (with_reducible apply dropTag_kept)
    | (with_reducible apply foldl_kept) | (with_reducible apply ite_kept) | (with_reducible intro _ _ _) | split | dsimp only | ((with_reducible show _ = _) <;> first | exact rfl | decide | (apply keptReg_hi; (try unfold stageOff); unfold rg; omega)) | (with_reducible apply setProt_kept)

theorem touchSet_kept {s w : Nat} {b : Bool} (k : Kept h0 h) : Kept h0 (touchSet s w b h) := k

theorem poolEv_kept {p : Pool} {h : Hw} (hk : Kept h0 h) : Kept h0 (poolEv p h) := by
  unfold poolEv
  repeat' first
    | (with_reducible assumption) | (with_reducible apply ev_kept)
    | (with_reducible apply foldl_kept) | (with_reducible apply ite_kept) | (with_reducible intro _ _ _) | split | dsimp only | ((with_reducible show _ = _) <;> first | exact rfl | decide | (apply keptReg_hi; (try unfold stageOff); unfold rg; omega))

theorem newEnt_kept {i : Nat} {e : Ent} {h : Hw} (hk : Kept h0 h) : Kept h0 (newEnt i e h) := by
  unfold newEnt
  repeat' first
    | (with_reducible assumption) | (with_reducible apply poolEv_kept)
    | (with_reducible apply foldl_kept) | (with_reducible apply ite_kept) | (with_reducible intro _ _ _) | split | dsimp only | ((with_reducible show _ = _) <;> first | exact rfl | decide | (apply keptReg_hi; (try unfold stageOff); unfold rg; omega)) | (with_reducible apply modCore_kept)

theorem drew_kept  (k : Kept h0 h) : Kept h0 (drew  h) := k

theorem newVictim_kept {r : Req} {set way : Nat} {h : Hw} {x : Nat × Hw} (k : Kept h0 h) (q : newVictim r set way h = some x) : Kept h0 x.2 := by
  unfold newVictim at q
  split at q
  · cases q
    exact enqOp_kept (ev_kept (drew_kept (newEnt_kept k)))
  · cases q

theorem allocLine_kept2 {r : Req} {ln : Nat} {dirty : Bool} {h : Hw} (hk : Kept h0 h) : Kept h0 (allocLine r ln dirty h).2 := by
  unfold allocLine
  repeat' first
    | (with_reducible assumption) | (with_reducible apply ev_kept) | (with_reducible apply setTag_kept) | (refine newVictim_kept ?_ ‹newVictim _ _ _ _ = some _›)
    | (with_reducible apply foldl_kept) | (with_reducible apply ite_kept) | (with_reducible intro _ _ _) | split | dsimp only | ((with_reducible show _ = _) <;> first | exact rfl | decide | (apply keptReg_hi; (try unfold stageOff); unfold rg; omega))

theorem allocLine_kept {r : Req} {ln : Nat} {dirty : Bool} {h : Hw} {y0 : Alloc} {h1 : Hw} (hk : Kept h0 h) (q : allocLine r ln dirty h = (y0, h1)) : Kept h0 h1 := by
  have := allocLine_kept2 (h0 := h0) (r := r) (ln := ln) (dirty := dirty) (h := h) hk; rw [q] at this; exact this

theorem fillTouch_kept {r : Req} {ln way : Nat} {h : Hw} (hk : Kept h0 h) : Kept h0 (fillTouch r ln way h) := by
  unfold fillTouch
  repeat' first
    | (with_reducible assumption) | (with_reducible apply touchSet_kept)
    | (with_reducible apply foldl_kept) | (with_reducible apply ite_kept) | (with_reducible intro _ _ _) | split | dsimp only | ((with_reducible show _ = _) <;> first | exact rfl | decide | (apply keptReg_hi; (try unfold stageOff); unfold rg; omega))

theorem setSf_kept {s n : Nat} {e : SfEnt} (k : Kept h0 h) : Kept h0 (setSf s n e h) := k

theorem fenceLoss_kept {ln : Nat} {x : BitVec 12} {h : Hw} (hk : Kept h0 h) : Kept h0 (fenceLoss ln x h) := by
  unfold fenceLoss
  repeat' first
    | (with_reducible assumption) | (with_reducible apply err_kept) | (with_reducible apply cnt_kept) | (with_reducible apply report_kept)
    | (with_reducible apply foldl_kept) | (with_reducible apply ite_kept) | (with_reducible intro _ _ _) | split | dsimp only | ((with_reducible show _ = _) <;> first | exact rfl | decide | (apply keptReg_hi; (try unfold stageOff); unfold rg; omega))

theorem sfFix_kept {s : Nat} {rid : Rid} {h : Hw} (hk : Kept h0 h) : Kept h0 (sfFix s rid h) := by
  unfold sfFix
  repeat' first
    | (with_reducible assumption) | (with_reducible apply report_kept) | (with_reducible apply setSf_kept)
    | (with_reducible apply foldl_kept) | (with_reducible apply ite_kept) | (with_reducible intro _ _ _) | split | dsimp only | ((with_reducible show _ = _) <;> first | exact rfl | decide | (apply keptReg_hi; (try unfold stageOff); unfold rg; omega))

theorem sfRead_kept {ln : Nat} {rid : Rid} {h : Hw} (hk : Kept h0 h) : Kept h0 (sfRead ln rid h) := by
  unfold sfRead
  repeat' first
    | (with_reducible assumption) | (with_reducible apply setSf_kept) | (with_reducible apply sfFix_kept)
    | (with_reducible apply foldl_kept) | (with_reducible apply ite_kept) | (with_reducible intro _ _ _) | split | dsimp only | ((with_reducible show _ = _) <;> first | exact rfl | decide | (apply keptReg_hi; (try unfold stageOff); unfold rg; omega)) | (with_reducible apply modHome_kept) | (with_reducible apply setProt_kept)

theorem sfErrs_kept2 {ln : Nat} {rid : Rid} {h : Hw} (hk : Kept h0 h) : Kept h0 (sfErrs ln rid h).1 := by
  unfold sfErrs
  repeat' first
    | (with_reducible assumption) | (with_reducible apply setSf_kept) | (with_reducible apply sfRead_kept)
    | (with_reducible apply foldl_kept) | (with_reducible apply ite_kept) | (with_reducible intro _ _ _) | split | dsimp only | ((with_reducible show _ = _) <;> first | exact rfl | decide | (apply keptReg_hi; (try unfold stageOff); unfold rg; omega))

theorem sfErrs_kept {ln : Nat} {rid : Rid} {h : Hw} {y0 : Bool} {h1 : Hw} (hk : Kept h0 h) (q : sfErrs ln rid h = (h1, y0)) : Kept h0 h1 := by
  have := sfErrs_kept2 (h0 := h0) (ln := ln) (rid := rid) (h := h) hk; rw [q] at this; exact this

theorem sfLook_kept2 {c : Cells Word} {ln : Nat} {rid : Rid} {touch : Bool} {h : Hw} (hk : Kept h0 h) :
    Kept h0 (sfLook c ln rid touch h).2 := by
  unfold sfLook
  rcases he : sfErrs ln rid h with ⟨h1, all⟩
  have k2 : Kept h0 h1 := sfErrs_kept hk he
  dsimp only
  rcases sfFind h1 ln with _ | ⟨n, e⟩
  · exact k2
  · dsimp only
    have k3 : Kept h0 (setSf (setOf ln) n (SfEnt.unfence c h1 e).1 h1) := setSf_kept k2
    generalize setSf (setOf ln) n (SfEnt.unfence c h1 e).1 h1 = h3 at k3 ⊢
    generalize ((SfEnt.unfence c h1 e).2).filter (fun x => !(snooped h1 ln x)) = o
    have k4 : Kept h0 (match o with | some x => fenceLoss ln x h3 | none => h3) := by
      split
      · exact fenceLoss_kept k3
      · exact k3
    split
    · exact modHome_kept k4 rfl
    · exact k4
theorem sfLook_kept {c : Cells Word} {ln : Nat} {rid : Rid} {touch : Bool} {h : Hw} {y0 : SfLook} {h1 : Hw} (hk : Kept h0 h)
    (q : sfLook c ln rid touch h = (y0, h1)) : Kept h0 h1 := by
  have := sfLook_kept2 (h0 := h0) (c := c) (ln := ln) (rid := rid) (touch := touch) (h := h) hk; rw [q] at this; exact this

theorem sfChange_kept {ln : Nat} {f : SfEnt → SfEnt} {h : Hw} (hk : Kept h0 h) : Kept h0 (sfChange ln f h) := by
  unfold sfChange
  repeat' first
    | (with_reducible assumption) | (with_reducible apply setSf_kept)
    | (with_reducible apply foldl_kept) | (with_reducible apply ite_kept) | (with_reducible intro _ _ _) | split | dsimp only | ((with_reducible show _ = _) <;> first | exact rfl | decide | (apply keptReg_hi; (try unfold stageOff); unfold rg; omega))

theorem sfReserve_kept {ln n : Nat} {h : Hw} (hk : Kept h0 h) : Kept h0 (sfReserve ln n h) := by
  unfold sfReserve
  repeat' first
    | (with_reducible assumption) | (with_reducible apply ev_kept) | (with_reducible apply setSf_kept)
    | (with_reducible apply foldl_kept) | (with_reducible apply ite_kept) | (with_reducible intro _ _ _) | split | dsimp only | ((with_reducible show _ = _) <;> first | exact rfl | decide | (apply keptReg_hi; (try unfold stageOff); unfold rg; omega)) | (with_reducible apply modHome_kept)

theorem sfKeep_kept {ln : Nat} {h : Hw} (hk : Kept h0 h) : Kept h0 (sfKeep ln h) := by
  unfold sfKeep
  repeat' first
    | (with_reducible assumption) | (with_reducible apply sfReserve_kept)
    | (with_reducible apply foldl_kept) | (with_reducible apply ite_kept) | (with_reducible intro _ _ _) | split | dsimp only | ((with_reducible show _ = _) <;> first | exact rfl | decide | (apply keptReg_hi; (try unfold stageOff); unfold rg; omega))

theorem updEnt_kept {i : Nat} {f : Ent → Ent} (k : Kept h0 h) : Kept h0 (updEnt i f h) := k

theorem setTodo_kept {i : Nat} {l : List Act} {h : Hw} (hk : Kept h0 h) : Kept h0 (setTodo i l h) := by
  unfold setTodo
  repeat' first
    | (with_reducible assumption) | (with_reducible apply updEnt_kept)
    | (with_reducible apply foldl_kept) | (with_reducible apply ite_kept) | (with_reducible intro _ _ _) | split | dsimp only | ((with_reducible show _ = _) <;> first | exact rfl | decide | (apply keptReg_hi; (try unfold stageOff); unfold rg; omega))

theorem popAct_kept {i : Nat} {h : Hw} (hk : Kept h0 h) : Kept h0 (popAct i h) := by
  unfold popAct
  repeat' first
    | (with_reducible assumption) | (with_reducible apply updEnt_kept)
    | (with_reducible apply foldl_kept) | (with_reducible apply ite_kept) | (with_reducible intro _ _ _) | split | dsimp only | ((with_reducible show _ = _) <;> first | exact rfl | decide | (apply keptReg_hi; (try unfold stageOff); unfold rg; omega))

theorem expand_kept {i : Nat} {l : List Act} {h : Hw} (hk : Kept h0 h) : Kept h0 (expand i l h) := by
  unfold expand
  repeat' first
    | (with_reducible assumption) | (with_reducible apply updEnt_kept)
    | (with_reducible apply foldl_kept) | (with_reducible apply ite_kept) | (with_reducible intro _ _ _) | split | dsimp only | ((with_reducible show _ = _) <;> first | exact rfl | decide | (apply keptReg_hi; (try unfold stageOff); unfold rg; omega))

theorem setBusy_kept {i : Nat} {h : Hw} (hk : Kept h0 h) : Kept h0 (setBusy i h) := by
  unfold setBusy
  repeat' first
    | (with_reducible assumption) | (with_reducible apply updEnt_kept)
    | (with_reducible apply foldl_kept) | (with_reducible apply ite_kept) | (with_reducible intro _ _ _) | split | dsimp only | ((with_reducible show _ = _) <;> first | exact rfl | decide | (apply keptReg_hi; (try unfold stageOff); unfold rg; omega))

theorem dropLeaving_kept {k : LineKey} {h : Hw} (hk : Kept h0 h) : Kept h0 (dropLeaving k h) := by
  unfold dropLeaving
  repeat' first
    | (with_reducible assumption) | (with_reducible apply dropTag_kept)
    | (with_reducible apply foldl_kept) | (with_reducible apply ite_kept) | (with_reducible intro _ _ _) | split | dsimp only | ((with_reducible show _ = _) <;> first | exact rfl | decide | (apply keptReg_hi; (try unfold stageOff); unfold rg; omega))

theorem recLoss_kept {src cls : Nat} {words : Word} {iseq : Nat} {h : Hw} (hk : Kept h0 h) : Kept h0 (recLoss src cls words iseq h) := by
  unfold recLoss
  repeat' first
    | (with_reducible assumption) | (with_reducible apply err_kept) | (with_reducible apply cnt_kept) | (with_reducible apply report_kept)
    | (with_reducible apply foldl_kept) | (with_reducible apply ite_kept) | (with_reducible intro _ _ _) | split | dsimp only | ((with_reducible show _ = _) <;> first | exact rfl | decide | (apply keptReg_hi; (try unfold stageOff); unfold rg; omega))

theorem markDirty_kept {k : LineKey} {way secs : Nat} {h : Hw} (hk : Kept h0 h) : Kept h0 (markDirty k way secs h) := by
  unfold markDirty
  repeat' first
    | (with_reducible assumption) | (with_reducible apply setTag_kept)
    | (with_reducible apply foldl_kept) | (with_reducible apply ite_kept) | (with_reducible intro _ _ _) | split | dsimp only | ((with_reducible show _ = _) <;> first | exact rfl | decide | (apply keptReg_hi; (try unfold stageOff); unfold rg; omega))

theorem hitTouch_kept {r : Req} {k : LineKey} {way : Nat} {h : Hw} (hk : Kept h0 h) : Kept h0 (hitTouch r k way h) := by
  unfold hitTouch
  repeat' first
    | (with_reducible assumption) | (with_reducible apply touchSet_kept)
    | (with_reducible apply foldl_kept) | (with_reducible apply ite_kept) | (with_reducible intro _ _ _) | split | dsimp only | ((with_reducible show _ = _) <;> first | exact rfl | decide | (apply keptReg_hi; (try unfold stageOff); unfold rg; omega))

theorem stampAt_kept {p n t : Nat} (k : Kept h0 h) : Kept h0 (stampAt p n t h) := k

theorem stamp_kept {p : Nat} {iseq : Nat} {h : Hw} (hk : Kept h0 h) : Kept h0 (stamp p iseq h) := by
  unfold stamp
  repeat' first
    | (with_reducible assumption) | (with_reducible apply stampAt_kept)
    | (with_reducible apply foldl_kept) | (with_reducible apply ite_kept) | (with_reducible intro _ _ _) | split | dsimp only | ((with_reducible show _ = _) <;> first | exact rfl | decide | (apply keptReg_hi; (try unfold stageOff); unfold rg; omega))

theorem outcome_kept {n m : Nat} (k : Kept h0 h) : Kept h0 (outcome n m h) := k

theorem sampleEnd_kept {iseq : Nat} {lost : Bool} {h : Hw} (hk : Kept h0 h) : Kept h0 (sampleEnd iseq lost h) := by
  unfold sampleEnd
  repeat' first
    | (with_reducible assumption) | (with_reducible apply put_kept)
    | (with_reducible apply foldl_kept) | (with_reducible apply ite_kept) | (with_reducible intro _ _ _) | split | dsimp only | ((with_reducible show _ = _) <;> first | exact rfl | decide | (apply keptReg_hi; (try unfold stageOff); unfold rg; omega)) | (with_reducible apply modPerf_kept)

theorem sendSnp_kept {c : Cells Word} {i : Nat} {e : Ent} {s : Snp} {h : Hw} (hk : Kept h0 h) : Kept h0 (sendSnp c i e s h) := by
  unfold sendSnp
  repeat' first
    | (with_reducible assumption) | (with_reducible apply send_kept)
    | (with_reducible apply foldl_kept) | (with_reducible apply ite_kept) | (with_reducible intro _ _ _) | split | dsimp only | ((with_reducible show _ = _) <;> first | exact rfl | decide | (apply keptReg_hi; (try unfold stageOff); unfold rg; omega))

theorem sendSnoops_kept {c : Cells Word} {i li : Nat} {k : SnpKind} {l grp : List (BitVec 12)} {own : Bool} {h : Hw} (hk : Kept h0 h) : Kept h0 (sendSnoops c i li k l grp own h) := by
  unfold sendSnoops
  repeat' first
    | (with_reducible assumption) | (with_reducible apply send_kept) | (with_reducible apply updEnt_kept) | (with_reducible apply sendSnp_kept)
    | (with_reducible apply foldl_kept) | (with_reducible apply ite_kept) | (with_reducible intro _ _ _) | split | dsimp only | ((with_reducible show _ = _) <;> first | exact rfl | decide | (apply keptReg_hi; (try unfold stageOff); unfold rg; omega))

theorem snoopCopies_kept {c : Cells Word} {i li : Nat} {k : SnpKind} {se : SfEnt} {req : Option (BitVec 12)} {ptr : Bool} {h : Hw} (hk : Kept h0 h) : Kept h0 (snoopCopies c i li k se req ptr h) := by
  unfold snoopCopies
  repeat' first
    | (with_reducible assumption) | (with_reducible apply sendSnoops_kept)
    | (with_reducible apply foldl_kept) | (with_reducible apply ite_kept) | (with_reducible intro _ _ _) | split | dsimp only | ((with_reducible show _ = _) <;> first | exact rfl | decide | (apply keptReg_hi; (try unfold stageOff); unfold rg; omega))

theorem xpAsk_kept {i l x s : Nat} (k : Kept h0 h) : Kept h0 (xpAsk i l x s h) := k

theorem xpWrite_kept {l : List XpWr} (k : Kept h0 h) : Kept h0 (xpWrite l h) := k

theorem complete_kept {i : Nat} {e : Ent} {data : Option (List PWord)} {code : BitVec 3} {arg2 : BitVec 32} {h : Hw} {last : Bool} (hk : Kept h0 h) : Kept h0 (complete i e data code arg2 h last) := by
  unfold complete
  repeat' first
    | (with_reducible assumption) | (with_reducible apply send_kept)
    | (with_reducible apply foldl_kept) | (with_reducible apply ite_kept) | (with_reducible intro _ _ _) | split | dsimp only | ((with_reducible show _ = _) <;> first | exact rfl | decide | (apply keptReg_hi; (try unfold stageOff); unfold rg; omega))

theorem respond_kept {i : Nat} {h : Hw} (hk : Kept h0 h) : Kept h0 (respond i h) := by
  unfold respond
  repeat' first
    | (with_reducible assumption) | (with_reducible apply send_kept) | (with_reducible apply complete_kept)
    | (with_reducible apply foldl_kept) | (with_reducible apply ite_kept) | (with_reducible intro _ _ _) | split | dsimp only | ((with_reducible show _ = _) <;> first | exact rfl | decide | (apply keptReg_hi; (try unfold stageOff); unfold rg; omega))

theorem dirUpdate_kept {e : Ent} {h : Hw} (hk : Kept h0 h) : Kept h0 (dirUpdate e h) := by
  unfold dirUpdate
  repeat' first
    | (with_reducible assumption) | (with_reducible apply ev_kept) | (with_reducible apply setSf_kept)
    | (with_reducible apply foldl_kept) | (with_reducible apply ite_kept) | (with_reducible intro _ _ _) | split | dsimp only | ((with_reducible show _ = _) <;> first | exact rfl | decide | (apply keptReg_hi; (try unfold stageOff); unfold rg; omega))

theorem sfDrop_kept {ln : Nat} {h : Hw} (hk : Kept h0 h) : Kept h0 (sfDrop ln h) := by
  unfold sfDrop
  repeat' first
    | (with_reducible assumption) | (with_reducible apply setSf_kept)
    | (with_reducible apply foldl_kept) | (with_reducible apply ite_kept) | (with_reducible intro _ _ _) | split | dsimp only | ((with_reducible show _ = _) <;> first | exact rfl | decide | (apply keptReg_hi; (try unfold stageOff); unfold rg; omega))

theorem freeEnt_kept {i : Nat} {h : Hw} (hk : Kept h0 h) : Kept h0 (freeEnt i h) := by
  unfold freeEnt
  repeat' first
    | (with_reducible assumption) | (with_reducible apply sampleEnd_kept)
    | (with_reducible apply foldl_kept) | (with_reducible apply ite_kept) | (with_reducible intro _ _ _) | split | dsimp only | ((with_reducible show _ = _) <;> first | exact rfl | decide | (apply keptReg_hi; (try unfold stageOff); unfold rg; omega)) | (with_reducible apply modCore_kept)

theorem updJig_kept {n : Nat} {f : JigEnt → JigEnt} (k : Kept h0 h) : Kept h0 (updJig n f h) := k

theorem jigXp_kept {n : Nat} {j : JigEnt} {old : List PWord} {h : Hw} (hk : Kept h0 h) : Kept h0 (jigXp n j old h) := by
  unfold jigXp
  repeat' first
    | (with_reducible assumption) | (with_reducible apply ev_kept) | (with_reducible apply report_kept) | (with_reducible apply xpWrite_kept) | (with_reducible apply updJig_kept)
    | (with_reducible apply foldl_kept) | (with_reducible apply ite_kept) | (with_reducible intro _ _ _) | split | dsimp only | ((with_reducible show _ = _) <;> first | exact rfl | decide | (apply keptReg_hi; (try unfold stageOff); unfold rg; omega))

theorem jigEnd_kept {early : Bool} {n : Nat} {h : Hw} (hk : Kept h0 h) : Kept h0 (jigEnd early n h) := by
  unfold jigEnd
  repeat' first
    | (with_reducible assumption) | (with_reducible apply ev_kept) | (with_reducible apply enqOp_kept) | (with_reducible apply updJig_kept) | (with_reducible apply jigXp_kept)
    | (with_reducible apply foldl_kept) | (with_reducible apply ite_kept) | (with_reducible intro _ _ _) | split | dsimp only | ((with_reducible show _ = _) <;> first | exact rfl | decide | (apply keptReg_hi; (try unfold stageOff); unfold rg; omega))

theorem jigEndLine_kept {k : LineKey} {h : Hw} (hk : Kept h0 h) : Kept h0 (jigEndLine k h) := by
  unfold jigEndLine
  repeat' first
    | (with_reducible assumption) | (with_reducible apply jigEnd_kept)
    | (with_reducible apply foldl_kept) | (with_reducible apply ite_kept) | (with_reducible intro _ _ _) | split | dsimp only | ((with_reducible show _ = _) <;> first | exact rfl | decide | (apply keptReg_hi; (try unfold stageOff); unfold rg; omega))

theorem jigAccept_kept {c : Cells Word} {i : Nat} {e : Ent} {place : Option (Nat × Nat)} {h : Hw} (hk : Kept h0 h) : Kept h0 (jigAccept c i e place h) := by
  unfold jigAccept
  repeat' first
    | (with_reducible assumption) | (with_reducible apply ev_kept) | (with_reducible apply updEnt_kept) | (with_reducible apply markDirty_kept) | (with_reducible apply stamp_kept) | (with_reducible apply jigEnd_kept)
    | (with_reducible apply foldl_kept) | (with_reducible apply ite_kept) | (with_reducible intro _ _ _) | split | dsimp only | ((with_reducible show _ = _) <;> first | exact rfl | decide | (apply keptReg_hi; (try unfold stageOff); unfold rg; omega)) | (with_reducible apply modNear_kept)

theorem jigPass_kept {c : Cells Word} {i : Nat} {e : Ent} {h : Hw} (hk : Kept h0 h) : Kept h0 (jigPass c i e h) := by
  unfold jigPass
  repeat' first
    | (with_reducible assumption) | (with_reducible apply popAct_kept) | (with_reducible apply expand_kept) | (with_reducible apply jigAccept_kept)
    | (with_reducible apply foldl_kept) | (with_reducible apply ite_kept) | (with_reducible intro _ _ _) | split | dsimp only | ((with_reducible show _ = _) <;> first | exact rfl | decide | (apply keptReg_hi; (try unfold stageOff); unfold rg; omega))

theorem updAlb_kept {n : Nat} {f : AlbEnt → AlbEnt} (k : Kept h0 h) : Kept h0 (updAlb n f h) := k

theorem albStart_kept {n : Nat} {h : Hw} (hk : Kept h0 h) : Kept h0 (albStart n h) := by
  unfold albStart
  repeat' first
    | (with_reducible assumption) | (with_reducible apply enqOp_kept) | (with_reducible apply touchSet_kept) | (with_reducible apply allocLine_kept2) | (refine allocLine_kept ?_ ‹allocLine _ _ _ _ = _›) | (with_reducible apply dropLeaving_kept) | (with_reducible apply markDirty_kept) | (with_reducible apply xpWrite_kept) | (with_reducible apply updAlb_kept)
    | (with_reducible apply foldl_kept) | (with_reducible apply ite_kept) | (with_reducible intro _ _ _) | split | dsimp only | ((with_reducible show _ = _) <;> first | exact rfl | decide | (apply keptReg_hi; (try unfold stageOff); unfold rg; omega))

theorem albWb_kept {who : Who} {n : Nat} {h : Hw} (hk : Kept h0 h) : Kept h0 (albWb who n h) := by
  unfold albWb
  repeat' first
    | (with_reducible assumption) | (with_reducible apply updAlb_kept) | (with_reducible apply albStart_kept)
    | (with_reducible apply foldl_kept) | (with_reducible apply ite_kept) | (with_reducible intro _ _ _) | split | dsimp only | ((with_reducible show _ = _) <;> first | exact rfl | decide | (apply keptReg_hi; (try unfold stageOff); unfold rg; omega))

theorem albUse_kept {n : Nat} {upd : Option Rid} {h : Hw} (hk : Kept h0 h) : Kept h0 (albUse n upd h) := by
  unfold albUse
  repeat' first
    | (with_reducible assumption) | (with_reducible apply stamp_kept) | (with_reducible apply updAlb_kept)
    | (with_reducible apply foldl_kept) | (with_reducible apply ite_kept) | (with_reducible intro _ _ _) | split | dsimp only | ((with_reducible show _ = _) <;> first | exact rfl | decide | (apply keptReg_hi; (try unfold stageOff); unfold rg; omega)) | (with_reducible apply modNear_kept)

theorem dispatchCells_kept {i : Nat} {e : Ent} {h : Hw} (hk : Kept h0 h) : Kept h0 (dispatchCells i e h) := by
  unfold dispatchCells
  repeat' first
    | (with_reducible assumption) | (with_reducible apply setBusy_kept) | (with_reducible apply stamp_kept)
    | (with_reducible apply foldl_kept) | (with_reducible apply ite_kept) | (with_reducible intro _ _ _) | split | dsimp only | ((with_reducible show _ = _) <;> first | exact rfl | decide | (apply keptReg_hi; (try unfold stageOff); unfold rg; omega)) | (with_reducible apply modNear_kept)

theorem tangoServe_kept {c : Cells Word} {i : Nat} {e : Ent} {h : Hw} (hk : Kept h0 h) : Kept h0 (tangoServe c i e h) := by
  unfold tangoServe
  repeat' first
    | (with_reducible assumption) | (with_reducible apply sticky_kept) | (with_reducible apply err_kept) | (with_reducible apply cnt_kept) | (with_reducible apply report_kept) | (with_reducible apply updEnt_kept) | (with_reducible apply popAct_kept) | (with_reducible apply albUse_kept)
    | (with_reducible apply foldl_kept) | (with_reducible apply ite_kept) | (with_reducible intro _ _ _) | split | dsimp only | ((with_reducible show _ = _) <;> first | exact rfl | decide | (apply keptReg_hi; (try unfold stageOff); unfold rg; omega))

theorem descPoison_kept {c : Cells Word} {e : Ent} {d : Desc} {h : Hw} (hk : Kept h0 h) : Kept h0 (descPoison c e d h) := by
  unfold descPoison
  repeat' first
    | (with_reducible assumption) | (with_reducible apply err_kept) | (with_reducible apply report_kept)
    | (with_reducible apply foldl_kept) | (with_reducible apply ite_kept) | (with_reducible intro _ _ _) | split | dsimp only | ((with_reducible show _ = _) <;> first | exact rfl | decide | (apply keptReg_hi; (try unfold stageOff); unfold rg; omega))

theorem queDecide_kept {c : Cells Word} {i : Nat} {e : Ent} {h : Hw} (hk : Kept h0 h) : Kept h0 (queDecide c i e h) := by
  unfold queDecide
  repeat' first
    | (with_reducible assumption) | (with_reducible apply updEnt_kept) | (with_reducible apply setTodo_kept) | (with_reducible apply descPoison_kept)
    | (with_reducible apply foldl_kept) | (with_reducible apply ite_kept) | (with_reducible intro _ _ _) | split | dsimp only | ((with_reducible show _ = _) <;> first | exact rfl | decide | (apply keptReg_hi; (try unfold stageOff); unfold rg; omega))

theorem queCollect_kept {i : Nat} {e : Ent} {h : Hw} (hk : Kept h0 h) : Kept h0 (queCollect i e h) := by
  unfold queCollect
  repeat' first
    | (with_reducible assumption) | (with_reducible apply updEnt_kept) | (with_reducible apply popAct_kept)
    | (with_reducible apply foldl_kept) | (with_reducible apply ite_kept) | (with_reducible intro _ _ _) | split | dsimp only | ((with_reducible show _ = _) <;> first | exact rfl | decide | (apply keptReg_hi; (try unfold stageOff); unfold rg; omega))

theorem queCmdGo_kept {i : Nat} {e : Ent} {code : Nat} {h : Hw} (hk : Kept h0 h) : Kept h0 (queCmdGo i e code h) := by
  unfold queCmdGo
  repeat' first
    | (with_reducible assumption) | (with_reducible apply roSet_kept) | (with_reducible apply err_kept) | (with_reducible apply updEnt_kept) | (with_reducible apply setTodo_kept)
    | (with_reducible apply foldl_kept) | (with_reducible apply ite_kept) | (with_reducible intro _ _ _) | split | dsimp only | ((with_reducible show _ = _) <;> first | exact rfl | decide | (apply keptReg_hi; (try unfold stageOff); unfold rg; omega))

theorem evtClearGo_kept {i : Nat} {e : Ent} {b : Nat} {h : Hw} (hk : Kept h0 h) : Kept h0 (evtClearGo i e b h) := by
  unfold evtClearGo
  repeat' first
    | (with_reducible assumption) | (with_reducible apply updEnt_kept) | (with_reducible apply setTodo_kept)
    | (with_reducible apply foldl_kept) | (with_reducible apply ite_kept) | (with_reducible intro _ _ _) | split | dsimp only | ((with_reducible show _ = _) <;> first | exact rfl | decide | (apply keptReg_hi; (try unfold stageOff); unfold rg; omega))

theorem selPoison_kept {c : Cells Word} {e : Ent} {ws : List Nat} {h : Hw} (hk : Kept h0 h) : Kept h0 (selPoison c e ws h) := by
  unfold selPoison
  repeat' first
    | (with_reducible assumption) | (with_reducible apply err_kept) | (with_reducible apply cnt_kept) | (with_reducible apply report_kept)
    | (with_reducible apply foldl_kept) | (with_reducible apply ite_kept) | (with_reducible intro _ _ _) | split | dsimp only | ((with_reducible show _ = _) <;> first | exact rfl | decide | (apply keptReg_hi; (try unfold stageOff); unfold rg; omega))

theorem selBegin_kept {i : Nat} {e : Ent} {h : Hw} (hk : Kept h0 h) : Kept h0 (selBegin i e h) := by
  unfold selBegin
  repeat' first
    | (with_reducible assumption) | (with_reducible apply updEnt_kept) | (with_reducible apply setTodo_kept)
    | (with_reducible apply foldl_kept) | (with_reducible apply ite_kept) | (with_reducible intro _ _ _) | split | dsimp only | ((with_reducible show _ = _) <;> first | exact rfl | decide | (apply keptReg_hi; (try unfold stageOff); unfold rg; omega))

theorem selClear_kept {i : Nat} {e : Ent} {t : Rec} {tail : List Act} {h : Hw} (hk : Kept h0 h) : Kept h0 (selClear i e t tail h) := by
  unfold selClear
  repeat' first
    | (with_reducible assumption) | (with_reducible apply updEnt_kept) | (with_reducible apply setTodo_kept)
    | (with_reducible apply foldl_kept) | (with_reducible apply ite_kept) | (with_reducible intro _ _ _) | split | dsimp only | ((with_reducible show _ = _) <;> first | exact rfl | decide | (apply keptReg_hi; (try unfold stageOff); unfold rg; omega))

theorem selGo_kept {c : Cells Word} {i : Nat} {e : Ent} {h : Hw} (hk : Kept h0 h) : Kept h0 (selGo c i e h) := by
  unfold selGo
  repeat' first
    | (with_reducible assumption) | (with_reducible apply updEnt_kept) | (with_reducible apply setTodo_kept) | (with_reducible apply expand_kept) | (with_reducible apply selPoison_kept) | (with_reducible apply selClear_kept)
    | (with_reducible apply foldl_kept) | (with_reducible apply ite_kept) | (with_reducible intro _ _ _) | split | dsimp only | ((with_reducible show _ = _) <;> first | exact rfl | decide | (apply keptReg_hi; (try unfold stageOff); unfold rg; omega))

theorem selCount_kept {i : Nat} {e : Ent} {h : Hw} (hk : Kept h0 h) : Kept h0 (selCount i e h) := by
  unfold selCount
  repeat' first
    | (with_reducible assumption) | (with_reducible apply cntW_kept) | (with_reducible apply ev_kept) | (with_reducible apply popAct_kept)
    | (with_reducible apply foldl_kept) | (with_reducible apply ite_kept) | (with_reducible intro _ _ _) | split | dsimp only | ((with_reducible show _ = _) <;> first | exact rfl | decide | (apply keptReg_hi; (try unfold stageOff); unfold rg; omega))

theorem selCmdGo_kept {i : Nat} {e : Ent} {code : Nat} {h : Hw} (hk : Kept h0 h) : Kept h0 (selCmdGo i e code h) := by
  unfold selCmdGo
  repeat' first
    | (with_reducible assumption) | (with_reducible apply updEnt_kept) | (with_reducible apply setTodo_kept) | (with_reducible apply selClear_kept)
    | (with_reducible apply foldl_kept) | (with_reducible apply ite_kept) | (with_reducible intro _ _ _) | split | dsimp only | ((with_reducible show _ = _) <;> first | exact rfl | decide | (apply keptReg_hi; (try unfold stageOff); unfold rg; omega)) | (with_reducible apply modUnits_kept)

theorem setChan_kept {n : Nat} {x : Chan} (k : Kept h0 h) : Kept h0 (setChan n x h) := k

theorem glpResult_kept {n opn : Nat} {desc : Bool} {code : BitVec 3} {ws : List PWord} {h : Hw} (hk : Kept h0 h) : Kept h0 (glpResult n opn desc code ws h) := by
  unfold glpResult
  repeat' first
    | (with_reducible assumption) | (with_reducible apply err_kept) | (with_reducible apply cnt_kept) | (with_reducible apply cntW_kept) | (with_reducible apply ev_kept) | (with_reducible apply setChan_kept)
    | (with_reducible apply foldl_kept) | (with_reducible apply ite_kept) | (with_reducible intro _ _ _) | split | dsimp only | ((with_reducible show _ = _) <;> first | exact rfl | decide | (apply keptReg_hi; (try unfold stageOff); unfold rg; omega)) | (with_reducible apply setFree_kept)

theorem setCtx_kept {n : Nat} {x : Ctx} (k : Kept h0 h) : Kept h0 (setCtx n x h) := k

theorem reelResult_kept {n line : Nat} {code : BitVec 3} {ws : List PWord} {h : Hw} (hk : Kept h0 h) : Kept h0 (reelResult n line code ws h) := by
  unfold reelResult
  repeat' first
    | (with_reducible assumption) | (with_reducible apply setCtx_kept)
    | (with_reducible apply foldl_kept) | (with_reducible apply ite_kept) | (with_reducible intro _ _ _) | split | dsimp only | ((with_reducible show _ = _) <;> first | exact rfl | decide | (apply keptReg_hi; (try unfold stageOff); unfold rg; omega)) | (with_reducible apply modReel_kept)

theorem lineAgain_kept {n line : Nat} {h : Hw} (hk : Kept h0 h) : Kept h0 (lineAgain n line h) := by
  unfold lineAgain
  repeat' first
    | (with_reducible assumption) | (with_reducible apply setCtx_kept)
    | (with_reducible apply foldl_kept) | (with_reducible apply ite_kept) | (with_reducible intro _ _ _) | split | dsimp only | ((with_reducible show _ = _) <;> first | exact rfl | decide | (apply keptReg_hi; (try unfold stageOff); unfold rg; omega))

theorem engResult_kept {e : Eng} {code : BitVec 3} {ws : List PWord} {h : Hw} (hk : Kept h0 h) : Kept h0 (engResult e code ws h) := by
  unfold engResult
  repeat' first
    | (with_reducible assumption) | (with_reducible apply glpResult_kept) | (with_reducible apply reelResult_kept) | (with_reducible apply lineAgain_kept)
    | (with_reducible apply foldl_kept) | (with_reducible apply ite_kept) | (with_reducible intro _ _ _) | split | dsimp only | ((with_reducible show _ = _) <;> first | exact rfl | decide | (apply keptReg_hi; (try unfold stageOff); unfold rg; omega))

theorem engDeliver_kept {c : Cells Word} {e : Eng} {code : BitVec 3} {ws : List PWord} {h : Hw} (hk : Kept h0 h) :
    Kept h0 (engDeliver c e code ws h) := by
  unfold engDeliver
  exact ite_kept (modGlp_kept hk rfl) (engResult_kept hk)

theorem askOp_kept {i : Nat} {op : BankOp} {h : Hw} (hk : Kept h0 h) : Kept h0 (askOp i op h) := by
  unfold askOp
  repeat' first
    | (with_reducible assumption) | (with_reducible apply enqOp_kept) | (with_reducible apply setBusy_kept)
    | (with_reducible apply foldl_kept) | (with_reducible apply ite_kept) | (with_reducible intro _ _ _) | split | dsimp only | ((with_reducible show _ = _) <;> first | exact rfl | decide | (apply keptReg_hi; (try unfold stageOff); unfold rg; omega))

theorem lrtMoved_kept {way set : Nat} {old : Nat} {h : Hw} (hk : Kept h0 h) : Kept h0 (lrtMoved way set old h) := by
  unfold lrtMoved
  repeat' first
    | (with_reducible assumption) | (with_reducible apply setBank_kept) | (with_reducible apply enqOp_kept)
    | (with_reducible apply foldl_kept) | (with_reducible apply ite_kept) | (with_reducible intro _ _ _) | split | dsimp only | ((with_reducible show _ = _) <;> first | exact rfl | decide | (apply keptReg_hi; (try unfold stageOff); unfold rg; omega))

theorem lrtSet_kept {n way set spare : Nat} {h : Hw} (hk : Kept h0 h) : Kept h0 (lrtSet n way set spare h) := by
  unfold lrtSet
  repeat' first
    | (with_reducible assumption) | (with_reducible apply lrtMoved_kept)
    | (with_reducible apply foldl_kept) | (with_reducible apply ite_kept) | (with_reducible intro _ _ _) | split | dsimp only | ((with_reducible show _ = _) <;> first | exact rfl | decide | (apply keptReg_hi; (try unfold stageOff); unfold rg; omega)) | (with_reducible apply modProt_kept)

theorem lrtClear_kept {way set : Nat} {h : Hw} (hk : Kept h0 h) : Kept h0 (lrtClear way set h) := by
  unfold lrtClear
  repeat' first
    | (with_reducible assumption) | (with_reducible apply lrtMoved_kept)
    | (with_reducible apply foldl_kept) | (with_reducible apply ite_kept) | (with_reducible intro _ _ _) | split | dsimp only | ((with_reducible show _ = _) <;> first | exact rfl | decide | (apply keptReg_hi; (try unfold stageOff); unfold rg; omega)) | (with_reducible apply modProt_kept)

theorem remapReport_kept {way set cls mask : Nat} {h : Hw} (hk : Kept h0 h) : Kept h0 (remapReport way set cls mask h) := by
  unfold remapReport
  repeat' first
    | (with_reducible assumption) | (with_reducible apply report_kept)
    | (with_reducible apply foldl_kept) | (with_reducible apply ite_kept) | (with_reducible intro _ _ _) | split | dsimp only | ((with_reducible show _ = _) <;> first | exact rfl | decide | (apply keptReg_hi; (try unfold stageOff); unfold rg; omega))

theorem repairGo_kept {i : Nat} {e : Ent} {n : Nat} {h : Hw} (hk : Kept h0 h) : Kept h0 (repairGo i e n h) := by
  unfold repairGo
  repeat' first
    | (with_reducible assumption) | (with_reducible apply put_kept) | (with_reducible apply ev_kept) | (with_reducible apply updEnt_kept) | (with_reducible apply popAct_kept) | (with_reducible apply askOp_kept) | (with_reducible apply lrtSet_kept) | (with_reducible apply remapReport_kept)
    | (with_reducible apply foldl_kept) | (with_reducible apply ite_kept) | (with_reducible intro _ _ _) | split | dsimp only | ((with_reducible show _ = _) <;> first | exact rfl | decide | (apply keptReg_hi; (try unfold stageOff); unfold rg; omega))

theorem repairEnd_kept {e : Ent} {h : Hw} (hk : Kept h0 h) : Kept h0 (repairEnd e h) := by
  unfold repairEnd
  repeat' first
    | (with_reducible assumption) | (with_reducible apply ev_kept)
    | (with_reducible apply foldl_kept) | (with_reducible apply ite_kept) | (with_reducible intro _ _ _) | split | dsimp only | ((with_reducible show _ = _) <;> first | exact rfl | decide | (apply keptReg_hi; (try unfold stageOff); unfold rg; omega)) | (with_reducible apply modProt_kept)

theorem chkGo_kept {i : Nat} {e : Ent} {n : Nat} {h : Hw} (hk : Kept h0 h) : Kept h0 (chkGo i e n h) := by
  unfold chkGo
  repeat' first
    | (with_reducible assumption) | (with_reducible apply roSet_kept) | (with_reducible apply put_kept) | (with_reducible apply popAct_kept) | (with_reducible apply askOp_kept)
    | (with_reducible apply foldl_kept) | (with_reducible apply ite_kept) | (with_reducible intro _ _ _) | split | dsimp only | ((with_reducible show _ = _) <;> first | exact rfl | decide | (apply keptReg_hi; (try unfold stageOff); unfold rg; omega)) | (with_reducible apply modProt_kept) | (with_reducible apply modUnits_kept)

theorem lrtGo_kept {i : Nat} {e : Ent} {n : Nat} {h : Hw} (hk : Kept h0 h) : Kept h0 (lrtGo i e n h) := by
  unfold lrtGo
  repeat' first
    | (with_reducible assumption) | (with_reducible apply ev_kept) | (with_reducible apply updEnt_kept) | (with_reducible apply setTodo_kept) | (with_reducible apply popAct_kept) | (with_reducible apply askOp_kept) | (with_reducible apply lrtSet_kept) | (with_reducible apply lrtClear_kept) | (with_reducible apply remapReport_kept)
    | (with_reducible apply foldl_kept) | (with_reducible apply ite_kept) | (with_reducible intro _ _ _) | split | dsimp only | ((with_reducible show _ = _) <;> first | exact rfl | decide | (apply keptReg_hi; (try unfold stageOff); unfold rg; omega)) | (with_reducible apply modUnits_kept)

theorem answerCode_kept {i : Nat} {code : BitVec 3} {h : Hw} (hk : Kept h0 h) : Kept h0 (answerCode i code h) := by
  unfold answerCode
  repeat' first
    | (with_reducible assumption) | (with_reducible apply updEnt_kept) | (with_reducible apply setTodo_kept)
    | (with_reducible apply foldl_kept) | (with_reducible apply ite_kept) | (with_reducible intro _ _ _) | split | dsimp only | ((with_reducible show _ = _) <;> first | exact rfl | decide | (apply keptReg_hi; (try unfold stageOff); unfold rg; omega))

theorem clearLines_kept {i : Nat} {e : Ent} {h : Hw} (hk : Kept h0 h) : Kept h0 (clearLines i e h) := by
  unfold clearLines
  repeat' first
    | (with_reducible assumption) | (with_reducible apply ev_kept) | (with_reducible apply setTodo_kept) | (with_reducible apply outcome_kept) | (with_reducible apply jigEndLine_kept) | (with_reducible apply albWb_kept)
    | (with_reducible apply foldl_kept) | (with_reducible apply ite_kept) | (with_reducible intro _ _ _) | split | dsimp only | ((with_reducible show _ = _) <;> first | exact rfl | decide | (apply keptReg_hi; (try unfold stageOff); unfold rg; omega))

theorem lookTags_kept {r : Req} {h : Hw} (hk : Kept h0 h) : Kept h0 (lookTags r h) := by
  unfold lookTags
  repeat' first
    | (with_reducible assumption) | (with_reducible apply ev_kept) | (with_reducible apply tagErrs_kept) | (with_reducible apply sfRead_kept) | (with_reducible apply dropLeaving_kept)
    | (with_reducible apply foldl_kept) | (with_reducible apply ite_kept) | (with_reducible intro _ _ _) | split | dsimp only | ((with_reducible show _ = _) <;> first | exact rfl | decide | (apply keptReg_hi; (try unfold stageOff); unfold rg; omega))

theorem lookSf_kept {c : Cells Word} {i : Nat} {r : Req} {ln li : Nat} {h : Hw} {y0 : SfLook} {h1 : Hw} (hk : Kept h0 h)
    (q : lookSf c i r ln li h = (y0, h1)) : Kept h0 h1 := by
  unfold lookSf at q
  rcases he : sfLook c ln r.hdr.src (sfTouches r.kind) h with ⟨l, h2⟩
  have k1 := sfLook_kept hk he
  rw [he] at q
  dsimp only at q
  split at q <;> cases q
  · exact updEnt_kept k1
  · exact k1

theorem recallAll_kept {c : Cells Word} {i li : Nat} {h : Hw} (hk : Kept h0 h) : Kept h0 (recallAll c i li h) := by
  unfold recallAll
  repeat' first
    | (with_reducible assumption) | (with_reducible apply sendSnoops_kept)
    | (with_reducible apply foldl_kept) | (with_reducible apply ite_kept) | (with_reducible intro _ _ _) | split | dsimp only | ((with_reducible show _ = _) <;> first | exact rfl | decide | (apply keptReg_hi; (try unfold stageOff); unfold rg; omega))

theorem takeAway_kept {c : Cells Word} {i li : Nat} {k : SnpKind} {l : SfLook} {h : Hw} (hk : Kept h0 h) : Kept h0 (takeAway c i li k l h) := by
  unfold takeAway
  repeat' first
    | (with_reducible assumption) | (with_reducible apply sendSnoops_kept) | (with_reducible apply snoopCopies_kept) | (with_reducible apply recallAll_kept)
    | (with_reducible apply foldl_kept) | (with_reducible apply ite_kept) | (with_reducible intro _ _ _) | split | dsimp only | ((with_reducible show _ = _) <;> first | exact rfl | decide | (apply keptReg_hi; (try unfold stageOff); unfold rg; omega))

theorem readStart_kept {c : Cells Word} {i : Nat} {e : Ent} {ln : Nat} {h : Hw} (hk : Kept h0 h) : Kept h0 (readStart c i e ln h) := by
  unfold readStart
  extract_lets r x
  rcases he : lookSf c i r ln 0 h with ⟨l, h1⟩
  have k1 := lookSf_kept hk he
  clear he
  dsimp -zeta only
  extract_lets se h2 h3 rsv
  have k2 : Kept h0 h2 := by
    unfold h2; clear_value se; split
    · exact recallAll_kept k1
    · split
      · exact k1
      · split <;> first | exact k1 | exact sendSnoops_kept k1 | exact snoopCopies_kept k1 | exact snoopCopies_kept (sendSnoops_kept k1)
  clear_value h2
  refine setTodo_kept ?_
  unfold h3; split
  · exact k2
  · exact outcome_kept k2

theorem requestStart_kept {c : Cells Word} {i : Nat} {e : Ent} {h : Hw} (hk : Kept h0 h) : Kept h0 (requestStart c i e h) := by
  unfold requestStart
  extract_lets r near h1 h2 h3
  have k1 : Kept h0 h1 := ite_kept (outcome_kept hk) hk
  clear_value h1
  have k2 : Kept h0 h2 := foldl_kept k1 fun h p k => by
    split
    · exact k
    · refine ite_kept k ?_
      rcases he : lookSf c i r _ p.2 h with ⟨l, h'⟩
      have k' := lookSf_kept k he
      dsimp only
      split
      · refine ite_kept (recallAll_kept k') ?_
        split
        · exact ite_kept (sendSnoops_kept k') k'
        · exact k'
      · exact takeAway_kept k'
      · exact takeAway_kept k'
  clear_value h2
  exact setTodo_kept (ite_kept k2 (outcome_kept k2))

theorem mntCutEnt_kept {i : Nat} {h : Hw} (hk : Kept h0 h) : Kept h0 (mntCutEnt i h) := by
  unfold mntCutEnt
  repeat' first
    | (with_reducible assumption) | (with_reducible apply cntW_kept) | (with_reducible apply updEnt_kept) | (with_reducible apply setTodo_kept)
    | (with_reducible apply foldl_kept) | (with_reducible apply ite_kept) | (with_reducible intro _ _ _) | split | dsimp only | ((with_reducible show _ = _) <;> first | exact rfl | decide | (apply keptReg_hi; (try unfold stageOff); unfold rg; omega))

theorem mntStart_kept {c : Cells Word} {i : Nat} {e : Ent} {code : Nat} {h : Hw} (hk : Kept h0 h) : Kept h0 (mntStart c i e code h) := by
  unfold mntStart
  split
  · rename_i ln _
    refine ite_kept ?_ (ite_kept (mntCutEnt_kept hk) ?_)
    · rcases he : lookSf c i e.req ln 0 h with ⟨l, h'⟩
      have k' := lookSf_kept hk he
      dsimp only
      refine setTodo_kept (ite_kept (ite_kept (recallAll_kept k') ?_) (takeAway_kept k'))
      split
      · exact ite_kept (sendSnoops_kept k') k'
      · exact k'
    · extract_lets way set t
      refine ite_kept (setTodo_kept hk) ?_
      extract_lets secs clean
      exact ite_kept (setTodo_kept hk) (ite_kept (setTodo_kept hk) (setTodo_kept hk))
  · exact setTodo_kept hk

theorem mntResolve_kept {i : Nat} {e : Ent} {code ln : Nat} {h : Hw} (hk : Kept h0 h) : Kept h0 (mntResolve i e code ln h) := by
  unfold mntResolve
  repeat' first
    | (with_reducible assumption) | (with_reducible apply setTodo_kept)
    | (with_reducible apply foldl_kept) | (with_reducible apply ite_kept) | (with_reducible intro _ _ _) | split | dsimp only | ((with_reducible show _ = _) <;> first | exact rfl | decide | (apply keptReg_hi; (try unfold stageOff); unfold rg; omega))

theorem mntWrote_kept {i : Nat} {e : Ent} {h : Hw} (hk : Kept h0 h) : Kept h0 (mntWrote i e h) := by
  unfold mntWrote
  repeat' first
    | (with_reducible assumption) | (with_reducible apply err_kept) | (with_reducible apply cntW_kept) | (with_reducible apply popAct_kept)
    | (with_reducible apply foldl_kept) | (with_reducible apply ite_kept) | (with_reducible intro _ _ _) | split | dsimp only | ((with_reducible show _ = _) <;> first | exact rfl | decide | (apply keptReg_hi; (try unfold stageOff); unfold rg; omega))

theorem mntClean_kept {i : Nat} {e : Ent} {h : Hw} (hk : Kept h0 h) : Kept h0 (mntClean i e h) := by
  unfold mntClean
  repeat' first
    | (with_reducible assumption) | (with_reducible apply setTag_kept) | (with_reducible apply popAct_kept)
    | (with_reducible apply foldl_kept) | (with_reducible apply ite_kept) | (with_reducible intro _ _ _) | split | dsimp only | ((with_reducible show _ = _) <;> first | exact rfl | decide | (apply keptReg_hi; (try unfold stageOff); unfold rg; omega))

theorem mntDrop_kept {i : Nat} {e : Ent} {h : Hw} (hk : Kept h0 h) : Kept h0 (mntDrop i e h) := by
  unfold mntDrop
  repeat' first
    | (with_reducible assumption) | (with_reducible apply dropTag_kept) | (with_reducible apply popAct_kept) | (with_reducible apply sfDrop_kept)
    | (with_reducible apply foldl_kept) | (with_reducible apply ite_kept) | (with_reducible intro _ _ _) | split | dsimp only | ((with_reducible show _ = _) <;> first | exact rfl | decide | (apply keptReg_hi; (try unfold stageOff); unfold rg; omega))

theorem mntCommit_kept {e : Ent} {h : Hw} (hk : Kept h0 h) : Kept h0 (mntCommit e h) := by
  unfold mntCommit
  repeat' first
    | (with_reducible assumption) | (with_reducible apply cntW_kept) | (with_reducible apply ev_kept)
    | (with_reducible apply foldl_kept) | (with_reducible apply ite_kept) | (with_reducible intro _ _ _) | split | dsimp only | ((with_reducible show _ = _) <;> first | exact rfl | decide | (apply keptReg_hi; (try unfold stageOff); unfold rg; omega)) | (with_reducible apply modUnits_kept)

theorem preloadGo_kept {i : Nat} {e : Ent} {h : Hw} (hk : Kept h0 h) : Kept h0 (preloadGo i e h) := by
  unfold preloadGo
  split
  · exact popAct_kept hk
  · extract_lets w s t fin
    refine ite_kept (mntCutEnt_kept hk) (ite_kept (setTodo_kept (setTag_kept hk))
      (ite_kept (setTodo_kept (updEnt_kept (cntW_kept hk rfl))) ?_))
    split
    rename_i h1 he
    have k1 : Kept h0 h1 := by
      split at he
      · split at he
        · rename_i q; cases he; exact newVictim_kept hk q
        · cases he; exact hk
      · cases he; exact hk
    clear he
    extract_lets wait tag
    split
    · exact setTodo_kept (setTag_kept (dropTag_kept k1))
    · exact setTodo_kept (ev_kept (setTag_kept k1))

theorem wayDisStart_kept {i : Nat} {e : Ent} {h : Hw} (hk : Kept h0 h) : Kept h0 (wayDisStart i e h) := by
  unfold wayDisStart
  repeat' first
    | (with_reducible assumption) | (with_reducible apply ev_kept) | (with_reducible apply setTodo_kept) | (with_reducible apply recLoss_kept)
    | (with_reducible apply foldl_kept) | (with_reducible apply ite_kept) | (with_reducible intro _ _ _) | split | dsimp only | ((with_reducible show _ = _) <;> first | exact rfl | decide | (apply keptReg_hi; (try unfold stageOff); unfold rg; omega))

theorem backStart_kept {c : Cells Word} {i : Nat} {se : SfEnt} {h : Hw} (hk : Kept h0 h) : Kept h0 (backStart c i se h) := by
  unfold backStart
  repeat' first
    | (with_reducible assumption) | (with_reducible apply fenceLoss_kept) | (with_reducible apply updEnt_kept) | (with_reducible apply setTodo_kept) | (with_reducible apply sendSnoops_kept) | (with_reducible apply snoopCopies_kept) | (with_reducible apply recallAll_kept)
    | (with_reducible apply foldl_kept) | (with_reducible apply ite_kept) | (with_reducible intro _ _ _) | split | dsimp only | ((with_reducible show _ = _) <;> first | exact rfl | decide | (apply keptReg_hi; (try unfold stageOff); unfold rg; omega))

theorem ownBack_kept {ln : Nat} {se : SfEnt} {pois : Nat} {h x : Hw} (hk : Kept h0 h) (q : ownBack ln se pois h = some x) : Kept h0 x := by
  unfold ownBack at q
  split at q
  · cases q; exact newEnt_kept (drew_kept (modCore_kept hk))
  · cases q

theorem sfTend_kept {c : Cells Word} {set : Nat} {only : Option (BitVec 12)} {h : Hw} {n : Nat} {x : Hw} (hk : Kept h0 h)
    (q : sfTend c set only h n = some x) : Kept h0 x := by
  unfold sfTend at q
  dsimp only at q
  split at q
  · cases q; exact hk
  · split at q
    · rcases hb : ownBack _ _ 0 _ with _ | y
      · rw [hb] at q; cases q
      · rw [hb] at q; cases q; exact sfKeep_kept (ownBack_kept (setSf_kept hk) hb)
    · generalize (SfEnt.unfence c h _ only).2.filter _ = o at q
      split at q
      · exact ownBack_kept (fenceLoss_kept (sfKeep_kept (setSf_kept hk))) q
      · cases q; exact sfKeep_kept (setSf_kept hk)

theorem repairSf_kept {c : Cells Word} {r : Req} {h : Hw} (hk : Kept h0 h) : Kept h0 (repairSf c r h) := by
  unfold repairSf
  split
  · split
    · rename_i n _ _
      rcases hs : sfTend c (setOf _) none h n with _ | y
      · exact hk
      · exact sfTend_kept hk hs
    · exact hk
  · exact hk

theorem sfTake_kept {c : Cells Word} {i : Nat} {e : Ent} {ln : Nat} {h : Hw} (hk : Kept h0 h) : Kept h0 (sfTake c i e ln h) := by
  unfold sfTake
  repeat' first
    | (with_reducible assumption) | (with_reducible apply ev_kept) | (with_reducible apply newEnt_kept) | (with_reducible apply drew_kept) | (with_reducible apply sfReserve_kept) | (with_reducible apply popAct_kept) | (with_reducible apply setBusy_kept) | (with_reducible apply lookTags_kept) | (with_reducible apply backStart_kept)
    | (with_reducible apply foldl_kept) | (with_reducible apply ite_kept) | (with_reducible intro _ _ _) | split | dsimp only | ((with_reducible show _ = _) <;> first | exact rfl | decide | (apply keptReg_hi; (try unfold stageOff); unfold rg; omega))

theorem homeStart_kept {i : Nat} {e : Ent} {li secs : Nat} {h : Hw} (hk : Kept h0 h) : Kept h0 (homeStart i e li secs h) := by
  unfold homeStart
  repeat' first
    | (with_reducible assumption) | (with_reducible apply allocLine_kept2) | (refine allocLine_kept ?_ ‹allocLine _ _ _ _ = _›) | (with_reducible apply fillTouch_kept) | (with_reducible apply updEnt_kept) | (with_reducible apply popAct_kept) | (with_reducible apply expand_kept) | (with_reducible apply dropLeaving_kept) | (with_reducible apply hitTouch_kept) | (with_reducible apply outcome_kept)
    | (with_reducible apply foldl_kept) | (with_reducible apply ite_kept) | (with_reducible intro _ _ _) | split | dsimp only | ((with_reducible show _ = _) <;> first | exact rfl | decide | (apply keptReg_hi; (try unfold stageOff); unfold rg; omega))

theorem putStart_kept {i : Nat} {e : Ent} {li : Nat} {h : Hw} (hk : Kept h0 h) : Kept h0 (putStart i e li h) := by
  unfold putStart
  repeat' first
    | (with_reducible assumption) | (with_reducible apply allocLine_kept2) | (refine allocLine_kept ?_ ‹allocLine _ _ _ _ = _›) | (with_reducible apply fillTouch_kept) | (with_reducible apply popAct_kept) | (with_reducible apply expand_kept) | (with_reducible apply dropLeaving_kept) | (with_reducible apply markDirty_kept) | (with_reducible apply hitTouch_kept) | (with_reducible apply outcome_kept)
    | (with_reducible apply foldl_kept) | (with_reducible apply ite_kept) | (with_reducible intro _ _ _) | split | dsimp only | ((with_reducible show _ = _) <;> first | exact rfl | decide | (apply keptReg_hi; (try unfold stageOff); unfold rg; omega))

theorem poisonLine_kept {i li : Nat} {h : Hw} (hk : Kept h0 h) : Kept h0 (poisonLine i li h) := by
  unfold poisonLine
  repeat' first
    | (with_reducible assumption) | (with_reducible apply updEnt_kept) | (with_reducible apply expand_kept)
    | (with_reducible apply foldl_kept) | (with_reducible apply ite_kept) | (with_reducible intro _ _ _) | split | dsimp only | ((with_reducible show _ = _) <;> first | exact rfl | decide | (apply keptReg_hi; (try unfold stageOff); unfold rg; omega))

theorem partStart_kept {i : Nat} {e : Ent} {h : Hw} (hk : Kept h0 h) : Kept h0 (partStart i e h) := by
  unfold partStart
  repeat' first
    | (with_reducible assumption) | (with_reducible apply allocLine_kept2) | (refine allocLine_kept ?_ ‹allocLine _ _ _ _ = _›) | (with_reducible apply fillTouch_kept) | (with_reducible apply updEnt_kept) | (with_reducible apply popAct_kept) | (with_reducible apply expand_kept) | (with_reducible apply dropLeaving_kept) | (with_reducible apply markDirty_kept) | (with_reducible apply hitTouch_kept) | (with_reducible apply outcome_kept)
    | (with_reducible apply foldl_kept) | (with_reducible apply ite_kept) | (with_reducible intro _ _ _) | split | dsimp only | ((with_reducible show _ = _) <;> first | exact rfl | decide | (apply keptReg_hi; (try unfold stageOff); unfold rg; omega))

theorem wbCame_kept {x : BitVec 12} {k : LineKey} {h : Hw} (hk : Kept h0 h) : Kept h0 (wbCame x k h) := by
  unfold wbCame
  repeat' first
    | (with_reducible assumption)
    | (with_reducible apply foldl_kept) | (with_reducible apply ite_kept) | (with_reducible intro _ _ _) | split | dsimp only | ((with_reducible show _ = _) <;> first | exact rfl | decide | (apply keptReg_hi; (try unfold stageOff); unfold rg; omega)) | (with_reducible apply modHome_kept)

theorem evtStray_kept {e : Ent} {h : Hw} (hk : Kept h0 h) : Kept h0 (evtStray e h) := by
  unfold evtStray
  repeat' first
    | (with_reducible assumption) | (with_reducible apply err_kept) | (with_reducible apply report_kept) | (with_reducible apply wbCame_kept)
    | (with_reducible apply foldl_kept) | (with_reducible apply ite_kept) | (with_reducible intro _ _ _) | split | dsimp only | ((with_reducible show _ = _) <;> first | exact rfl | decide | (apply keptReg_hi; (try unfold stageOff); unfold rg; omega))

theorem resolve_kept {i : Nat} {e : Ent} {h : Hw} (hk : Kept h0 h) : Kept h0 (resolve i e h) := by
  unfold resolve
  repeat' first
    | (with_reducible assumption) | (with_reducible apply updEnt_kept) | (with_reducible apply setTodo_kept) | (with_reducible apply mntResolve_kept) | (with_reducible apply wbCame_kept) | (with_reducible apply evtStray_kept)
    | (with_reducible apply foldl_kept) | (with_reducible apply ite_kept) | (with_reducible intro _ _ _) | split | dsimp only | ((with_reducible show _ = _) <;> first | exact rfl | decide | (apply keptReg_hi; (try unfold stageOff); unfold rg; omega))

theorem evtApply_kept {c : Cells Word} {i : Nat} {e : Ent} {h : Hw} (hk : Kept h0 h) : Kept h0 (evtApply c i e h) := by
  unfold evtApply
  extract_lets x
  split
  · exact setTodo_kept hk
  · rename_i ln _
    refine ite_kept (setTodo_kept hk) ?_
    rcases he : lookSf c i e.req ln 0 (lookTags e.req h) with ⟨l, h1⟩
    have k1 := lookSf_kept (lookTags_kept hk) he
    dsimp -zeta only
    extract_lets pois
    refine ite_kept (setTodo_kept (recallAll_kept (sfKeep_kept k1))) (ite_kept (setTodo_kept (sfKeep_kept (sfChange_kept k1))) ?_)
    split
    · exact ite_kept (setTodo_kept (updEnt_kept (sfKeep_kept (sfChange_kept (wbCame_kept k1))))) (setTodo_kept (evtStray_kept k1))
    · exact setTodo_kept (evtStray_kept (sfKeep_kept k1))

theorem wbRelease_kept {i : Nat} {h : Hw} (hk : Kept h0 h) : Kept h0 (wbRelease i h) := by
  unfold wbRelease
  repeat' first
    | (with_reducible assumption) | (with_reducible apply updEnt_kept) | (with_reducible apply setTodo_kept)
    | (with_reducible apply foldl_kept) | (with_reducible apply ite_kept) | (with_reducible intro _ _ _) | split | dsimp only | ((with_reducible show _ = _) <;> first | exact rfl | decide | (apply keptReg_hi; (try unfold stageOff); unfold rg; omega))

theorem lookup_kept {c : Cells Word} {i : Nat} {e : Ent} {h : Hw} (hk : Kept h0 h) : Kept h0 (lookup c i e h) := by
  unfold lookup
  repeat' first
    | (with_reducible assumption) | (with_reducible apply updEnt_kept) | (with_reducible apply setTodo_kept) | (with_reducible apply stamp_kept) | (with_reducible apply outcome_kept) | (with_reducible apply selBegin_kept) | (with_reducible apply answerCode_kept) | (with_reducible apply clearLines_kept) | (with_reducible apply lookTags_kept) | (with_reducible apply readStart_kept) | (with_reducible apply requestStart_kept) | (with_reducible apply mntStart_kept) | (with_reducible apply wayDisStart_kept) | (with_reducible apply backStart_kept) | (with_reducible apply repairSf_kept)
    | (with_reducible apply foldl_kept) | (with_reducible apply ite_kept) | (with_reducible intro _ _ _) | split | dsimp only | ((with_reducible show _ = _) <;> first | exact rfl | decide | (apply keptReg_hi; (try unfold stageOff); unfold rg; omega))

theorem wbDeliver_kept {i j : Nat} {pay : List PWord} {x : BitVec 12} {li : Nat} {h : Hw} (hk : Kept h0 h) : Kept h0 (wbDeliver i j pay x li h) := by
  unfold wbDeliver
  repeat' first
    | (with_reducible assumption) | (with_reducible apply updEnt_kept) | (with_reducible apply setTodo_kept) | (with_reducible apply wbCame_kept)
    | (with_reducible apply foldl_kept) | (with_reducible apply ite_kept) | (with_reducible intro _ _ _) | split | dsimp only | ((with_reducible show _ = _) <;> first | exact rfl | decide | (apply keptReg_hi; (try unfold stageOff); unfold rg; omega))

theorem joinEvt_kept {c : Cells Word} {j : Nat} {e : Ent} {i : Nat} {t : Ent} {h : Hw} (hk : Kept h0 h) : Kept h0 (joinEvt c j e i t h) := by
  unfold joinEvt
  repeat' first
    | (with_reducible assumption) | (with_reducible apply updEnt_kept) | (with_reducible apply setTodo_kept) | (with_reducible apply evtApply_kept) | (with_reducible apply wbDeliver_kept)
    | (with_reducible apply foldl_kept) | (with_reducible apply ite_kept) | (with_reducible intro _ _ _) | split | dsimp only | ((with_reducible show _ = _) <;> first | exact rfl | decide | (apply keptReg_hi; (try unfold stageOff); unfold rg; omega))

theorem xrdAct_kept {i : Nat} {e : Ent} {addr secs li : Nat} {h : Hw} (hk : Kept h0 h) : Kept h0 (xrdAct i e addr secs li h) := by
  unfold xrdAct
  repeat' first
    | (with_reducible assumption) | (with_reducible apply updEnt_kept) | (with_reducible apply popAct_kept) | (with_reducible apply setBusy_kept) | (with_reducible apply xpAsk_kept)
    | (with_reducible apply foldl_kept) | (with_reducible apply ite_kept) | (with_reducible intro _ _ _) | split | dsimp only | ((with_reducible show _ = _) <;> first | exact rfl | decide | (apply keptReg_hi; (try unfold stageOff); unfold rg; omega))

theorem respondAct_kept {c : Cells Word} {i : Nat} {e : Ent} {h : Hw} (hk : Kept h0 h) : Kept h0 (respondAct c i e h) := by
  unfold respondAct
  repeat' first
    | (with_reducible assumption) | (with_reducible apply updEnt_kept) | (with_reducible apply popAct_kept) | (with_reducible apply respond_kept) | (with_reducible apply dirUpdate_kept) | (with_reducible apply engDeliver_kept)
    | (with_reducible apply foldl_kept) | (with_reducible apply ite_kept) | (with_reducible intro _ _ _) | split | dsimp only | ((with_reducible show _ = _) <;> first | exact rfl | decide | (apply keptReg_hi; (try unfold stageOff); unfold rg; omega))

theorem commitAct_kept {i : Nat} {e : Ent} {h : Hw} (hk : Kept h0 h) : Kept h0 (commitAct i e h) := by
  unfold commitAct
  repeat' first
    | (with_reducible assumption) | (with_reducible apply sfChange_kept) | (with_reducible apply updEnt_kept) | (with_reducible apply popAct_kept) | (with_reducible apply repairEnd_kept) | (with_reducible apply mntCommit_kept)
    | (with_reducible apply foldl_kept) | (with_reducible apply ite_kept) | (with_reducible intro _ _ _) | split | dsimp only | ((with_reducible show _ = _) <;> first | exact rfl | decide | (apply keptReg_hi; (try unfold stageOff); unfold rg; omega))

theorem freeAct_kept {i : Nat} {e : Ent} {h : Hw} (hk : Kept h0 h) : Kept h0 (freeAct i e h) := by
  unfold freeAct
  repeat' first
    | (with_reducible assumption) | (with_reducible apply freeEnt_kept)
    | (with_reducible apply foldl_kept) | (with_reducible apply ite_kept) | (with_reducible intro _ _ _) | split | dsimp only | ((with_reducible show _ = _) <;> first | exact rfl | decide | (apply keptReg_hi; (try unfold stageOff); unfold rg; omega)) | (with_reducible apply modProt_kept)

theorem goAct_kept {c : Cells Word} {i : Nat} {e : Ent} {n : Nat} {h : Hw} (hk : Kept h0 h) : Kept h0 (goAct c i e n h) := by
  unfold goAct
  repeat' first
    | (with_reducible assumption) | (with_reducible apply popAct_kept) | (with_reducible apply tangoServe_kept) | (with_reducible apply queDecide_kept) | (with_reducible apply queCollect_kept) | (with_reducible apply queCmdGo_kept) | (with_reducible apply evtClearGo_kept) | (with_reducible apply selGo_kept) | (with_reducible apply selCount_kept) | (with_reducible apply selCmdGo_kept) | (with_reducible apply repairGo_kept) | (with_reducible apply chkGo_kept) | (with_reducible apply lrtGo_kept) | (with_reducible apply mntWrote_kept) | (with_reducible apply mntClean_kept) | (with_reducible apply mntDrop_kept) | (with_reducible apply preloadGo_kept)
    | (with_reducible apply foldl_kept) | (with_reducible apply ite_kept) | (with_reducible intro _ _ _) | split | dsimp only | ((with_reducible show _ = _) <;> first | exact rfl | decide | (apply keptReg_hi; (try unfold stageOff); unfold rg; omega)) | (with_reducible apply modUnits_kept)

theorem lookupAct_kept {c : Cells Word} {i : Nat} {e : Ent} {h : Hw} (hk : Kept h0 h) : Kept h0 (lookupAct c i e h) := by
  unfold lookupAct
  repeat' first
    | (with_reducible assumption) | (with_reducible apply updEnt_kept) | (with_reducible apply lookup_kept)
    | (with_reducible apply foldl_kept) | (with_reducible apply ite_kept) | (with_reducible intro _ _ _) | split | dsimp only | ((with_reducible show _ = _) <;> first | exact rfl | decide | (apply keptReg_hi; (try unfold stageOff); unfold rg; omega))

theorem runAct_kept {c : Cells Word} {i : Nat} {e : Ent} {a : Act} {h : Hw} (hk : Kept h0 h) : Kept h0 (runAct c i e a h) := by
  unfold runAct
  repeat' first
    | (with_reducible assumption) | (with_reducible apply popAct_kept) | (with_reducible apply setBusy_kept) | (with_reducible apply xpWrite_kept) | (with_reducible apply jigPass_kept) | (with_reducible apply dispatchCells_kept) | (with_reducible apply askOp_kept) | (with_reducible apply sfTake_kept) | (with_reducible apply homeStart_kept) | (with_reducible apply putStart_kept) | (with_reducible apply poisonLine_kept) | (with_reducible apply partStart_kept) | (with_reducible apply resolve_kept) | (with_reducible apply evtApply_kept) | (with_reducible apply wbRelease_kept) | (with_reducible apply xrdAct_kept) | (with_reducible apply respondAct_kept) | (with_reducible apply commitAct_kept) | (with_reducible apply freeAct_kept) | (with_reducible apply goAct_kept) | (with_reducible apply lookupAct_kept)
    | (with_reducible apply foldl_kept) | (with_reducible apply ite_kept) | (with_reducible intro _ _ _) | split | dsimp only | ((with_reducible show _ = _) <;> first | exact rfl | decide | (apply keptReg_hi; (try unfold stageOff); unfold rg; omega))

theorem albRetry_kept {h : Hw} (hk : Kept h0 h) : Kept h0 (albRetry h) := by
  unfold albRetry
  repeat' first
    | (with_reducible assumption) | (with_reducible apply albStart_kept)
    | (with_reducible apply foldl_kept) | (with_reducible apply ite_kept) | (with_reducible intro _ _ _) | split | dsimp only | ((with_reducible show _ = _) <;> first | exact rfl | decide | (apply keptReg_hi; (try unfold stageOff); unfold rg; omega))



end Sys2Proof.Machine
end

