-- ==== Sys2Proof/Laws/State.lean ====
section
/-! SUPPORT. What each update of the hardware state shows in each part: true by unfolding, so that no later proof opens a record
update; then reads of the slice's own registers after its writes. -/
namespace Sys2Proof.Machine

/-! ### `cyc` -/

@[simp] theorem Hw.modCyc_cyc (h : Hw) (f : BitVec 64 → BitVec 64) : (h.modCyc f).cyc = f h.cyc := rfl
@[simp] theorem Hw.setCyc_cyc (h : Hw) (x : BitVec 64) : (h.setCyc x).cyc = x := rfl
@[simp] theorem Hw.modCyc_rst (h : Hw) (f : BitVec 64 → BitVec 64) : (h.modCyc f).rst = h.rst := rfl
@[simp] theorem Hw.setCyc_rst (h : Hw) (x : BitVec 64) : (h.setCyc x).rst = h.rst := rfl
@[simp] theorem Hw.modCyc_ro (h : Hw) (f : BitVec 64 → BitVec 64) : (h.modCyc f).ro = h.ro := rfl
@[simp] theorem Hw.setCyc_ro (h : Hw) (x : BitVec 64) : (h.setCyc x).ro = h.ro := rfl
@[simp] theorem Hw.modCyc_ports (h : Hw) (f : BitVec 64 → BitVec 64) : (h.modCyc f).ports = h.ports := rfl
@[simp] theorem Hw.setCyc_ports (h : Hw) (x : BitVec 64) : (h.setCyc x).ports = h.ports := rfl
@[simp] theorem Hw.modCyc_vp (h : Hw) (f : BitVec 64 → BitVec 64) : (h.modCyc f).vp = h.vp := rfl
@[simp] theorem Hw.setCyc_vp (h : Hw) (x : BitVec 64) : (h.setCyc x).vp = h.vp := rfl
@[simp] theorem Hw.modCyc_core (h : Hw) (f : BitVec 64 → BitVec 64) : (h.modCyc f).core = h.core := rfl
@[simp] theorem Hw.setCyc_core (h : Hw) (x : BitVec 64) : (h.setCyc x).core = h.core := rfl
@[simp] theorem Hw.modCyc_path (h : Hw) (f : BitVec 64 → BitVec 64) : (h.modCyc f).path = h.path := rfl
@[simp] theorem Hw.setCyc_path (h : Hw) (x : BitVec 64) : (h.setCyc x).path = h.path := rfl
@[simp] theorem Hw.modCyc_home (h : Hw) (f : BitVec 64 → BitVec 64) : (h.modCyc f).home = h.home := rfl
@[simp] theorem Hw.setCyc_home (h : Hw) (x : BitVec 64) : (h.setCyc x).home = h.home := rfl
@[simp] theorem Hw.modCyc_arr (h : Hw) (f : BitVec 64 → BitVec 64) : (h.modCyc f).arr = h.arr := rfl
@[simp] theorem Hw.setCyc_arr (h : Hw) (x : BitVec 64) : (h.setCyc x).arr = h.arr := rfl
@[simp] theorem Hw.modCyc_near (h : Hw) (f : BitVec 64 → BitVec 64) : (h.modCyc f).near = h.near := rfl
@[simp] theorem Hw.setCyc_near (h : Hw) (x : BitVec 64) : (h.setCyc x).near = h.near := rfl
@[simp] theorem Hw.modCyc_xp (h : Hw) (f : BitVec 64 → BitVec 64) : (h.modCyc f).xp = h.xp := rfl
@[simp] theorem Hw.setCyc_xp (h : Hw) (x : BitVec 64) : (h.setCyc x).xp = h.xp := rfl
@[simp] theorem Hw.modCyc_glp (h : Hw) (f : BitVec 64 → BitVec 64) : (h.modCyc f).glp = h.glp := rfl
@[simp] theorem Hw.setCyc_glp (h : Hw) (x : BitVec 64) : (h.setCyc x).glp = h.glp := rfl
@[simp] theorem Hw.modCyc_reel (h : Hw) (f : BitVec 64 → BitVec 64) : (h.modCyc f).reel = h.reel := rfl
@[simp] theorem Hw.setCyc_reel (h : Hw) (x : BitVec 64) : (h.setCyc x).reel = h.reel := rfl
@[simp] theorem Hw.modCyc_units (h : Hw) (f : BitVec 64 → BitVec 64) : (h.modCyc f).units = h.units := rfl
@[simp] theorem Hw.setCyc_units (h : Hw) (x : BitVec 64) : (h.setCyc x).units = h.units := rfl
@[simp] theorem Hw.modCyc_qos (h : Hw) (f : BitVec 64 → BitVec 64) : (h.modCyc f).qos = h.qos := rfl
@[simp] theorem Hw.setCyc_qos (h : Hw) (x : BitVec 64) : (h.setCyc x).qos = h.qos := rfl
@[simp] theorem Hw.modCyc_prot (h : Hw) (f : BitVec 64 → BitVec 64) : (h.modCyc f).prot = h.prot := rfl
@[simp] theorem Hw.setCyc_prot (h : Hw) (x : BitVec 64) : (h.setCyc x).prot = h.prot := rfl
@[simp] theorem Hw.modCyc_diag (h : Hw) (f : BitVec 64 → BitVec 64) : (h.modCyc f).diag = h.diag := rfl
@[simp] theorem Hw.setCyc_diag (h : Hw) (x : BitVec 64) : (h.setCyc x).diag = h.diag := rfl
@[simp] theorem Hw.modCyc_perf (h : Hw) (f : BitVec 64 → BitVec 64) : (h.modCyc f).perf = h.perf := rfl
@[simp] theorem Hw.setCyc_perf (h : Hw) (x : BitVec 64) : (h.setCyc x).perf = h.perf := rfl
@[simp] theorem Hw.modCyc_free (h : Hw) (f : BitVec 64 → BitVec 64) : (h.modCyc f).free = h.free := rfl
@[simp] theorem Hw.setCyc_free (h : Hw) (x : BitVec 64) : (h.setCyc x).free = h.free := rfl
@[simp] theorem Hw.modCyc_hwSet (h : Hw) (f : BitVec 64 → BitVec 64) : (h.modCyc f).hwSet = h.hwSet := rfl
@[simp] theorem Hw.setCyc_hwSet (h : Hw) (x : BitVec 64) : (h.setCyc x).hwSet = h.hwSet := rfl

/-! ### `rst` -/

@[simp] theorem Hw.modRst_cyc (h : Hw) (f : Rst → Rst) : (h.modRst f).cyc = h.cyc := rfl
@[simp] theorem Hw.setRst_cyc (h : Hw) (x : Rst) : (h.setRst x).cyc = h.cyc := rfl
@[simp] theorem Hw.modRst_rst (h : Hw) (f : Rst → Rst) : (h.modRst f).rst = f h.rst := rfl
@[simp] theorem Hw.setRst_rst (h : Hw) (x : Rst) : (h.setRst x).rst = x := rfl
@[simp] theorem Hw.modRst_ro (h : Hw) (f : Rst → Rst) : (h.modRst f).ro = h.ro := rfl
@[simp] theorem Hw.setRst_ro (h : Hw) (x : Rst) : (h.setRst x).ro = h.ro := rfl
@[simp] theorem Hw.modRst_ports (h : Hw) (f : Rst → Rst) : (h.modRst f).ports = h.ports := rfl
@[simp] theorem Hw.setRst_ports (h : Hw) (x : Rst) : (h.setRst x).ports = h.ports := rfl
@[simp] theorem Hw.modRst_vp (h : Hw) (f : Rst → Rst) : (h.modRst f).vp = h.vp := rfl
@[simp] theorem Hw.setRst_vp (h : Hw) (x : Rst) : (h.setRst x).vp = h.vp := rfl
@[simp] theorem Hw.modRst_core (h : Hw) (f : Rst → Rst) : (h.modRst f).core = h.core := rfl
@[simp] theorem Hw.setRst_core (h : Hw) (x : Rst) : (h.setRst x).core = h.core := rfl
@[simp] theorem Hw.modRst_path (h : Hw) (f : Rst → Rst) : (h.modRst f).path = h.path := rfl
@[simp] theorem Hw.setRst_path (h : Hw) (x : Rst) : (h.setRst x).path = h.path := rfl
@[simp] theorem Hw.modRst_home (h : Hw) (f : Rst → Rst) : (h.modRst f).home = h.home := rfl
@[simp] theorem Hw.setRst_home (h : Hw) (x : Rst) : (h.setRst x).home = h.home := rfl
@[simp] theorem Hw.modRst_arr (h : Hw) (f : Rst → Rst) : (h.modRst f).arr = h.arr := rfl
@[simp] theorem Hw.setRst_arr (h : Hw) (x : Rst) : (h.setRst x).arr = h.arr := rfl
@[simp] theorem Hw.modRst_near (h : Hw) (f : Rst → Rst) : (h.modRst f).near = h.near := rfl
@[simp] theorem Hw.setRst_near (h : Hw) (x : Rst) : (h.setRst x).near = h.near := rfl
@[simp] theorem Hw.modRst_xp (h : Hw) (f : Rst → Rst) : (h.modRst f).xp = h.xp := rfl
@[simp] theorem Hw.setRst_xp (h : Hw) (x : Rst) : (h.setRst x).xp = h.xp := rfl
@[simp] theorem Hw.modRst_glp (h : Hw) (f : Rst → Rst) : (h.modRst f).glp = h.glp := rfl
@[simp] theorem Hw.setRst_glp (h : Hw) (x : Rst) : (h.setRst x).glp = h.glp := rfl
@[simp] theorem Hw.modRst_reel (h : Hw) (f : Rst → Rst) : (h.modRst f).reel = h.reel := rfl
@[simp] theorem Hw.setRst_reel (h : Hw) (x : Rst) : (h.setRst x).reel = h.reel := rfl
@[simp] theorem Hw.modRst_units (h : Hw) (f : Rst → Rst) : (h.modRst f).units = h.units := rfl
@[simp] theorem Hw.setRst_units (h : Hw) (x : Rst) : (h.setRst x).units = h.units := rfl
@[simp] theorem Hw.modRst_qos (h : Hw) (f : Rst → Rst) : (h.modRst f).qos = h.qos := rfl
@[simp] theorem Hw.setRst_qos (h : Hw) (x : Rst) : (h.setRst x).qos = h.qos := rfl
@[simp] theorem Hw.modRst_prot (h : Hw) (f : Rst → Rst) : (h.modRst f).prot = h.prot := rfl
@[simp] theorem Hw.setRst_prot (h : Hw) (x : Rst) : (h.setRst x).prot = h.prot := rfl
@[simp] theorem Hw.modRst_diag (h : Hw) (f : Rst → Rst) : (h.modRst f).diag = h.diag := rfl
@[simp] theorem Hw.setRst_diag (h : Hw) (x : Rst) : (h.setRst x).diag = h.diag := rfl
@[simp] theorem Hw.modRst_perf (h : Hw) (f : Rst → Rst) : (h.modRst f).perf = h.perf := rfl
@[simp] theorem Hw.setRst_perf (h : Hw) (x : Rst) : (h.setRst x).perf = h.perf := rfl
@[simp] theorem Hw.modRst_free (h : Hw) (f : Rst → Rst) : (h.modRst f).free = h.free := rfl
@[simp] theorem Hw.setRst_free (h : Hw) (x : Rst) : (h.setRst x).free = h.free := rfl
@[simp] theorem Hw.modRst_hwSet (h : Hw) (f : Rst → Rst) : (h.modRst f).hwSet = h.hwSet := rfl
@[simp] theorem Hw.setRst_hwSet (h : Hw) (x : Rst) : (h.setRst x).hwSet = h.hwSet := rfl

/-! ### `ro` -/

@[simp] theorem Hw.modRo_cyc (h : Hw) (f : Cells Word → Cells Word) : (h.modRo f).cyc = h.cyc := rfl
@[simp] theorem Hw.setRo_cyc (h : Hw) (x : Cells Word) : (h.setRo x).cyc = h.cyc := rfl
@[simp] theorem Hw.modRo_rst (h : Hw) (f : Cells Word → Cells Word) : (h.modRo f).rst = h.rst := rfl
@[simp] theorem Hw.setRo_rst (h : Hw) (x : Cells Word) : (h.setRo x).rst = h.rst := rfl
@[simp] theorem Hw.modRo_ro (h : Hw) (f : Cells Word → Cells Word) : (h.modRo f).ro = f h.ro := rfl
@[simp] theorem Hw.setRo_ro (h : Hw) (x : Cells Word) : (h.setRo x).ro = x := rfl
@[simp] theorem Hw.modRo_ports (h : Hw) (f : Cells Word → Cells Word) : (h.modRo f).ports = h.ports := rfl
@[simp] theorem Hw.setRo_ports (h : Hw) (x : Cells Word) : (h.setRo x).ports = h.ports := rfl
@[simp] theorem Hw.modRo_vp (h : Hw) (f : Cells Word → Cells Word) : (h.modRo f).vp = h.vp := rfl
@[simp] theorem Hw.setRo_vp (h : Hw) (x : Cells Word) : (h.setRo x).vp = h.vp := rfl
@[simp] theorem Hw.modRo_core (h : Hw) (f : Cells Word → Cells Word) : (h.modRo f).core = h.core := rfl
@[simp] theorem Hw.setRo_core (h : Hw) (x : Cells Word) : (h.setRo x).core = h.core := rfl
@[simp] theorem Hw.modRo_path (h : Hw) (f : Cells Word → Cells Word) : (h.modRo f).path = h.path := rfl
@[simp] theorem Hw.setRo_path (h : Hw) (x : Cells Word) : (h.setRo x).path = h.path := rfl
@[simp] theorem Hw.modRo_home (h : Hw) (f : Cells Word → Cells Word) : (h.modRo f).home = h.home := rfl
@[simp] theorem Hw.setRo_home (h : Hw) (x : Cells Word) : (h.setRo x).home = h.home := rfl
@[simp] theorem Hw.modRo_arr (h : Hw) (f : Cells Word → Cells Word) : (h.modRo f).arr = h.arr := rfl
@[simp] theorem Hw.setRo_arr (h : Hw) (x : Cells Word) : (h.setRo x).arr = h.arr := rfl
@[simp] theorem Hw.modRo_near (h : Hw) (f : Cells Word → Cells Word) : (h.modRo f).near = h.near := rfl
@[simp] theorem Hw.setRo_near (h : Hw) (x : Cells Word) : (h.setRo x).near = h.near := rfl
@[simp] theorem Hw.modRo_xp (h : Hw) (f : Cells Word → Cells Word) : (h.modRo f).xp = h.xp := rfl
@[simp] theorem Hw.setRo_xp (h : Hw) (x : Cells Word) : (h.setRo x).xp = h.xp := rfl
@[simp] theorem Hw.modRo_glp (h : Hw) (f : Cells Word → Cells Word) : (h.modRo f).glp = h.glp := rfl
@[simp] theorem Hw.setRo_glp (h : Hw) (x : Cells Word) : (h.setRo x).glp = h.glp := rfl
@[simp] theorem Hw.modRo_reel (h : Hw) (f : Cells Word → Cells Word) : (h.modRo f).reel = h.reel := rfl
@[simp] theorem Hw.setRo_reel (h : Hw) (x : Cells Word) : (h.setRo x).reel = h.reel := rfl
@[simp] theorem Hw.modRo_units (h : Hw) (f : Cells Word → Cells Word) : (h.modRo f).units = h.units := rfl
@[simp] theorem Hw.setRo_units (h : Hw) (x : Cells Word) : (h.setRo x).units = h.units := rfl
@[simp] theorem Hw.modRo_qos (h : Hw) (f : Cells Word → Cells Word) : (h.modRo f).qos = h.qos := rfl
@[simp] theorem Hw.setRo_qos (h : Hw) (x : Cells Word) : (h.setRo x).qos = h.qos := rfl
@[simp] theorem Hw.modRo_prot (h : Hw) (f : Cells Word → Cells Word) : (h.modRo f).prot = h.prot := rfl
@[simp] theorem Hw.setRo_prot (h : Hw) (x : Cells Word) : (h.setRo x).prot = h.prot := rfl
@[simp] theorem Hw.modRo_diag (h : Hw) (f : Cells Word → Cells Word) : (h.modRo f).diag = h.diag := rfl
@[simp] theorem Hw.setRo_diag (h : Hw) (x : Cells Word) : (h.setRo x).diag = h.diag := rfl
@[simp] theorem Hw.modRo_perf (h : Hw) (f : Cells Word → Cells Word) : (h.modRo f).perf = h.perf := rfl
@[simp] theorem Hw.setRo_perf (h : Hw) (x : Cells Word) : (h.setRo x).perf = h.perf := rfl
@[simp] theorem Hw.modRo_free (h : Hw) (f : Cells Word → Cells Word) : (h.modRo f).free = h.free := rfl
@[simp] theorem Hw.setRo_free (h : Hw) (x : Cells Word) : (h.setRo x).free = h.free := rfl
@[simp] theorem Hw.modRo_hwSet (h : Hw) (f : Cells Word → Cells Word) : (h.modRo f).hwSet = h.hwSet := rfl
@[simp] theorem Hw.setRo_hwSet (h : Hw) (x : Cells Word) : (h.setRo x).hwSet = h.hwSet := rfl

/-! ### `ports` -/

@[simp] theorem Hw.modPorts_cyc (h : Hw) (f : Ports → Ports) : (h.modPorts f).cyc = h.cyc := rfl
@[simp] theorem Hw.setPorts_cyc (h : Hw) (x : Ports) : (h.setPorts x).cyc = h.cyc := rfl
@[simp] theorem Hw.modPorts_rst (h : Hw) (f : Ports → Ports) : (h.modPorts f).rst = h.rst := rfl
@[simp] theorem Hw.setPorts_rst (h : Hw) (x : Ports) : (h.setPorts x).rst = h.rst := rfl
@[simp] theorem Hw.modPorts_ro (h : Hw) (f : Ports → Ports) : (h.modPorts f).ro = h.ro := rfl
@[simp] theorem Hw.setPorts_ro (h : Hw) (x : Ports) : (h.setPorts x).ro = h.ro := rfl
@[simp] theorem Hw.modPorts_ports (h : Hw) (f : Ports → Ports) : (h.modPorts f).ports = f h.ports := rfl
@[simp] theorem Hw.setPorts_ports (h : Hw) (x : Ports) : (h.setPorts x).ports = x := rfl
@[simp] theorem Hw.modPorts_vp (h : Hw) (f : Ports → Ports) : (h.modPorts f).vp = h.vp := rfl
@[simp] theorem Hw.setPorts_vp (h : Hw) (x : Ports) : (h.setPorts x).vp = h.vp := rfl
@[simp] theorem Hw.modPorts_core (h : Hw) (f : Ports → Ports) : (h.modPorts f).core = h.core := rfl
@[simp] theorem Hw.setPorts_core (h : Hw) (x : Ports) : (h.setPorts x).core = h.core := rfl
@[simp] theorem Hw.modPorts_path (h : Hw) (f : Ports → Ports) : (h.modPorts f).path = h.path := rfl
@[simp] theorem Hw.setPorts_path (h : Hw) (x : Ports) : (h.setPorts x).path = h.path := rfl
@[simp] theorem Hw.modPorts_home (h : Hw) (f : Ports → Ports) : (h.modPorts f).home = h.home := rfl
@[simp] theorem Hw.setPorts_home (h : Hw) (x : Ports) : (h.setPorts x).home = h.home := rfl
@[simp] theorem Hw.modPorts_arr (h : Hw) (f : Ports → Ports) : (h.modPorts f).arr = h.arr := rfl
@[simp] theorem Hw.setPorts_arr (h : Hw) (x : Ports) : (h.setPorts x).arr = h.arr := rfl
@[simp] theorem Hw.modPorts_near (h : Hw) (f : Ports → Ports) : (h.modPorts f).near = h.near := rfl
@[simp] theorem Hw.setPorts_near (h : Hw) (x : Ports) : (h.setPorts x).near = h.near := rfl
@[simp] theorem Hw.modPorts_xp (h : Hw) (f : Ports → Ports) : (h.modPorts f).xp = h.xp := rfl
@[simp] theorem Hw.setPorts_xp (h : Hw) (x : Ports) : (h.setPorts x).xp = h.xp := rfl
@[simp] theorem Hw.modPorts_glp (h : Hw) (f : Ports → Ports) : (h.modPorts f).glp = h.glp := rfl
@[simp] theorem Hw.setPorts_glp (h : Hw) (x : Ports) : (h.setPorts x).glp = h.glp := rfl
@[simp] theorem Hw.modPorts_reel (h : Hw) (f : Ports → Ports) : (h.modPorts f).reel = h.reel := rfl
@[simp] theorem Hw.setPorts_reel (h : Hw) (x : Ports) : (h.setPorts x).reel = h.reel := rfl
@[simp] theorem Hw.modPorts_units (h : Hw) (f : Ports → Ports) : (h.modPorts f).units = h.units := rfl
@[simp] theorem Hw.setPorts_units (h : Hw) (x : Ports) : (h.setPorts x).units = h.units := rfl
@[simp] theorem Hw.modPorts_qos (h : Hw) (f : Ports → Ports) : (h.modPorts f).qos = h.qos := rfl
@[simp] theorem Hw.setPorts_qos (h : Hw) (x : Ports) : (h.setPorts x).qos = h.qos := rfl
@[simp] theorem Hw.modPorts_prot (h : Hw) (f : Ports → Ports) : (h.modPorts f).prot = h.prot := rfl
@[simp] theorem Hw.setPorts_prot (h : Hw) (x : Ports) : (h.setPorts x).prot = h.prot := rfl
@[simp] theorem Hw.modPorts_diag (h : Hw) (f : Ports → Ports) : (h.modPorts f).diag = h.diag := rfl
@[simp] theorem Hw.setPorts_diag (h : Hw) (x : Ports) : (h.setPorts x).diag = h.diag := rfl
@[simp] theorem Hw.modPorts_perf (h : Hw) (f : Ports → Ports) : (h.modPorts f).perf = h.perf := rfl
@[simp] theorem Hw.setPorts_perf (h : Hw) (x : Ports) : (h.setPorts x).perf = h.perf := rfl
@[simp] theorem Hw.modPorts_free (h : Hw) (f : Ports → Ports) : (h.modPorts f).free = h.free := rfl
@[simp] theorem Hw.setPorts_free (h : Hw) (x : Ports) : (h.setPorts x).free = h.free := rfl
@[simp] theorem Hw.modPorts_hwSet (h : Hw) (f : Ports → Ports) : (h.modPorts f).hwSet = h.hwSet := rfl
@[simp] theorem Hw.setPorts_hwSet (h : Hw) (x : Ports) : (h.setPorts x).hwSet = h.hwSet := rfl

/-! ### `vp` -/

@[simp] theorem Hw.modVp_cyc (h : Hw) (f : Vp → Vp) : (h.modVp f).cyc = h.cyc := rfl
@[simp] theorem Hw.setVp_cyc (h : Hw) (x : Vp) : (h.setVp x).cyc = h.cyc := rfl
@[simp] theorem Hw.modVp_rst (h : Hw) (f : Vp → Vp) : (h.modVp f).rst = h.rst := rfl
@[simp] theorem Hw.setVp_rst (h : Hw) (x : Vp) : (h.setVp x).rst = h.rst := rfl
@[simp] theorem Hw.modVp_ro (h : Hw) (f : Vp → Vp) : (h.modVp f).ro = h.ro := rfl
@[simp] theorem Hw.setVp_ro (h : Hw) (x : Vp) : (h.setVp x).ro = h.ro := rfl
@[simp] theorem Hw.modVp_ports (h : Hw) (f : Vp → Vp) : (h.modVp f).ports = h.ports := rfl
@[simp] theorem Hw.setVp_ports (h : Hw) (x : Vp) : (h.setVp x).ports = h.ports := rfl
@[simp] theorem Hw.modVp_vp (h : Hw) (f : Vp → Vp) : (h.modVp f).vp = f h.vp := rfl
@[simp] theorem Hw.setVp_vp (h : Hw) (x : Vp) : (h.setVp x).vp = x := rfl
@[simp] theorem Hw.modVp_core (h : Hw) (f : Vp → Vp) : (h.modVp f).core = h.core := rfl
@[simp] theorem Hw.setVp_core (h : Hw) (x : Vp) : (h.setVp x).core = h.core := rfl
@[simp] theorem Hw.modVp_path (h : Hw) (f : Vp → Vp) : (h.modVp f).path = h.path := rfl
@[simp] theorem Hw.setVp_path (h : Hw) (x : Vp) : (h.setVp x).path = h.path := rfl
@[simp] theorem Hw.modVp_home (h : Hw) (f : Vp → Vp) : (h.modVp f).home = h.home := rfl
@[simp] theorem Hw.setVp_home (h : Hw) (x : Vp) : (h.setVp x).home = h.home := rfl
@[simp] theorem Hw.modVp_arr (h : Hw) (f : Vp → Vp) : (h.modVp f).arr = h.arr := rfl
@[simp] theorem Hw.setVp_arr (h : Hw) (x : Vp) : (h.setVp x).arr = h.arr := rfl
@[simp] theorem Hw.modVp_near (h : Hw) (f : Vp → Vp) : (h.modVp f).near = h.near := rfl
@[simp] theorem Hw.setVp_near (h : Hw) (x : Vp) : (h.setVp x).near = h.near := rfl
@[simp] theorem Hw.modVp_xp (h : Hw) (f : Vp → Vp) : (h.modVp f).xp = h.xp := rfl
@[simp] theorem Hw.setVp_xp (h : Hw) (x : Vp) : (h.setVp x).xp = h.xp := rfl
@[simp] theorem Hw.modVp_glp (h : Hw) (f : Vp → Vp) : (h.modVp f).glp = h.glp := rfl
@[simp] theorem Hw.setVp_glp (h : Hw) (x : Vp) : (h.setVp x).glp = h.glp := rfl
@[simp] theorem Hw.modVp_reel (h : Hw) (f : Vp → Vp) : (h.modVp f).reel = h.reel := rfl
@[simp] theorem Hw.setVp_reel (h : Hw) (x : Vp) : (h.setVp x).reel = h.reel := rfl
@[simp] theorem Hw.modVp_units (h : Hw) (f : Vp → Vp) : (h.modVp f).units = h.units := rfl
@[simp] theorem Hw.setVp_units (h : Hw) (x : Vp) : (h.setVp x).units = h.units := rfl
@[simp] theorem Hw.modVp_qos (h : Hw) (f : Vp → Vp) : (h.modVp f).qos = h.qos := rfl
@[simp] theorem Hw.setVp_qos (h : Hw) (x : Vp) : (h.setVp x).qos = h.qos := rfl
@[simp] theorem Hw.modVp_prot (h : Hw) (f : Vp → Vp) : (h.modVp f).prot = h.prot := rfl
@[simp] theorem Hw.setVp_prot (h : Hw) (x : Vp) : (h.setVp x).prot = h.prot := rfl
@[simp] theorem Hw.modVp_diag (h : Hw) (f : Vp → Vp) : (h.modVp f).diag = h.diag := rfl
@[simp] theorem Hw.setVp_diag (h : Hw) (x : Vp) : (h.setVp x).diag = h.diag := rfl
@[simp] theorem Hw.modVp_perf (h : Hw) (f : Vp → Vp) : (h.modVp f).perf = h.perf := rfl
@[simp] theorem Hw.setVp_perf (h : Hw) (x : Vp) : (h.setVp x).perf = h.perf := rfl
@[simp] theorem Hw.modVp_free (h : Hw) (f : Vp → Vp) : (h.modVp f).free = h.free := rfl
@[simp] theorem Hw.setVp_free (h : Hw) (x : Vp) : (h.setVp x).free = h.free := rfl
@[simp] theorem Hw.modVp_hwSet (h : Hw) (f : Vp → Vp) : (h.modVp f).hwSet = h.hwSet := rfl
@[simp] theorem Hw.setVp_hwSet (h : Hw) (x : Vp) : (h.setVp x).hwSet = h.hwSet := rfl

/-! ### `core` -/

@[simp] theorem Hw.modCore_cyc (h : Hw) (f : Core → Core) : (h.modCore f).cyc = h.cyc := rfl
@[simp] theorem Hw.setCore_cyc (h : Hw) (x : Core) : (h.setCore x).cyc = h.cyc := rfl
@[simp] theorem Hw.modCore_rst (h : Hw) (f : Core → Core) : (h.modCore f).rst = h.rst := rfl
@[simp] theorem Hw.setCore_rst (h : Hw) (x : Core) : (h.setCore x).rst = h.rst := rfl
@[simp] theorem Hw.modCore_ro (h : Hw) (f : Core → Core) : (h.modCore f).ro = h.ro := rfl
@[simp] theorem Hw.setCore_ro (h : Hw) (x : Core) : (h.setCore x).ro = h.ro := rfl
@[simp] theorem Hw.modCore_ports (h : Hw) (f : Core → Core) : (h.modCore f).ports = h.ports := rfl
@[simp] theorem Hw.setCore_ports (h : Hw) (x : Core) : (h.setCore x).ports = h.ports := rfl
@[simp] theorem Hw.modCore_vp (h : Hw) (f : Core → Core) : (h.modCore f).vp = h.vp := rfl
@[simp] theorem Hw.setCore_vp (h : Hw) (x : Core) : (h.setCore x).vp = h.vp := rfl
@[simp] theorem Hw.modCore_core (h : Hw) (f : Core → Core) : (h.modCore f).core = f h.core := rfl
@[simp] theorem Hw.setCore_core (h : Hw) (x : Core) : (h.setCore x).core = x := rfl
@[simp] theorem Hw.modCore_path (h : Hw) (f : Core → Core) : (h.modCore f).path = h.path := rfl
@[simp] theorem Hw.setCore_path (h : Hw) (x : Core) : (h.setCore x).path = h.path := rfl
@[simp] theorem Hw.modCore_home (h : Hw) (f : Core → Core) : (h.modCore f).home = h.home := rfl
@[simp] theorem Hw.setCore_home (h : Hw) (x : Core) : (h.setCore x).home = h.home := rfl
@[simp] theorem Hw.modCore_arr (h : Hw) (f : Core → Core) : (h.modCore f).arr = h.arr := rfl
@[simp] theorem Hw.setCore_arr (h : Hw) (x : Core) : (h.setCore x).arr = h.arr := rfl
@[simp] theorem Hw.modCore_near (h : Hw) (f : Core → Core) : (h.modCore f).near = h.near := rfl
@[simp] theorem Hw.setCore_near (h : Hw) (x : Core) : (h.setCore x).near = h.near := rfl
@[simp] theorem Hw.modCore_xp (h : Hw) (f : Core → Core) : (h.modCore f).xp = h.xp := rfl
@[simp] theorem Hw.setCore_xp (h : Hw) (x : Core) : (h.setCore x).xp = h.xp := rfl
@[simp] theorem Hw.modCore_glp (h : Hw) (f : Core → Core) : (h.modCore f).glp = h.glp := rfl
@[simp] theorem Hw.setCore_glp (h : Hw) (x : Core) : (h.setCore x).glp = h.glp := rfl
@[simp] theorem Hw.modCore_reel (h : Hw) (f : Core → Core) : (h.modCore f).reel = h.reel := rfl
@[simp] theorem Hw.setCore_reel (h : Hw) (x : Core) : (h.setCore x).reel = h.reel := rfl
@[simp] theorem Hw.modCore_units (h : Hw) (f : Core → Core) : (h.modCore f).units = h.units := rfl
@[simp] theorem Hw.setCore_units (h : Hw) (x : Core) : (h.setCore x).units = h.units := rfl
@[simp] theorem Hw.modCore_qos (h : Hw) (f : Core → Core) : (h.modCore f).qos = h.qos := rfl
@[simp] theorem Hw.setCore_qos (h : Hw) (x : Core) : (h.setCore x).qos = h.qos := rfl
@[simp] theorem Hw.modCore_prot (h : Hw) (f : Core → Core) : (h.modCore f).prot = h.prot := rfl
@[simp] theorem Hw.setCore_prot (h : Hw) (x : Core) : (h.setCore x).prot = h.prot := rfl
@[simp] theorem Hw.modCore_diag (h : Hw) (f : Core → Core) : (h.modCore f).diag = h.diag := rfl
@[simp] theorem Hw.setCore_diag (h : Hw) (x : Core) : (h.setCore x).diag = h.diag := rfl
@[simp] theorem Hw.modCore_perf (h : Hw) (f : Core → Core) : (h.modCore f).perf = h.perf := rfl
@[simp] theorem Hw.setCore_perf (h : Hw) (x : Core) : (h.setCore x).perf = h.perf := rfl
@[simp] theorem Hw.modCore_free (h : Hw) (f : Core → Core) : (h.modCore f).free = h.free := rfl
@[simp] theorem Hw.setCore_free (h : Hw) (x : Core) : (h.setCore x).free = h.free := rfl
@[simp] theorem Hw.modCore_hwSet (h : Hw) (f : Core → Core) : (h.modCore f).hwSet = h.hwSet := rfl
@[simp] theorem Hw.setCore_hwSet (h : Hw) (x : Core) : (h.setCore x).hwSet = h.hwSet := rfl

/-! ### `path` -/

@[simp] theorem Hw.modPath_cyc (h : Hw) (f : RegPath → RegPath) : (h.modPath f).cyc = h.cyc := rfl
@[simp] theorem Hw.setPath_cyc (h : Hw) (x : RegPath) : (h.setPath x).cyc = h.cyc := rfl
@[simp] theorem Hw.modPath_rst (h : Hw) (f : RegPath → RegPath) : (h.modPath f).rst = h.rst := rfl
@[simp] theorem Hw.setPath_rst (h : Hw) (x : RegPath) : (h.setPath x).rst = h.rst := rfl
@[simp] theorem Hw.modPath_ro (h : Hw) (f : RegPath → RegPath) : (h.modPath f).ro = h.ro := rfl
@[simp] theorem Hw.setPath_ro (h : Hw) (x : RegPath) : (h.setPath x).ro = h.ro := rfl
@[simp] theorem Hw.modPath_ports (h : Hw) (f : RegPath → RegPath) : (h.modPath f).ports = h.ports := rfl
@[simp] theorem Hw.setPath_ports (h : Hw) (x : RegPath) : (h.setPath x).ports = h.ports := rfl
@[simp] theorem Hw.modPath_vp (h : Hw) (f : RegPath → RegPath) : (h.modPath f).vp = h.vp := rfl
@[simp] theorem Hw.setPath_vp (h : Hw) (x : RegPath) : (h.setPath x).vp = h.vp := rfl
@[simp] theorem Hw.modPath_core (h : Hw) (f : RegPath → RegPath) : (h.modPath f).core = h.core := rfl
@[simp] theorem Hw.setPath_core (h : Hw) (x : RegPath) : (h.setPath x).core = h.core := rfl
@[simp] theorem Hw.modPath_path (h : Hw) (f : RegPath → RegPath) : (h.modPath f).path = f h.path := rfl
@[simp] theorem Hw.setPath_path (h : Hw) (x : RegPath) : (h.setPath x).path = x := rfl
@[simp] theorem Hw.modPath_home (h : Hw) (f : RegPath → RegPath) : (h.modPath f).home = h.home := rfl
@[simp] theorem Hw.setPath_home (h : Hw) (x : RegPath) : (h.setPath x).home = h.home := rfl
@[simp] theorem Hw.modPath_arr (h : Hw) (f : RegPath → RegPath) : (h.modPath f).arr = h.arr := rfl
@[simp] theorem Hw.setPath_arr (h : Hw) (x : RegPath) : (h.setPath x).arr = h.arr := rfl
@[simp] theorem Hw.modPath_near (h : Hw) (f : RegPath → RegPath) : (h.modPath f).near = h.near := rfl
@[simp] theorem Hw.setPath_near (h : Hw) (x : RegPath) : (h.setPath x).near = h.near := rfl
@[simp] theorem Hw.modPath_xp (h : Hw) (f : RegPath → RegPath) : (h.modPath f).xp = h.xp := rfl
@[simp] theorem Hw.setPath_xp (h : Hw) (x : RegPath) : (h.setPath x).xp = h.xp := rfl
@[simp] theorem Hw.modPath_glp (h : Hw) (f : RegPath → RegPath) : (h.modPath f).glp = h.glp := rfl
@[simp] theorem Hw.setPath_glp (h : Hw) (x : RegPath) : (h.setPath x).glp = h.glp := rfl
@[simp] theorem Hw.modPath_reel (h : Hw) (f : RegPath → RegPath) : (h.modPath f).reel = h.reel := rfl
@[simp] theorem Hw.setPath_reel (h : Hw) (x : RegPath) : (h.setPath x).reel = h.reel := rfl
@[simp] theorem Hw.modPath_units (h : Hw) (f : RegPath → RegPath) : (h.modPath f).units = h.units := rfl
@[simp] theorem Hw.setPath_units (h : Hw) (x : RegPath) : (h.setPath x).units = h.units := rfl
@[simp] theorem Hw.modPath_qos (h : Hw) (f : RegPath → RegPath) : (h.modPath f).qos = h.qos := rfl
@[simp] theorem Hw.setPath_qos (h : Hw) (x : RegPath) : (h.setPath x).qos = h.qos := rfl
@[simp] theorem Hw.modPath_prot (h : Hw) (f : RegPath → RegPath) : (h.modPath f).prot = h.prot := rfl
@[simp] theorem Hw.setPath_prot (h : Hw) (x : RegPath) : (h.setPath x).prot = h.prot := rfl
@[simp] theorem Hw.modPath_diag (h : Hw) (f : RegPath → RegPath) : (h.modPath f).diag = h.diag := rfl
@[simp] theorem Hw.setPath_diag (h : Hw) (x : RegPath) : (h.setPath x).diag = h.diag := rfl
@[simp] theorem Hw.modPath_perf (h : Hw) (f : RegPath → RegPath) : (h.modPath f).perf = h.perf := rfl
@[simp] theorem Hw.setPath_perf (h : Hw) (x : RegPath) : (h.setPath x).perf = h.perf := rfl
@[simp] theorem Hw.modPath_free (h : Hw) (f : RegPath → RegPath) : (h.modPath f).free = h.free := rfl
@[simp] theorem Hw.setPath_free (h : Hw) (x : RegPath) : (h.setPath x).free = h.free := rfl
@[simp] theorem Hw.modPath_hwSet (h : Hw) (f : RegPath → RegPath) : (h.modPath f).hwSet = h.hwSet := rfl
@[simp] theorem Hw.setPath_hwSet (h : Hw) (x : RegPath) : (h.setPath x).hwSet = h.hwSet := rfl

/-! ### `home` -/

@[simp] theorem Hw.modHome_cyc (h : Hw) (f : Home → Home) : (h.modHome f).cyc = h.cyc := rfl
@[simp] theorem Hw.setHome_cyc (h : Hw) (x : Home) : (h.setHome x).cyc = h.cyc := rfl
@[simp] theorem Hw.modHome_rst (h : Hw) (f : Home → Home) : (h.modHome f).rst = h.rst := rfl
@[simp] theorem Hw.setHome_rst (h : Hw) (x : Home) : (h.setHome x).rst = h.rst := rfl
@[simp] theorem Hw.modHome_ro (h : Hw) (f : Home → Home) : (h.modHome f).ro = h.ro := rfl
@[simp] theorem Hw.setHome_ro (h : Hw) (x : Home) : (h.setHome x).ro = h.ro := rfl
@[simp] theorem Hw.modHome_ports (h : Hw) (f : Home → Home) : (h.modHome f).ports = h.ports := rfl
@[simp] theorem Hw.setHome_ports (h : Hw) (x : Home) : (h.setHome x).ports = h.ports := rfl
@[simp] theorem Hw.modHome_vp (h : Hw) (f : Home → Home) : (h.modHome f).vp = h.vp := rfl
@[simp] theorem Hw.setHome_vp (h : Hw) (x : Home) : (h.setHome x).vp = h.vp := rfl
@[simp] theorem Hw.modHome_core (h : Hw) (f : Home → Home) : (h.modHome f).core = h.core := rfl
@[simp] theorem Hw.setHome_core (h : Hw) (x : Home) : (h.setHome x).core = h.core := rfl
@[simp] theorem Hw.modHome_path (h : Hw) (f : Home → Home) : (h.modHome f).path = h.path := rfl
@[simp] theorem Hw.setHome_path (h : Hw) (x : Home) : (h.setHome x).path = h.path := rfl
@[simp] theorem Hw.modHome_home (h : Hw) (f : Home → Home) : (h.modHome f).home = f h.home := rfl
@[simp] theorem Hw.setHome_home (h : Hw) (x : Home) : (h.setHome x).home = x := rfl
@[simp] theorem Hw.modHome_arr (h : Hw) (f : Home → Home) : (h.modHome f).arr = h.arr := rfl
@[simp] theorem Hw.setHome_arr (h : Hw) (x : Home) : (h.setHome x).arr = h.arr := rfl
@[simp] theorem Hw.modHome_near (h : Hw) (f : Home → Home) : (h.modHome f).near = h.near := rfl
@[simp] theorem Hw.setHome_near (h : Hw) (x : Home) : (h.setHome x).near = h.near := rfl
@[simp] theorem Hw.modHome_xp (h : Hw) (f : Home → Home) : (h.modHome f).xp = h.xp := rfl
@[simp] theorem Hw.setHome_xp (h : Hw) (x : Home) : (h.setHome x).xp = h.xp := rfl
@[simp] theorem Hw.modHome_glp (h : Hw) (f : Home → Home) : (h.modHome f).glp = h.glp := rfl
@[simp] theorem Hw.setHome_glp (h : Hw) (x : Home) : (h.setHome x).glp = h.glp := rfl
@[simp] theorem Hw.modHome_reel (h : Hw) (f : Home → Home) : (h.modHome f).reel = h.reel := rfl
@[simp] theorem Hw.setHome_reel (h : Hw) (x : Home) : (h.setHome x).reel = h.reel := rfl
@[simp] theorem Hw.modHome_units (h : Hw) (f : Home → Home) : (h.modHome f).units = h.units := rfl
@[simp] theorem Hw.setHome_units (h : Hw) (x : Home) : (h.setHome x).units = h.units := rfl
@[simp] theorem Hw.modHome_qos (h : Hw) (f : Home → Home) : (h.modHome f).qos = h.qos := rfl
@[simp] theorem Hw.setHome_qos (h : Hw) (x : Home) : (h.setHome x).qos = h.qos := rfl
@[simp] theorem Hw.modHome_prot (h : Hw) (f : Home → Home) : (h.modHome f).prot = h.prot := rfl
@[simp] theorem Hw.setHome_prot (h : Hw) (x : Home) : (h.setHome x).prot = h.prot := rfl
@[simp] theorem Hw.modHome_diag (h : Hw) (f : Home → Home) : (h.modHome f).diag = h.diag := rfl
@[simp] theorem Hw.setHome_diag (h : Hw) (x : Home) : (h.setHome x).diag = h.diag := rfl
@[simp] theorem Hw.modHome_perf (h : Hw) (f : Home → Home) : (h.modHome f).perf = h.perf := rfl
@[simp] theorem Hw.setHome_perf (h : Hw) (x : Home) : (h.setHome x).perf = h.perf := rfl
@[simp] theorem Hw.modHome_free (h : Hw) (f : Home → Home) : (h.modHome f).free = h.free := rfl
@[simp] theorem Hw.setHome_free (h : Hw) (x : Home) : (h.setHome x).free = h.free := rfl
@[simp] theorem Hw.modHome_hwSet (h : Hw) (f : Home → Home) : (h.modHome f).hwSet = h.hwSet := rfl
@[simp] theorem Hw.setHome_hwSet (h : Hw) (x : Home) : (h.setHome x).hwSet = h.hwSet := rfl

/-! ### `arr` -/

@[simp] theorem Hw.modArr_cyc (h : Hw) (f : Arr → Arr) : (h.modArr f).cyc = h.cyc := rfl
@[simp] theorem Hw.setArr_cyc (h : Hw) (x : Arr) : (h.setArr x).cyc = h.cyc := rfl
@[simp] theorem Hw.modArr_rst (h : Hw) (f : Arr → Arr) : (h.modArr f).rst = h.rst := rfl
@[simp] theorem Hw.setArr_rst (h : Hw) (x : Arr) : (h.setArr x).rst = h.rst := rfl
@[simp] theorem Hw.modArr_ro (h : Hw) (f : Arr → Arr) : (h.modArr f).ro = h.ro := rfl
@[simp] theorem Hw.setArr_ro (h : Hw) (x : Arr) : (h.setArr x).ro = h.ro := rfl
@[simp] theorem Hw.modArr_ports (h : Hw) (f : Arr → Arr) : (h.modArr f).ports = h.ports := rfl
@[simp] theorem Hw.setArr_ports (h : Hw) (x : Arr) : (h.setArr x).ports = h.ports := rfl
@[simp] theorem Hw.modArr_vp (h : Hw) (f : Arr → Arr) : (h.modArr f).vp = h.vp := rfl
@[simp] theorem Hw.setArr_vp (h : Hw) (x : Arr) : (h.setArr x).vp = h.vp := rfl
@[simp] theorem Hw.modArr_core (h : Hw) (f : Arr → Arr) : (h.modArr f).core = h.core := rfl
@[simp] theorem Hw.setArr_core (h : Hw) (x : Arr) : (h.setArr x).core = h.core := rfl
@[simp] theorem Hw.modArr_path (h : Hw) (f : Arr → Arr) : (h.modArr f).path = h.path := rfl
@[simp] theorem Hw.setArr_path (h : Hw) (x : Arr) : (h.setArr x).path = h.path := rfl
@[simp] theorem Hw.modArr_home (h : Hw) (f : Arr → Arr) : (h.modArr f).home = h.home := rfl
@[simp] theorem Hw.setArr_home (h : Hw) (x : Arr) : (h.setArr x).home = h.home := rfl
@[simp] theorem Hw.modArr_arr (h : Hw) (f : Arr → Arr) : (h.modArr f).arr = f h.arr := rfl
@[simp] theorem Hw.setArr_arr (h : Hw) (x : Arr) : (h.setArr x).arr = x := rfl
@[simp] theorem Hw.modArr_near (h : Hw) (f : Arr → Arr) : (h.modArr f).near = h.near := rfl
@[simp] theorem Hw.setArr_near (h : Hw) (x : Arr) : (h.setArr x).near = h.near := rfl
@[simp] theorem Hw.modArr_xp (h : Hw) (f : Arr → Arr) : (h.modArr f).xp = h.xp := rfl
@[simp] theorem Hw.setArr_xp (h : Hw) (x : Arr) : (h.setArr x).xp = h.xp := rfl
@[simp] theorem Hw.modArr_glp (h : Hw) (f : Arr → Arr) : (h.modArr f).glp = h.glp := rfl
@[simp] theorem Hw.setArr_glp (h : Hw) (x : Arr) : (h.setArr x).glp = h.glp := rfl
@[simp] theorem Hw.modArr_reel (h : Hw) (f : Arr → Arr) : (h.modArr f).reel = h.reel := rfl
@[simp] theorem Hw.setArr_reel (h : Hw) (x : Arr) : (h.setArr x).reel = h.reel := rfl
@[simp] theorem Hw.modArr_units (h : Hw) (f : Arr → Arr) : (h.modArr f).units = h.units := rfl
@[simp] theorem Hw.setArr_units (h : Hw) (x : Arr) : (h.setArr x).units = h.units := rfl
@[simp] theorem Hw.modArr_qos (h : Hw) (f : Arr → Arr) : (h.modArr f).qos = h.qos := rfl
@[simp] theorem Hw.setArr_qos (h : Hw) (x : Arr) : (h.setArr x).qos = h.qos := rfl
@[simp] theorem Hw.modArr_prot (h : Hw) (f : Arr → Arr) : (h.modArr f).prot = h.prot := rfl
@[simp] theorem Hw.setArr_prot (h : Hw) (x : Arr) : (h.setArr x).prot = h.prot := rfl
@[simp] theorem Hw.modArr_diag (h : Hw) (f : Arr → Arr) : (h.modArr f).diag = h.diag := rfl
@[simp] theorem Hw.setArr_diag (h : Hw) (x : Arr) : (h.setArr x).diag = h.diag := rfl
@[simp] theorem Hw.modArr_perf (h : Hw) (f : Arr → Arr) : (h.modArr f).perf = h.perf := rfl
@[simp] theorem Hw.setArr_perf (h : Hw) (x : Arr) : (h.setArr x).perf = h.perf := rfl
@[simp] theorem Hw.modArr_free (h : Hw) (f : Arr → Arr) : (h.modArr f).free = h.free := rfl
@[simp] theorem Hw.setArr_free (h : Hw) (x : Arr) : (h.setArr x).free = h.free := rfl
@[simp] theorem Hw.modArr_hwSet (h : Hw) (f : Arr → Arr) : (h.modArr f).hwSet = h.hwSet := rfl
@[simp] theorem Hw.setArr_hwSet (h : Hw) (x : Arr) : (h.setArr x).hwSet = h.hwSet := rfl

/-! ### `near` -/

@[simp] theorem Hw.modNear_cyc (h : Hw) (f : Near → Near) : (h.modNear f).cyc = h.cyc := rfl
@[simp] theorem Hw.setNear_cyc (h : Hw) (x : Near) : (h.setNear x).cyc = h.cyc := rfl
@[simp] theorem Hw.modNear_rst (h : Hw) (f : Near → Near) : (h.modNear f).rst = h.rst := rfl
@[simp] theorem Hw.setNear_rst (h : Hw) (x : Near) : (h.setNear x).rst = h.rst := rfl
@[simp] theorem Hw.modNear_ro (h : Hw) (f : Near → Near) : (h.modNear f).ro = h.ro := rfl
@[simp] theorem Hw.setNear_ro (h : Hw) (x : Near) : (h.setNear x).ro = h.ro := rfl
@[simp] theorem Hw.modNear_ports (h : Hw) (f : Near → Near) : (h.modNear f).ports = h.ports := rfl
@[simp] theorem Hw.setNear_ports (h : Hw) (x : Near) : (h.setNear x).ports = h.ports := rfl
@[simp] theorem Hw.modNear_vp (h : Hw) (f : Near → Near) : (h.modNear f).vp = h.vp := rfl
@[simp] theorem Hw.setNear_vp (h : Hw) (x : Near) : (h.setNear x).vp = h.vp := rfl
@[simp] theorem Hw.modNear_core (h : Hw) (f : Near → Near) : (h.modNear f).core = h.core := rfl
@[simp] theorem Hw.setNear_core (h : Hw) (x : Near) : (h.setNear x).core = h.core := rfl
@[simp] theorem Hw.modNear_path (h : Hw) (f : Near → Near) : (h.modNear f).path = h.path := rfl
@[simp] theorem Hw.setNear_path (h : Hw) (x : Near) : (h.setNear x).path = h.path := rfl
@[simp] theorem Hw.modNear_home (h : Hw) (f : Near → Near) : (h.modNear f).home = h.home := rfl
@[simp] theorem Hw.setNear_home (h : Hw) (x : Near) : (h.setNear x).home = h.home := rfl
@[simp] theorem Hw.modNear_arr (h : Hw) (f : Near → Near) : (h.modNear f).arr = h.arr := rfl
@[simp] theorem Hw.setNear_arr (h : Hw) (x : Near) : (h.setNear x).arr = h.arr := rfl
@[simp] theorem Hw.modNear_near (h : Hw) (f : Near → Near) : (h.modNear f).near = f h.near := rfl
@[simp] theorem Hw.setNear_near (h : Hw) (x : Near) : (h.setNear x).near = x := rfl
@[simp] theorem Hw.modNear_xp (h : Hw) (f : Near → Near) : (h.modNear f).xp = h.xp := rfl
@[simp] theorem Hw.setNear_xp (h : Hw) (x : Near) : (h.setNear x).xp = h.xp := rfl
@[simp] theorem Hw.modNear_glp (h : Hw) (f : Near → Near) : (h.modNear f).glp = h.glp := rfl
@[simp] theorem Hw.setNear_glp (h : Hw) (x : Near) : (h.setNear x).glp = h.glp := rfl
@[simp] theorem Hw.modNear_reel (h : Hw) (f : Near → Near) : (h.modNear f).reel = h.reel := rfl
@[simp] theorem Hw.setNear_reel (h : Hw) (x : Near) : (h.setNear x).reel = h.reel := rfl
@[simp] theorem Hw.modNear_units (h : Hw) (f : Near → Near) : (h.modNear f).units = h.units := rfl
@[simp] theorem Hw.setNear_units (h : Hw) (x : Near) : (h.setNear x).units = h.units := rfl
@[simp] theorem Hw.modNear_qos (h : Hw) (f : Near → Near) : (h.modNear f).qos = h.qos := rfl
@[simp] theorem Hw.setNear_qos (h : Hw) (x : Near) : (h.setNear x).qos = h.qos := rfl
@[simp] theorem Hw.modNear_prot (h : Hw) (f : Near → Near) : (h.modNear f).prot = h.prot := rfl
@[simp] theorem Hw.setNear_prot (h : Hw) (x : Near) : (h.setNear x).prot = h.prot := rfl
@[simp] theorem Hw.modNear_diag (h : Hw) (f : Near → Near) : (h.modNear f).diag = h.diag := rfl
@[simp] theorem Hw.setNear_diag (h : Hw) (x : Near) : (h.setNear x).diag = h.diag := rfl
@[simp] theorem Hw.modNear_perf (h : Hw) (f : Near → Near) : (h.modNear f).perf = h.perf := rfl
@[simp] theorem Hw.setNear_perf (h : Hw) (x : Near) : (h.setNear x).perf = h.perf := rfl
@[simp] theorem Hw.modNear_free (h : Hw) (f : Near → Near) : (h.modNear f).free = h.free := rfl
@[simp] theorem Hw.setNear_free (h : Hw) (x : Near) : (h.setNear x).free = h.free := rfl
@[simp] theorem Hw.modNear_hwSet (h : Hw) (f : Near → Near) : (h.modNear f).hwSet = h.hwSet := rfl
@[simp] theorem Hw.setNear_hwSet (h : Hw) (x : Near) : (h.setNear x).hwSet = h.hwSet := rfl

/-! ### `xp` -/

@[simp] theorem Hw.modXp_cyc (h : Hw) (f : Xp → Xp) : (h.modXp f).cyc = h.cyc := rfl
@[simp] theorem Hw.setXp_cyc (h : Hw) (x : Xp) : (h.setXp x).cyc = h.cyc := rfl
@[simp] theorem Hw.modXp_rst (h : Hw) (f : Xp → Xp) : (h.modXp f).rst = h.rst := rfl
@[simp] theorem Hw.setXp_rst (h : Hw) (x : Xp) : (h.setXp x).rst = h.rst := rfl
@[simp] theorem Hw.modXp_ro (h : Hw) (f : Xp → Xp) : (h.modXp f).ro = h.ro := rfl
@[simp] theorem Hw.setXp_ro (h : Hw) (x : Xp) : (h.setXp x).ro = h.ro := rfl
@[simp] theorem Hw.modXp_ports (h : Hw) (f : Xp → Xp) : (h.modXp f).ports = h.ports := rfl
@[simp] theorem Hw.setXp_ports (h : Hw) (x : Xp) : (h.setXp x).ports = h.ports := rfl
@[simp] theorem Hw.modXp_vp (h : Hw) (f : Xp → Xp) : (h.modXp f).vp = h.vp := rfl
@[simp] theorem Hw.setXp_vp (h : Hw) (x : Xp) : (h.setXp x).vp = h.vp := rfl
@[simp] theorem Hw.modXp_core (h : Hw) (f : Xp → Xp) : (h.modXp f).core = h.core := rfl
@[simp] theorem Hw.setXp_core (h : Hw) (x : Xp) : (h.setXp x).core = h.core := rfl
@[simp] theorem Hw.modXp_path (h : Hw) (f : Xp → Xp) : (h.modXp f).path = h.path := rfl
@[simp] theorem Hw.setXp_path (h : Hw) (x : Xp) : (h.setXp x).path = h.path := rfl
@[simp] theorem Hw.modXp_home (h : Hw) (f : Xp → Xp) : (h.modXp f).home = h.home := rfl
@[simp] theorem Hw.setXp_home (h : Hw) (x : Xp) : (h.setXp x).home = h.home := rfl
@[simp] theorem Hw.modXp_arr (h : Hw) (f : Xp → Xp) : (h.modXp f).arr = h.arr := rfl
@[simp] theorem Hw.setXp_arr (h : Hw) (x : Xp) : (h.setXp x).arr = h.arr := rfl
@[simp] theorem Hw.modXp_near (h : Hw) (f : Xp → Xp) : (h.modXp f).near = h.near := rfl
@[simp] theorem Hw.setXp_near (h : Hw) (x : Xp) : (h.setXp x).near = h.near := rfl
@[simp] theorem Hw.modXp_xp (h : Hw) (f : Xp → Xp) : (h.modXp f).xp = f h.xp := rfl
@[simp] theorem Hw.setXp_xp (h : Hw) (x : Xp) : (h.setXp x).xp = x := rfl
@[simp] theorem Hw.modXp_glp (h : Hw) (f : Xp → Xp) : (h.modXp f).glp = h.glp := rfl
@[simp] theorem Hw.setXp_glp (h : Hw) (x : Xp) : (h.setXp x).glp = h.glp := rfl
@[simp] theorem Hw.modXp_reel (h : Hw) (f : Xp → Xp) : (h.modXp f).reel = h.reel := rfl
@[simp] theorem Hw.setXp_reel (h : Hw) (x : Xp) : (h.setXp x).reel = h.reel := rfl
@[simp] theorem Hw.modXp_units (h : Hw) (f : Xp → Xp) : (h.modXp f).units = h.units := rfl
@[simp] theorem Hw.setXp_units (h : Hw) (x : Xp) : (h.setXp x).units = h.units := rfl
@[simp] theorem Hw.modXp_qos (h : Hw) (f : Xp → Xp) : (h.modXp f).qos = h.qos := rfl
@[simp] theorem Hw.setXp_qos (h : Hw) (x : Xp) : (h.setXp x).qos = h.qos := rfl
@[simp] theorem Hw.modXp_prot (h : Hw) (f : Xp → Xp) : (h.modXp f).prot = h.prot := rfl
@[simp] theorem Hw.setXp_prot (h : Hw) (x : Xp) : (h.setXp x).prot = h.prot := rfl
@[simp] theorem Hw.modXp_diag (h : Hw) (f : Xp → Xp) : (h.modXp f).diag = h.diag := rfl
@[simp] theorem Hw.setXp_diag (h : Hw) (x : Xp) : (h.setXp x).diag = h.diag := rfl
@[simp] theorem Hw.modXp_perf (h : Hw) (f : Xp → Xp) : (h.modXp f).perf = h.perf := rfl
@[simp] theorem Hw.setXp_perf (h : Hw) (x : Xp) : (h.setXp x).perf = h.perf := rfl
@[simp] theorem Hw.modXp_free (h : Hw) (f : Xp → Xp) : (h.modXp f).free = h.free := rfl
@[simp] theorem Hw.setXp_free (h : Hw) (x : Xp) : (h.setXp x).free = h.free := rfl
@[simp] theorem Hw.modXp_hwSet (h : Hw) (f : Xp → Xp) : (h.modXp f).hwSet = h.hwSet := rfl
@[simp] theorem Hw.setXp_hwSet (h : Hw) (x : Xp) : (h.setXp x).hwSet = h.hwSet := rfl

/-! ### `glp` -/

@[simp] theorem Hw.modGlp_cyc (h : Hw) (f : Glp → Glp) : (h.modGlp f).cyc = h.cyc := rfl
@[simp] theorem Hw.setGlp_cyc (h : Hw) (x : Glp) : (h.setGlp x).cyc = h.cyc := rfl
@[simp] theorem Hw.modGlp_rst (h : Hw) (f : Glp → Glp) : (h.modGlp f).rst = h.rst := rfl
@[simp] theorem Hw.setGlp_rst (h : Hw) (x : Glp) : (h.setGlp x).rst = h.rst := rfl
@[simp] theorem Hw.modGlp_ro (h : Hw) (f : Glp → Glp) : (h.modGlp f).ro = h.ro := rfl
@[simp] theorem Hw.setGlp_ro (h : Hw) (x : Glp) : (h.setGlp x).ro = h.ro := rfl
@[simp] theorem Hw.modGlp_ports (h : Hw) (f : Glp → Glp) : (h.modGlp f).ports = h.ports := rfl
@[simp] theorem Hw.setGlp_ports (h : Hw) (x : Glp) : (h.setGlp x).ports = h.ports := rfl
@[simp] theorem Hw.modGlp_vp (h : Hw) (f : Glp → Glp) : (h.modGlp f).vp = h.vp := rfl
@[simp] theorem Hw.setGlp_vp (h : Hw) (x : Glp) : (h.setGlp x).vp = h.vp := rfl
@[simp] theorem Hw.modGlp_core (h : Hw) (f : Glp → Glp) : (h.modGlp f).core = h.core := rfl
@[simp] theorem Hw.setGlp_core (h : Hw) (x : Glp) : (h.setGlp x).core = h.core := rfl
@[simp] theorem Hw.modGlp_path (h : Hw) (f : Glp → Glp) : (h.modGlp f).path = h.path := rfl
@[simp] theorem Hw.setGlp_path (h : Hw) (x : Glp) : (h.setGlp x).path = h.path := rfl
@[simp] theorem Hw.modGlp_home (h : Hw) (f : Glp → Glp) : (h.modGlp f).home = h.home := rfl
@[simp] theorem Hw.setGlp_home (h : Hw) (x : Glp) : (h.setGlp x).home = h.home := rfl
@[simp] theorem Hw.modGlp_arr (h : Hw) (f : Glp → Glp) : (h.modGlp f).arr = h.arr := rfl
@[simp] theorem Hw.setGlp_arr (h : Hw) (x : Glp) : (h.setGlp x).arr = h.arr := rfl
@[simp] theorem Hw.modGlp_near (h : Hw) (f : Glp → Glp) : (h.modGlp f).near = h.near := rfl
@[simp] theorem Hw.setGlp_near (h : Hw) (x : Glp) : (h.setGlp x).near = h.near := rfl
@[simp] theorem Hw.modGlp_xp (h : Hw) (f : Glp → Glp) : (h.modGlp f).xp = h.xp := rfl
@[simp] theorem Hw.setGlp_xp (h : Hw) (x : Glp) : (h.setGlp x).xp = h.xp := rfl
@[simp] theorem Hw.modGlp_glp (h : Hw) (f : Glp → Glp) : (h.modGlp f).glp = f h.glp := rfl
@[simp] theorem Hw.setGlp_glp (h : Hw) (x : Glp) : (h.setGlp x).glp = x := rfl
@[simp] theorem Hw.modGlp_reel (h : Hw) (f : Glp → Glp) : (h.modGlp f).reel = h.reel := rfl
@[simp] theorem Hw.setGlp_reel (h : Hw) (x : Glp) : (h.setGlp x).reel = h.reel := rfl
@[simp] theorem Hw.modGlp_units (h : Hw) (f : Glp → Glp) : (h.modGlp f).units = h.units := rfl
@[simp] theorem Hw.setGlp_units (h : Hw) (x : Glp) : (h.setGlp x).units = h.units := rfl
@[simp] theorem Hw.modGlp_qos (h : Hw) (f : Glp → Glp) : (h.modGlp f).qos = h.qos := rfl
@[simp] theorem Hw.setGlp_qos (h : Hw) (x : Glp) : (h.setGlp x).qos = h.qos := rfl
@[simp] theorem Hw.modGlp_prot (h : Hw) (f : Glp → Glp) : (h.modGlp f).prot = h.prot := rfl
@[simp] theorem Hw.setGlp_prot (h : Hw) (x : Glp) : (h.setGlp x).prot = h.prot := rfl
@[simp] theorem Hw.modGlp_diag (h : Hw) (f : Glp → Glp) : (h.modGlp f).diag = h.diag := rfl
@[simp] theorem Hw.setGlp_diag (h : Hw) (x : Glp) : (h.setGlp x).diag = h.diag := rfl
@[simp] theorem Hw.modGlp_perf (h : Hw) (f : Glp → Glp) : (h.modGlp f).perf = h.perf := rfl
@[simp] theorem Hw.setGlp_perf (h : Hw) (x : Glp) : (h.setGlp x).perf = h.perf := rfl
@[simp] theorem Hw.modGlp_free (h : Hw) (f : Glp → Glp) : (h.modGlp f).free = h.free := rfl
@[simp] theorem Hw.setGlp_free (h : Hw) (x : Glp) : (h.setGlp x).free = h.free := rfl
@[simp] theorem Hw.modGlp_hwSet (h : Hw) (f : Glp → Glp) : (h.modGlp f).hwSet = h.hwSet := rfl
@[simp] theorem Hw.setGlp_hwSet (h : Hw) (x : Glp) : (h.setGlp x).hwSet = h.hwSet := rfl

/-! ### `reel` -/

@[simp] theorem Hw.modReel_cyc (h : Hw) (f : Reel → Reel) : (h.modReel f).cyc = h.cyc := rfl
@[simp] theorem Hw.setReel_cyc (h : Hw) (x : Reel) : (h.setReel x).cyc = h.cyc := rfl
@[simp] theorem Hw.modReel_rst (h : Hw) (f : Reel → Reel) : (h.modReel f).rst = h.rst := rfl
@[simp] theorem Hw.setReel_rst (h : Hw) (x : Reel) : (h.setReel x).rst = h.rst := rfl
@[simp] theorem Hw.modReel_ro (h : Hw) (f : Reel → Reel) : (h.modReel f).ro = h.ro := rfl
@[simp] theorem Hw.setReel_ro (h : Hw) (x : Reel) : (h.setReel x).ro = h.ro := rfl
@[simp] theorem Hw.modReel_ports (h : Hw) (f : Reel → Reel) : (h.modReel f).ports = h.ports := rfl
@[simp] theorem Hw.setReel_ports (h : Hw) (x : Reel) : (h.setReel x).ports = h.ports := rfl
@[simp] theorem Hw.modReel_vp (h : Hw) (f : Reel → Reel) : (h.modReel f).vp = h.vp := rfl
@[simp] theorem Hw.setReel_vp (h : Hw) (x : Reel) : (h.setReel x).vp = h.vp := rfl
@[simp] theorem Hw.modReel_core (h : Hw) (f : Reel → Reel) : (h.modReel f).core = h.core := rfl
@[simp] theorem Hw.setReel_core (h : Hw) (x : Reel) : (h.setReel x).core = h.core := rfl
@[simp] theorem Hw.modReel_path (h : Hw) (f : Reel → Reel) : (h.modReel f).path = h.path := rfl
@[simp] theorem Hw.setReel_path (h : Hw) (x : Reel) : (h.setReel x).path = h.path := rfl
@[simp] theorem Hw.modReel_home (h : Hw) (f : Reel → Reel) : (h.modReel f).home = h.home := rfl
@[simp] theorem Hw.setReel_home (h : Hw) (x : Reel) : (h.setReel x).home = h.home := rfl
@[simp] theorem Hw.modReel_arr (h : Hw) (f : Reel → Reel) : (h.modReel f).arr = h.arr := rfl
@[simp] theorem Hw.setReel_arr (h : Hw) (x : Reel) : (h.setReel x).arr = h.arr := rfl
@[simp] theorem Hw.modReel_near (h : Hw) (f : Reel → Reel) : (h.modReel f).near = h.near := rfl
@[simp] theorem Hw.setReel_near (h : Hw) (x : Reel) : (h.setReel x).near = h.near := rfl
@[simp] theorem Hw.modReel_xp (h : Hw) (f : Reel → Reel) : (h.modReel f).xp = h.xp := rfl
@[simp] theorem Hw.setReel_xp (h : Hw) (x : Reel) : (h.setReel x).xp = h.xp := rfl
@[simp] theorem Hw.modReel_glp (h : Hw) (f : Reel → Reel) : (h.modReel f).glp = h.glp := rfl
@[simp] theorem Hw.setReel_glp (h : Hw) (x : Reel) : (h.setReel x).glp = h.glp := rfl
@[simp] theorem Hw.modReel_reel (h : Hw) (f : Reel → Reel) : (h.modReel f).reel = f h.reel := rfl
@[simp] theorem Hw.setReel_reel (h : Hw) (x : Reel) : (h.setReel x).reel = x := rfl
@[simp] theorem Hw.modReel_units (h : Hw) (f : Reel → Reel) : (h.modReel f).units = h.units := rfl
@[simp] theorem Hw.setReel_units (h : Hw) (x : Reel) : (h.setReel x).units = h.units := rfl
@[simp] theorem Hw.modReel_qos (h : Hw) (f : Reel → Reel) : (h.modReel f).qos = h.qos := rfl
@[simp] theorem Hw.setReel_qos (h : Hw) (x : Reel) : (h.setReel x).qos = h.qos := rfl
@[simp] theorem Hw.modReel_prot (h : Hw) (f : Reel → Reel) : (h.modReel f).prot = h.prot := rfl
@[simp] theorem Hw.setReel_prot (h : Hw) (x : Reel) : (h.setReel x).prot = h.prot := rfl
@[simp] theorem Hw.modReel_diag (h : Hw) (f : Reel → Reel) : (h.modReel f).diag = h.diag := rfl
@[simp] theorem Hw.setReel_diag (h : Hw) (x : Reel) : (h.setReel x).diag = h.diag := rfl
@[simp] theorem Hw.modReel_perf (h : Hw) (f : Reel → Reel) : (h.modReel f).perf = h.perf := rfl
@[simp] theorem Hw.setReel_perf (h : Hw) (x : Reel) : (h.setReel x).perf = h.perf := rfl
@[simp] theorem Hw.modReel_free (h : Hw) (f : Reel → Reel) : (h.modReel f).free = h.free := rfl
@[simp] theorem Hw.setReel_free (h : Hw) (x : Reel) : (h.setReel x).free = h.free := rfl
@[simp] theorem Hw.modReel_hwSet (h : Hw) (f : Reel → Reel) : (h.modReel f).hwSet = h.hwSet := rfl
@[simp] theorem Hw.setReel_hwSet (h : Hw) (x : Reel) : (h.setReel x).hwSet = h.hwSet := rfl

/-! ### `units` -/

@[simp] theorem Hw.modUnits_cyc (h : Hw) (f : Units → Units) : (h.modUnits f).cyc = h.cyc := rfl
@[simp] theorem Hw.setUnits_cyc (h : Hw) (x : Units) : (h.setUnits x).cyc = h.cyc := rfl
@[simp] theorem Hw.modUnits_rst (h : Hw) (f : Units → Units) : (h.modUnits f).rst = h.rst := rfl
@[simp] theorem Hw.setUnits_rst (h : Hw) (x : Units) : (h.setUnits x).rst = h.rst := rfl
@[simp] theorem Hw.modUnits_ro (h : Hw) (f : Units → Units) : (h.modUnits f).ro = h.ro := rfl
@[simp] theorem Hw.setUnits_ro (h : Hw) (x : Units) : (h.setUnits x).ro = h.ro := rfl
@[simp] theorem Hw.modUnits_ports (h : Hw) (f : Units → Units) : (h.modUnits f).ports = h.ports := rfl
@[simp] theorem Hw.setUnits_ports (h : Hw) (x : Units) : (h.setUnits x).ports = h.ports := rfl
@[simp] theorem Hw.modUnits_vp (h : Hw) (f : Units → Units) : (h.modUnits f).vp = h.vp := rfl
@[simp] theorem Hw.setUnits_vp (h : Hw) (x : Units) : (h.setUnits x).vp = h.vp := rfl
@[simp] theorem Hw.modUnits_core (h : Hw) (f : Units → Units) : (h.modUnits f).core = h.core := rfl
@[simp] theorem Hw.setUnits_core (h : Hw) (x : Units) : (h.setUnits x).core = h.core := rfl
@[simp] theorem Hw.modUnits_path (h : Hw) (f : Units → Units) : (h.modUnits f).path = h.path := rfl
@[simp] theorem Hw.setUnits_path (h : Hw) (x : Units) : (h.setUnits x).path = h.path := rfl
@[simp] theorem Hw.modUnits_home (h : Hw) (f : Units → Units) : (h.modUnits f).home = h.home := rfl
@[simp] theorem Hw.setUnits_home (h : Hw) (x : Units) : (h.setUnits x).home = h.home := rfl
@[simp] theorem Hw.modUnits_arr (h : Hw) (f : Units → Units) : (h.modUnits f).arr = h.arr := rfl
@[simp] theorem Hw.setUnits_arr (h : Hw) (x : Units) : (h.setUnits x).arr = h.arr := rfl
@[simp] theorem Hw.modUnits_near (h : Hw) (f : Units → Units) : (h.modUnits f).near = h.near := rfl
@[simp] theorem Hw.setUnits_near (h : Hw) (x : Units) : (h.setUnits x).near = h.near := rfl
@[simp] theorem Hw.modUnits_xp (h : Hw) (f : Units → Units) : (h.modUnits f).xp = h.xp := rfl
@[simp] theorem Hw.setUnits_xp (h : Hw) (x : Units) : (h.setUnits x).xp = h.xp := rfl
@[simp] theorem Hw.modUnits_glp (h : Hw) (f : Units → Units) : (h.modUnits f).glp = h.glp := rfl
@[simp] theorem Hw.setUnits_glp (h : Hw) (x : Units) : (h.setUnits x).glp = h.glp := rfl
@[simp] theorem Hw.modUnits_reel (h : Hw) (f : Units → Units) : (h.modUnits f).reel = h.reel := rfl
@[simp] theorem Hw.setUnits_reel (h : Hw) (x : Units) : (h.setUnits x).reel = h.reel := rfl
@[simp] theorem Hw.modUnits_units (h : Hw) (f : Units → Units) : (h.modUnits f).units = f h.units := rfl
@[simp] theorem Hw.setUnits_units (h : Hw) (x : Units) : (h.setUnits x).units = x := rfl
@[simp] theorem Hw.modUnits_qos (h : Hw) (f : Units → Units) : (h.modUnits f).qos = h.qos := rfl
@[simp] theorem Hw.setUnits_qos (h : Hw) (x : Units) : (h.setUnits x).qos = h.qos := rfl
@[simp] theorem Hw.modUnits_prot (h : Hw) (f : Units → Units) : (h.modUnits f).prot = h.prot := rfl
@[simp] theorem Hw.setUnits_prot (h : Hw) (x : Units) : (h.setUnits x).prot = h.prot := rfl
@[simp] theorem Hw.modUnits_diag (h : Hw) (f : Units → Units) : (h.modUnits f).diag = h.diag := rfl
@[simp] theorem Hw.setUnits_diag (h : Hw) (x : Units) : (h.setUnits x).diag = h.diag := rfl
@[simp] theorem Hw.modUnits_perf (h : Hw) (f : Units → Units) : (h.modUnits f).perf = h.perf := rfl
@[simp] theorem Hw.setUnits_perf (h : Hw) (x : Units) : (h.setUnits x).perf = h.perf := rfl
@[simp] theorem Hw.modUnits_free (h : Hw) (f : Units → Units) : (h.modUnits f).free = h.free := rfl
@[simp] theorem Hw.setUnits_free (h : Hw) (x : Units) : (h.setUnits x).free = h.free := rfl
@[simp] theorem Hw.modUnits_hwSet (h : Hw) (f : Units → Units) : (h.modUnits f).hwSet = h.hwSet := rfl
@[simp] theorem Hw.setUnits_hwSet (h : Hw) (x : Units) : (h.setUnits x).hwSet = h.hwSet := rfl

/-! ### `qos` -/

@[simp] theorem Hw.modQos_cyc (h : Hw) (f : Qos → Qos) : (h.modQos f).cyc = h.cyc := rfl
@[simp] theorem Hw.setQos_cyc (h : Hw) (x : Qos) : (h.setQos x).cyc = h.cyc := rfl
@[simp] theorem Hw.modQos_rst (h : Hw) (f : Qos → Qos) : (h.modQos f).rst = h.rst := rfl
@[simp] theorem Hw.setQos_rst (h : Hw) (x : Qos) : (h.setQos x).rst = h.rst := rfl
@[simp] theorem Hw.modQos_ro (h : Hw) (f : Qos → Qos) : (h.modQos f).ro = h.ro := rfl
@[simp] theorem Hw.setQos_ro (h : Hw) (x : Qos) : (h.setQos x).ro = h.ro := rfl
@[simp] theorem Hw.modQos_ports (h : Hw) (f : Qos → Qos) : (h.modQos f).ports = h.ports := rfl
@[simp] theorem Hw.setQos_ports (h : Hw) (x : Qos) : (h.setQos x).ports = h.ports := rfl
@[simp] theorem Hw.modQos_vp (h : Hw) (f : Qos → Qos) : (h.modQos f).vp = h.vp := rfl
@[simp] theorem Hw.setQos_vp (h : Hw) (x : Qos) : (h.setQos x).vp = h.vp := rfl
@[simp] theorem Hw.modQos_core (h : Hw) (f : Qos → Qos) : (h.modQos f).core = h.core := rfl
@[simp] theorem Hw.setQos_core (h : Hw) (x : Qos) : (h.setQos x).core = h.core := rfl
@[simp] theorem Hw.modQos_path (h : Hw) (f : Qos → Qos) : (h.modQos f).path = h.path := rfl
@[simp] theorem Hw.setQos_path (h : Hw) (x : Qos) : (h.setQos x).path = h.path := rfl
@[simp] theorem Hw.modQos_home (h : Hw) (f : Qos → Qos) : (h.modQos f).home = h.home := rfl
@[simp] theorem Hw.setQos_home (h : Hw) (x : Qos) : (h.setQos x).home = h.home := rfl
@[simp] theorem Hw.modQos_arr (h : Hw) (f : Qos → Qos) : (h.modQos f).arr = h.arr := rfl
@[simp] theorem Hw.setQos_arr (h : Hw) (x : Qos) : (h.setQos x).arr = h.arr := rfl
@[simp] theorem Hw.modQos_near (h : Hw) (f : Qos → Qos) : (h.modQos f).near = h.near := rfl
@[simp] theorem Hw.setQos_near (h : Hw) (x : Qos) : (h.setQos x).near = h.near := rfl
@[simp] theorem Hw.modQos_xp (h : Hw) (f : Qos → Qos) : (h.modQos f).xp = h.xp := rfl
@[simp] theorem Hw.setQos_xp (h : Hw) (x : Qos) : (h.setQos x).xp = h.xp := rfl
@[simp] theorem Hw.modQos_glp (h : Hw) (f : Qos → Qos) : (h.modQos f).glp = h.glp := rfl
@[simp] theorem Hw.setQos_glp (h : Hw) (x : Qos) : (h.setQos x).glp = h.glp := rfl
@[simp] theorem Hw.modQos_reel (h : Hw) (f : Qos → Qos) : (h.modQos f).reel = h.reel := rfl
@[simp] theorem Hw.setQos_reel (h : Hw) (x : Qos) : (h.setQos x).reel = h.reel := rfl
@[simp] theorem Hw.modQos_units (h : Hw) (f : Qos → Qos) : (h.modQos f).units = h.units := rfl
@[simp] theorem Hw.setQos_units (h : Hw) (x : Qos) : (h.setQos x).units = h.units := rfl
@[simp] theorem Hw.modQos_qos (h : Hw) (f : Qos → Qos) : (h.modQos f).qos = f h.qos := rfl
@[simp] theorem Hw.setQos_qos (h : Hw) (x : Qos) : (h.setQos x).qos = x := rfl
@[simp] theorem Hw.modQos_prot (h : Hw) (f : Qos → Qos) : (h.modQos f).prot = h.prot := rfl
@[simp] theorem Hw.setQos_prot (h : Hw) (x : Qos) : (h.setQos x).prot = h.prot := rfl
@[simp] theorem Hw.modQos_diag (h : Hw) (f : Qos → Qos) : (h.modQos f).diag = h.diag := rfl
@[simp] theorem Hw.setQos_diag (h : Hw) (x : Qos) : (h.setQos x).diag = h.diag := rfl
@[simp] theorem Hw.modQos_perf (h : Hw) (f : Qos → Qos) : (h.modQos f).perf = h.perf := rfl
@[simp] theorem Hw.setQos_perf (h : Hw) (x : Qos) : (h.setQos x).perf = h.perf := rfl
@[simp] theorem Hw.modQos_free (h : Hw) (f : Qos → Qos) : (h.modQos f).free = h.free := rfl
@[simp] theorem Hw.setQos_free (h : Hw) (x : Qos) : (h.setQos x).free = h.free := rfl
@[simp] theorem Hw.modQos_hwSet (h : Hw) (f : Qos → Qos) : (h.modQos f).hwSet = h.hwSet := rfl
@[simp] theorem Hw.setQos_hwSet (h : Hw) (x : Qos) : (h.setQos x).hwSet = h.hwSet := rfl

/-! ### `prot` -/

@[simp] theorem Hw.modProt_cyc (h : Hw) (f : Prot → Prot) : (h.modProt f).cyc = h.cyc := rfl
@[simp] theorem Hw.setProt_cyc (h : Hw) (x : Prot) : (h.setProt x).cyc = h.cyc := rfl
@[simp] theorem Hw.modProt_rst (h : Hw) (f : Prot → Prot) : (h.modProt f).rst = h.rst := rfl
@[simp] theorem Hw.setProt_rst (h : Hw) (x : Prot) : (h.setProt x).rst = h.rst := rfl
@[simp] theorem Hw.modProt_ro (h : Hw) (f : Prot → Prot) : (h.modProt f).ro = h.ro := rfl
@[simp] theorem Hw.setProt_ro (h : Hw) (x : Prot) : (h.setProt x).ro = h.ro := rfl
@[simp] theorem Hw.modProt_ports (h : Hw) (f : Prot → Prot) : (h.modProt f).ports = h.ports := rfl
@[simp] theorem Hw.setProt_ports (h : Hw) (x : Prot) : (h.setProt x).ports = h.ports := rfl
@[simp] theorem Hw.modProt_vp (h : Hw) (f : Prot → Prot) : (h.modProt f).vp = h.vp := rfl
@[simp] theorem Hw.setProt_vp (h : Hw) (x : Prot) : (h.setProt x).vp = h.vp := rfl
@[simp] theorem Hw.modProt_core (h : Hw) (f : Prot → Prot) : (h.modProt f).core = h.core := rfl
@[simp] theorem Hw.setProt_core (h : Hw) (x : Prot) : (h.setProt x).core = h.core := rfl
@[simp] theorem Hw.modProt_path (h : Hw) (f : Prot → Prot) : (h.modProt f).path = h.path := rfl
@[simp] theorem Hw.setProt_path (h : Hw) (x : Prot) : (h.setProt x).path = h.path := rfl
@[simp] theorem Hw.modProt_home (h : Hw) (f : Prot → Prot) : (h.modProt f).home = h.home := rfl
@[simp] theorem Hw.setProt_home (h : Hw) (x : Prot) : (h.setProt x).home = h.home := rfl
@[simp] theorem Hw.modProt_arr (h : Hw) (f : Prot → Prot) : (h.modProt f).arr = h.arr := rfl
@[simp] theorem Hw.setProt_arr (h : Hw) (x : Prot) : (h.setProt x).arr = h.arr := rfl
@[simp] theorem Hw.modProt_near (h : Hw) (f : Prot → Prot) : (h.modProt f).near = h.near := rfl
@[simp] theorem Hw.setProt_near (h : Hw) (x : Prot) : (h.setProt x).near = h.near := rfl
@[simp] theorem Hw.modProt_xp (h : Hw) (f : Prot → Prot) : (h.modProt f).xp = h.xp := rfl
@[simp] theorem Hw.setProt_xp (h : Hw) (x : Prot) : (h.setProt x).xp = h.xp := rfl
@[simp] theorem Hw.modProt_glp (h : Hw) (f : Prot → Prot) : (h.modProt f).glp = h.glp := rfl
@[simp] theorem Hw.setProt_glp (h : Hw) (x : Prot) : (h.setProt x).glp = h.glp := rfl
@[simp] theorem Hw.modProt_reel (h : Hw) (f : Prot → Prot) : (h.modProt f).reel = h.reel := rfl
@[simp] theorem Hw.setProt_reel (h : Hw) (x : Prot) : (h.setProt x).reel = h.reel := rfl
@[simp] theorem Hw.modProt_units (h : Hw) (f : Prot → Prot) : (h.modProt f).units = h.units := rfl
@[simp] theorem Hw.setProt_units (h : Hw) (x : Prot) : (h.setProt x).units = h.units := rfl
@[simp] theorem Hw.modProt_qos (h : Hw) (f : Prot → Prot) : (h.modProt f).qos = h.qos := rfl
@[simp] theorem Hw.setProt_qos (h : Hw) (x : Prot) : (h.setProt x).qos = h.qos := rfl
@[simp] theorem Hw.modProt_prot (h : Hw) (f : Prot → Prot) : (h.modProt f).prot = f h.prot := rfl
@[simp] theorem Hw.setProt_prot (h : Hw) (x : Prot) : (h.setProt x).prot = x := rfl
@[simp] theorem Hw.modProt_diag (h : Hw) (f : Prot → Prot) : (h.modProt f).diag = h.diag := rfl
@[simp] theorem Hw.setProt_diag (h : Hw) (x : Prot) : (h.setProt x).diag = h.diag := rfl
@[simp] theorem Hw.modProt_perf (h : Hw) (f : Prot → Prot) : (h.modProt f).perf = h.perf := rfl
@[simp] theorem Hw.setProt_perf (h : Hw) (x : Prot) : (h.setProt x).perf = h.perf := rfl
@[simp] theorem Hw.modProt_free (h : Hw) (f : Prot → Prot) : (h.modProt f).free = h.free := rfl
@[simp] theorem Hw.setProt_free (h : Hw) (x : Prot) : (h.setProt x).free = h.free := rfl
@[simp] theorem Hw.modProt_hwSet (h : Hw) (f : Prot → Prot) : (h.modProt f).hwSet = h.hwSet := rfl
@[simp] theorem Hw.setProt_hwSet (h : Hw) (x : Prot) : (h.setProt x).hwSet = h.hwSet := rfl

/-! ### `diag` -/

@[simp] theorem Hw.modDiag_cyc (h : Hw) (f : Diag → Diag) : (h.modDiag f).cyc = h.cyc := rfl
@[simp] theorem Hw.setDiag_cyc (h : Hw) (x : Diag) : (h.setDiag x).cyc = h.cyc := rfl
@[simp] theorem Hw.modDiag_rst (h : Hw) (f : Diag → Diag) : (h.modDiag f).rst = h.rst := rfl
@[simp] theorem Hw.setDiag_rst (h : Hw) (x : Diag) : (h.setDiag x).rst = h.rst := rfl
@[simp] theorem Hw.modDiag_ro (h : Hw) (f : Diag → Diag) : (h.modDiag f).ro = h.ro := rfl
@[simp] theorem Hw.setDiag_ro (h : Hw) (x : Diag) : (h.setDiag x).ro = h.ro := rfl
@[simp] theorem Hw.modDiag_ports (h : Hw) (f : Diag → Diag) : (h.modDiag f).ports = h.ports := rfl
@[simp] theorem Hw.setDiag_ports (h : Hw) (x : Diag) : (h.setDiag x).ports = h.ports := rfl
@[simp] theorem Hw.modDiag_vp (h : Hw) (f : Diag → Diag) : (h.modDiag f).vp = h.vp := rfl
@[simp] theorem Hw.setDiag_vp (h : Hw) (x : Diag) : (h.setDiag x).vp = h.vp := rfl
@[simp] theorem Hw.modDiag_core (h : Hw) (f : Diag → Diag) : (h.modDiag f).core = h.core := rfl
@[simp] theorem Hw.setDiag_core (h : Hw) (x : Diag) : (h.setDiag x).core = h.core := rfl
@[simp] theorem Hw.modDiag_path (h : Hw) (f : Diag → Diag) : (h.modDiag f).path = h.path := rfl
@[simp] theorem Hw.setDiag_path (h : Hw) (x : Diag) : (h.setDiag x).path = h.path := rfl
@[simp] theorem Hw.modDiag_home (h : Hw) (f : Diag → Diag) : (h.modDiag f).home = h.home := rfl
@[simp] theorem Hw.setDiag_home (h : Hw) (x : Diag) : (h.setDiag x).home = h.home := rfl
@[simp] theorem Hw.modDiag_arr (h : Hw) (f : Diag → Diag) : (h.modDiag f).arr = h.arr := rfl
@[simp] theorem Hw.setDiag_arr (h : Hw) (x : Diag) : (h.setDiag x).arr = h.arr := rfl
@[simp] theorem Hw.modDiag_near (h : Hw) (f : Diag → Diag) : (h.modDiag f).near = h.near := rfl
@[simp] theorem Hw.setDiag_near (h : Hw) (x : Diag) : (h.setDiag x).near = h.near := rfl
@[simp] theorem Hw.modDiag_xp (h : Hw) (f : Diag → Diag) : (h.modDiag f).xp = h.xp := rfl
@[simp] theorem Hw.setDiag_xp (h : Hw) (x : Diag) : (h.setDiag x).xp = h.xp := rfl
@[simp] theorem Hw.modDiag_glp (h : Hw) (f : Diag → Diag) : (h.modDiag f).glp = h.glp := rfl
@[simp] theorem Hw.setDiag_glp (h : Hw) (x : Diag) : (h.setDiag x).glp = h.glp := rfl
@[simp] theorem Hw.modDiag_reel (h : Hw) (f : Diag → Diag) : (h.modDiag f).reel = h.reel := rfl
@[simp] theorem Hw.setDiag_reel (h : Hw) (x : Diag) : (h.setDiag x).reel = h.reel := rfl
@[simp] theorem Hw.modDiag_units (h : Hw) (f : Diag → Diag) : (h.modDiag f).units = h.units := rfl
@[simp] theorem Hw.setDiag_units (h : Hw) (x : Diag) : (h.setDiag x).units = h.units := rfl
@[simp] theorem Hw.modDiag_qos (h : Hw) (f : Diag → Diag) : (h.modDiag f).qos = h.qos := rfl
@[simp] theorem Hw.setDiag_qos (h : Hw) (x : Diag) : (h.setDiag x).qos = h.qos := rfl
@[simp] theorem Hw.modDiag_prot (h : Hw) (f : Diag → Diag) : (h.modDiag f).prot = h.prot := rfl
@[simp] theorem Hw.setDiag_prot (h : Hw) (x : Diag) : (h.setDiag x).prot = h.prot := rfl
@[simp] theorem Hw.modDiag_diag (h : Hw) (f : Diag → Diag) : (h.modDiag f).diag = f h.diag := rfl
@[simp] theorem Hw.setDiag_diag (h : Hw) (x : Diag) : (h.setDiag x).diag = x := rfl
@[simp] theorem Hw.modDiag_perf (h : Hw) (f : Diag → Diag) : (h.modDiag f).perf = h.perf := rfl
@[simp] theorem Hw.setDiag_perf (h : Hw) (x : Diag) : (h.setDiag x).perf = h.perf := rfl
@[simp] theorem Hw.modDiag_free (h : Hw) (f : Diag → Diag) : (h.modDiag f).free = h.free := rfl
@[simp] theorem Hw.setDiag_free (h : Hw) (x : Diag) : (h.setDiag x).free = h.free := rfl
@[simp] theorem Hw.modDiag_hwSet (h : Hw) (f : Diag → Diag) : (h.modDiag f).hwSet = h.hwSet := rfl
@[simp] theorem Hw.setDiag_hwSet (h : Hw) (x : Diag) : (h.setDiag x).hwSet = h.hwSet := rfl

/-! ### `perf` -/

@[simp] theorem Hw.modPerf_cyc (h : Hw) (f : Perf → Perf) : (h.modPerf f).cyc = h.cyc := rfl
@[simp] theorem Hw.setPerf_cyc (h : Hw) (x : Perf) : (h.setPerf x).cyc = h.cyc := rfl
@[simp] theorem Hw.modPerf_rst (h : Hw) (f : Perf → Perf) : (h.modPerf f).rst = h.rst := rfl
@[simp] theorem Hw.setPerf_rst (h : Hw) (x : Perf) : (h.setPerf x).rst = h.rst := rfl
@[simp] theorem Hw.modPerf_ro (h : Hw) (f : Perf → Perf) : (h.modPerf f).ro = h.ro := rfl
@[simp] theorem Hw.setPerf_ro (h : Hw) (x : Perf) : (h.setPerf x).ro = h.ro := rfl
@[simp] theorem Hw.modPerf_ports (h : Hw) (f : Perf → Perf) : (h.modPerf f).ports = h.ports := rfl
@[simp] theorem Hw.setPerf_ports (h : Hw) (x : Perf) : (h.setPerf x).ports = h.ports := rfl
@[simp] theorem Hw.modPerf_vp (h : Hw) (f : Perf → Perf) : (h.modPerf f).vp = h.vp := rfl
@[simp] theorem Hw.setPerf_vp (h : Hw) (x : Perf) : (h.setPerf x).vp = h.vp := rfl
@[simp] theorem Hw.modPerf_core (h : Hw) (f : Perf → Perf) : (h.modPerf f).core = h.core := rfl
@[simp] theorem Hw.setPerf_core (h : Hw) (x : Perf) : (h.setPerf x).core = h.core := rfl
@[simp] theorem Hw.modPerf_path (h : Hw) (f : Perf → Perf) : (h.modPerf f).path = h.path := rfl
@[simp] theorem Hw.setPerf_path (h : Hw) (x : Perf) : (h.setPerf x).path = h.path := rfl
@[simp] theorem Hw.modPerf_home (h : Hw) (f : Perf → Perf) : (h.modPerf f).home = h.home := rfl
@[simp] theorem Hw.setPerf_home (h : Hw) (x : Perf) : (h.setPerf x).home = h.home := rfl
@[simp] theorem Hw.modPerf_arr (h : Hw) (f : Perf → Perf) : (h.modPerf f).arr = h.arr := rfl
@[simp] theorem Hw.setPerf_arr (h : Hw) (x : Perf) : (h.setPerf x).arr = h.arr := rfl
@[simp] theorem Hw.modPerf_near (h : Hw) (f : Perf → Perf) : (h.modPerf f).near = h.near := rfl
@[simp] theorem Hw.setPerf_near (h : Hw) (x : Perf) : (h.setPerf x).near = h.near := rfl
@[simp] theorem Hw.modPerf_xp (h : Hw) (f : Perf → Perf) : (h.modPerf f).xp = h.xp := rfl
@[simp] theorem Hw.setPerf_xp (h : Hw) (x : Perf) : (h.setPerf x).xp = h.xp := rfl
@[simp] theorem Hw.modPerf_glp (h : Hw) (f : Perf → Perf) : (h.modPerf f).glp = h.glp := rfl
@[simp] theorem Hw.setPerf_glp (h : Hw) (x : Perf) : (h.setPerf x).glp = h.glp := rfl
@[simp] theorem Hw.modPerf_reel (h : Hw) (f : Perf → Perf) : (h.modPerf f).reel = h.reel := rfl
@[simp] theorem Hw.setPerf_reel (h : Hw) (x : Perf) : (h.setPerf x).reel = h.reel := rfl
@[simp] theorem Hw.modPerf_units (h : Hw) (f : Perf → Perf) : (h.modPerf f).units = h.units := rfl
@[simp] theorem Hw.setPerf_units (h : Hw) (x : Perf) : (h.setPerf x).units = h.units := rfl
@[simp] theorem Hw.modPerf_qos (h : Hw) (f : Perf → Perf) : (h.modPerf f).qos = h.qos := rfl
@[simp] theorem Hw.setPerf_qos (h : Hw) (x : Perf) : (h.setPerf x).qos = h.qos := rfl
@[simp] theorem Hw.modPerf_prot (h : Hw) (f : Perf → Perf) : (h.modPerf f).prot = h.prot := rfl
@[simp] theorem Hw.setPerf_prot (h : Hw) (x : Perf) : (h.setPerf x).prot = h.prot := rfl
@[simp] theorem Hw.modPerf_diag (h : Hw) (f : Perf → Perf) : (h.modPerf f).diag = h.diag := rfl
@[simp] theorem Hw.setPerf_diag (h : Hw) (x : Perf) : (h.setPerf x).diag = h.diag := rfl
@[simp] theorem Hw.modPerf_perf (h : Hw) (f : Perf → Perf) : (h.modPerf f).perf = f h.perf := rfl
@[simp] theorem Hw.setPerf_perf (h : Hw) (x : Perf) : (h.setPerf x).perf = x := rfl
@[simp] theorem Hw.modPerf_free (h : Hw) (f : Perf → Perf) : (h.modPerf f).free = h.free := rfl
@[simp] theorem Hw.setPerf_free (h : Hw) (x : Perf) : (h.setPerf x).free = h.free := rfl
@[simp] theorem Hw.modPerf_hwSet (h : Hw) (f : Perf → Perf) : (h.modPerf f).hwSet = h.hwSet := rfl
@[simp] theorem Hw.setPerf_hwSet (h : Hw) (x : Perf) : (h.setPerf x).hwSet = h.hwSet := rfl

/-! ### `free` -/

@[simp] theorem Hw.modFree_cyc (h : Hw) (f : Nat → Nat) : (h.modFree f).cyc = h.cyc := rfl
@[simp] theorem Hw.setFree_cyc (h : Hw) (x : Nat) : (h.setFree x).cyc = h.cyc := rfl
@[simp] theorem Hw.modFree_rst (h : Hw) (f : Nat → Nat) : (h.modFree f).rst = h.rst := rfl
@[simp] theorem Hw.setFree_rst (h : Hw) (x : Nat) : (h.setFree x).rst = h.rst := rfl
@[simp] theorem Hw.modFree_ro (h : Hw) (f : Nat → Nat) : (h.modFree f).ro = h.ro := rfl
@[simp] theorem Hw.setFree_ro (h : Hw) (x : Nat) : (h.setFree x).ro = h.ro := rfl
@[simp] theorem Hw.modFree_ports (h : Hw) (f : Nat → Nat) : (h.modFree f).ports = h.ports := rfl
@[simp] theorem Hw.setFree_ports (h : Hw) (x : Nat) : (h.setFree x).ports = h.ports := rfl
@[simp] theorem Hw.modFree_vp (h : Hw) (f : Nat → Nat) : (h.modFree f).vp = h.vp := rfl
@[simp] theorem Hw.setFree_vp (h : Hw) (x : Nat) : (h.setFree x).vp = h.vp := rfl
@[simp] theorem Hw.modFree_core (h : Hw) (f : Nat → Nat) : (h.modFree f).core = h.core := rfl
@[simp] theorem Hw.setFree_core (h : Hw) (x : Nat) : (h.setFree x).core = h.core := rfl
@[simp] theorem Hw.modFree_path (h : Hw) (f : Nat → Nat) : (h.modFree f).path = h.path := rfl
@[simp] theorem Hw.setFree_path (h : Hw) (x : Nat) : (h.setFree x).path = h.path := rfl
@[simp] theorem Hw.modFree_home (h : Hw) (f : Nat → Nat) : (h.modFree f).home = h.home := rfl
@[simp] theorem Hw.setFree_home (h : Hw) (x : Nat) : (h.setFree x).home = h.home := rfl
@[simp] theorem Hw.modFree_arr (h : Hw) (f : Nat → Nat) : (h.modFree f).arr = h.arr := rfl
@[simp] theorem Hw.setFree_arr (h : Hw) (x : Nat) : (h.setFree x).arr = h.arr := rfl
@[simp] theorem Hw.modFree_near (h : Hw) (f : Nat → Nat) : (h.modFree f).near = h.near := rfl
@[simp] theorem Hw.setFree_near (h : Hw) (x : Nat) : (h.setFree x).near = h.near := rfl
@[simp] theorem Hw.modFree_xp (h : Hw) (f : Nat → Nat) : (h.modFree f).xp = h.xp := rfl
@[simp] theorem Hw.setFree_xp (h : Hw) (x : Nat) : (h.setFree x).xp = h.xp := rfl
@[simp] theorem Hw.modFree_glp (h : Hw) (f : Nat → Nat) : (h.modFree f).glp = h.glp := rfl
@[simp] theorem Hw.setFree_glp (h : Hw) (x : Nat) : (h.setFree x).glp = h.glp := rfl
@[simp] theorem Hw.modFree_reel (h : Hw) (f : Nat → Nat) : (h.modFree f).reel = h.reel := rfl
@[simp] theorem Hw.setFree_reel (h : Hw) (x : Nat) : (h.setFree x).reel = h.reel := rfl
@[simp] theorem Hw.modFree_units (h : Hw) (f : Nat → Nat) : (h.modFree f).units = h.units := rfl
@[simp] theorem Hw.setFree_units (h : Hw) (x : Nat) : (h.setFree x).units = h.units := rfl
@[simp] theorem Hw.modFree_qos (h : Hw) (f : Nat → Nat) : (h.modFree f).qos = h.qos := rfl
@[simp] theorem Hw.setFree_qos (h : Hw) (x : Nat) : (h.setFree x).qos = h.qos := rfl
@[simp] theorem Hw.modFree_prot (h : Hw) (f : Nat → Nat) : (h.modFree f).prot = h.prot := rfl
@[simp] theorem Hw.setFree_prot (h : Hw) (x : Nat) : (h.setFree x).prot = h.prot := rfl
@[simp] theorem Hw.modFree_diag (h : Hw) (f : Nat → Nat) : (h.modFree f).diag = h.diag := rfl
@[simp] theorem Hw.setFree_diag (h : Hw) (x : Nat) : (h.setFree x).diag = h.diag := rfl
@[simp] theorem Hw.modFree_perf (h : Hw) (f : Nat → Nat) : (h.modFree f).perf = h.perf := rfl
@[simp] theorem Hw.setFree_perf (h : Hw) (x : Nat) : (h.setFree x).perf = h.perf := rfl
@[simp] theorem Hw.modFree_free (h : Hw) (f : Nat → Nat) : (h.modFree f).free = f h.free := rfl
@[simp] theorem Hw.setFree_free (h : Hw) (x : Nat) : (h.setFree x).free = x := rfl
@[simp] theorem Hw.modFree_hwSet (h : Hw) (f : Nat → Nat) : (h.modFree f).hwSet = h.hwSet := rfl
@[simp] theorem Hw.setFree_hwSet (h : Hw) (x : Nat) : (h.setFree x).hwSet = h.hwSet := rfl

/-! ### `hwSet` -/

@[simp] theorem Hw.modHwSet_cyc (h : Hw) (f : Cells (Nat × Word) → Cells (Nat × Word)) : (h.modHwSet f).cyc = h.cyc := rfl
@[simp] theorem Hw.setHwSet_cyc (h : Hw) (x : Cells (Nat × Word)) : (h.setHwSet x).cyc = h.cyc := rfl
@[simp] theorem Hw.modHwSet_rst (h : Hw) (f : Cells (Nat × Word) → Cells (Nat × Word)) : (h.modHwSet f).rst = h.rst := rfl
@[simp] theorem Hw.setHwSet_rst (h : Hw) (x : Cells (Nat × Word)) : (h.setHwSet x).rst = h.rst := rfl
@[simp] theorem Hw.modHwSet_ro (h : Hw) (f : Cells (Nat × Word) → Cells (Nat × Word)) : (h.modHwSet f).ro = h.ro := rfl
@[simp] theorem Hw.setHwSet_ro (h : Hw) (x : Cells (Nat × Word)) : (h.setHwSet x).ro = h.ro := rfl
@[simp] theorem Hw.modHwSet_ports (h : Hw) (f : Cells (Nat × Word) → Cells (Nat × Word)) : (h.modHwSet f).ports = h.ports := rfl
@[simp] theorem Hw.setHwSet_ports (h : Hw) (x : Cells (Nat × Word)) : (h.setHwSet x).ports = h.ports := rfl
@[simp] theorem Hw.modHwSet_vp (h : Hw) (f : Cells (Nat × Word) → Cells (Nat × Word)) : (h.modHwSet f).vp = h.vp := rfl
@[simp] theorem Hw.setHwSet_vp (h : Hw) (x : Cells (Nat × Word)) : (h.setHwSet x).vp = h.vp := rfl
@[simp] theorem Hw.modHwSet_core (h : Hw) (f : Cells (Nat × Word) → Cells (Nat × Word)) : (h.modHwSet f).core = h.core := rfl
@[simp] theorem Hw.setHwSet_core (h : Hw) (x : Cells (Nat × Word)) : (h.setHwSet x).core = h.core := rfl
@[simp] theorem Hw.modHwSet_path (h : Hw) (f : Cells (Nat × Word) → Cells (Nat × Word)) : (h.modHwSet f).path = h.path := rfl
@[simp] theorem Hw.setHwSet_path (h : Hw) (x : Cells (Nat × Word)) : (h.setHwSet x).path = h.path := rfl
@[simp] theorem Hw.modHwSet_home (h : Hw) (f : Cells (Nat × Word) → Cells (Nat × Word)) : (h.modHwSet f).home = h.home := rfl
@[simp] theorem Hw.setHwSet_home (h : Hw) (x : Cells (Nat × Word)) : (h.setHwSet x).home = h.home := rfl
@[simp] theorem Hw.modHwSet_arr (h : Hw) (f : Cells (Nat × Word) → Cells (Nat × Word)) : (h.modHwSet f).arr = h.arr := rfl
@[simp] theorem Hw.setHwSet_arr (h : Hw) (x : Cells (Nat × Word)) : (h.setHwSet x).arr = h.arr := rfl
@[simp] theorem Hw.modHwSet_near (h : Hw) (f : Cells (Nat × Word) → Cells (Nat × Word)) : (h.modHwSet f).near = h.near := rfl
@[simp] theorem Hw.setHwSet_near (h : Hw) (x : Cells (Nat × Word)) : (h.setHwSet x).near = h.near := rfl
@[simp] theorem Hw.modHwSet_xp (h : Hw) (f : Cells (Nat × Word) → Cells (Nat × Word)) : (h.modHwSet f).xp = h.xp := rfl
@[simp] theorem Hw.setHwSet_xp (h : Hw) (x : Cells (Nat × Word)) : (h.setHwSet x).xp = h.xp := rfl
@[simp] theorem Hw.modHwSet_glp (h : Hw) (f : Cells (Nat × Word) → Cells (Nat × Word)) : (h.modHwSet f).glp = h.glp := rfl
@[simp] theorem Hw.setHwSet_glp (h : Hw) (x : Cells (Nat × Word)) : (h.setHwSet x).glp = h.glp := rfl
@[simp] theorem Hw.modHwSet_reel (h : Hw) (f : Cells (Nat × Word) → Cells (Nat × Word)) : (h.modHwSet f).reel = h.reel := rfl
@[simp] theorem Hw.setHwSet_reel (h : Hw) (x : Cells (Nat × Word)) : (h.setHwSet x).reel = h.reel := rfl
@[simp] theorem Hw.modHwSet_units (h : Hw) (f : Cells (Nat × Word) → Cells (Nat × Word)) : (h.modHwSet f).units = h.units := rfl
@[simp] theorem Hw.setHwSet_units (h : Hw) (x : Cells (Nat × Word)) : (h.setHwSet x).units = h.units := rfl
@[simp] theorem Hw.modHwSet_qos (h : Hw) (f : Cells (Nat × Word) → Cells (Nat × Word)) : (h.modHwSet f).qos = h.qos := rfl
@[simp] theorem Hw.setHwSet_qos (h : Hw) (x : Cells (Nat × Word)) : (h.setHwSet x).qos = h.qos := rfl
@[simp] theorem Hw.modHwSet_prot (h : Hw) (f : Cells (Nat × Word) → Cells (Nat × Word)) : (h.modHwSet f).prot = h.prot := rfl
@[simp] theorem Hw.setHwSet_prot (h : Hw) (x : Cells (Nat × Word)) : (h.setHwSet x).prot = h.prot := rfl
@[simp] theorem Hw.modHwSet_diag (h : Hw) (f : Cells (Nat × Word) → Cells (Nat × Word)) : (h.modHwSet f).diag = h.diag := rfl
@[simp] theorem Hw.setHwSet_diag (h : Hw) (x : Cells (Nat × Word)) : (h.setHwSet x).diag = h.diag := rfl
@[simp] theorem Hw.modHwSet_perf (h : Hw) (f : Cells (Nat × Word) → Cells (Nat × Word)) : (h.modHwSet f).perf = h.perf := rfl
@[simp] theorem Hw.setHwSet_perf (h : Hw) (x : Cells (Nat × Word)) : (h.setHwSet x).perf = h.perf := rfl
@[simp] theorem Hw.modHwSet_free (h : Hw) (f : Cells (Nat × Word) → Cells (Nat × Word)) : (h.modHwSet f).free = h.free := rfl
@[simp] theorem Hw.setHwSet_free (h : Hw) (x : Cells (Nat × Word)) : (h.setHwSet x).free = h.free := rfl
@[simp] theorem Hw.modHwSet_hwSet (h : Hw) (f : Cells (Nat × Word) → Cells (Nat × Word)) : (h.modHwSet f).hwSet = f h.hwSet := rfl
@[simp] theorem Hw.setHwSet_hwSet (h : Hw) (x : Cells (Nat × Word)) : (h.setHwSet x).hwSet = x := rfl

/-! ### Writes of the slice's own registers -/

@[simp] theorem roPut_cyc (o : Nat) (v : Word) (h : Hw) : (roPut o v h).cyc = h.cyc := rfl
@[simp] theorem put_cyc (p o n : Nat) (h : Hw) : (put p o n h).cyc = h.cyc := rfl
@[simp] theorem cnt_cyc (p o n : Nat) (h : Hw) : (cnt p o n h).cyc = h.cyc := rfl
@[simp] theorem cntW_cyc (p o n : Nat) (h : Hw) (w : Nat) : (cntW p o n h w).cyc = h.cyc := rfl
@[simp] theorem noteHw_cyc (o : Nat) (m : Word) (h : Hw) : (noteHw o m h).cyc = h.cyc := rfl
@[simp] theorem roSet_cyc (o : Nat) (v : Word) (h : Hw) : (roSet o v h).cyc = h.cyc := rfl
@[simp] theorem sticky_cyc (o : Nat) (m : Word) (h : Hw) : (sticky o m h).cyc = h.cyc := rfl
@[simp] theorem err_cyc (p b : Nat) (h : Hw) : (err p b h).cyc = h.cyc := rfl
@[simp] theorem roPut_rst (o : Nat) (v : Word) (h : Hw) : (roPut o v h).rst = h.rst := rfl
@[simp] theorem put_rst (p o n : Nat) (h : Hw) : (put p o n h).rst = h.rst := rfl
@[simp] theorem cnt_rst (p o n : Nat) (h : Hw) : (cnt p o n h).rst = h.rst := rfl
@[simp] theorem cntW_rst (p o n : Nat) (h : Hw) (w : Nat) : (cntW p o n h w).rst = h.rst := rfl
@[simp] theorem noteHw_rst (o : Nat) (m : Word) (h : Hw) : (noteHw o m h).rst = h.rst := rfl
@[simp] theorem roSet_rst (o : Nat) (v : Word) (h : Hw) : (roSet o v h).rst = h.rst := rfl
@[simp] theorem sticky_rst (o : Nat) (m : Word) (h : Hw) : (sticky o m h).rst = h.rst := rfl
@[simp] theorem err_rst (p b : Nat) (h : Hw) : (err p b h).rst = h.rst := rfl
@[simp] theorem noteHw_ro (o : Nat) (m : Word) (h : Hw) : (noteHw o m h).ro = h.ro := rfl
@[simp] theorem roPut_ports (o : Nat) (v : Word) (h : Hw) : (roPut o v h).ports = h.ports := rfl
@[simp] theorem put_ports (p o n : Nat) (h : Hw) : (put p o n h).ports = h.ports := rfl
@[simp] theorem cnt_ports (p o n : Nat) (h : Hw) : (cnt p o n h).ports = h.ports := rfl
@[simp] theorem cntW_ports (p o n : Nat) (h : Hw) (w : Nat) : (cntW p o n h w).ports = h.ports := rfl
@[simp] theorem noteHw_ports (o : Nat) (m : Word) (h : Hw) : (noteHw o m h).ports = h.ports := rfl
@[simp] theorem roSet_ports (o : Nat) (v : Word) (h : Hw) : (roSet o v h).ports = h.ports := rfl
@[simp] theorem sticky_ports (o : Nat) (m : Word) (h : Hw) : (sticky o m h).ports = h.ports := rfl
@[simp] theorem err_ports (p b : Nat) (h : Hw) : (err p b h).ports = h.ports := rfl
@[simp] theorem roPut_vp (o : Nat) (v : Word) (h : Hw) : (roPut o v h).vp = h.vp := rfl
@[simp] theorem put_vp (p o n : Nat) (h : Hw) : (put p o n h).vp = h.vp := rfl
@[simp] theorem cnt_vp (p o n : Nat) (h : Hw) : (cnt p o n h).vp = h.vp := rfl
@[simp] theorem cntW_vp (p o n : Nat) (h : Hw) (w : Nat) : (cntW p o n h w).vp = h.vp := rfl
@[simp] theorem noteHw_vp (o : Nat) (m : Word) (h : Hw) : (noteHw o m h).vp = h.vp := rfl
@[simp] theorem roSet_vp (o : Nat) (v : Word) (h : Hw) : (roSet o v h).vp = h.vp := rfl
@[simp] theorem sticky_vp (o : Nat) (m : Word) (h : Hw) : (sticky o m h).vp = h.vp := rfl
@[simp] theorem err_vp (p b : Nat) (h : Hw) : (err p b h).vp = h.vp := rfl
@[simp] theorem roPut_core (o : Nat) (v : Word) (h : Hw) : (roPut o v h).core = h.core := rfl
@[simp] theorem put_core (p o n : Nat) (h : Hw) : (put p o n h).core = h.core := rfl
@[simp] theorem cnt_core (p o n : Nat) (h : Hw) : (cnt p o n h).core = h.core := rfl
@[simp] theorem cntW_core (p o n : Nat) (h : Hw) (w : Nat) : (cntW p o n h w).core = h.core := rfl
@[simp] theorem noteHw_core (o : Nat) (m : Word) (h : Hw) : (noteHw o m h).core = h.core := rfl
@[simp] theorem roSet_core (o : Nat) (v : Word) (h : Hw) : (roSet o v h).core = h.core := rfl
@[simp] theorem sticky_core (o : Nat) (m : Word) (h : Hw) : (sticky o m h).core = h.core := rfl
@[simp] theorem err_core (p b : Nat) (h : Hw) : (err p b h).core = h.core := rfl
@[simp] theorem roPut_path (o : Nat) (v : Word) (h : Hw) : (roPut o v h).path = h.path := rfl
@[simp] theorem put_path (p o n : Nat) (h : Hw) : (put p o n h).path = h.path := rfl
@[simp] theorem cnt_path (p o n : Nat) (h : Hw) : (cnt p o n h).path = h.path := rfl
@[simp] theorem cntW_path (p o n : Nat) (h : Hw) (w : Nat) : (cntW p o n h w).path = h.path := rfl
@[simp] theorem noteHw_path (o : Nat) (m : Word) (h : Hw) : (noteHw o m h).path = h.path := rfl
@[simp] theorem roSet_path (o : Nat) (v : Word) (h : Hw) : (roSet o v h).path = h.path := rfl
@[simp] theorem sticky_path (o : Nat) (m : Word) (h : Hw) : (sticky o m h).path = h.path := rfl
@[simp] theorem err_path (p b : Nat) (h : Hw) : (err p b h).path = h.path := rfl
@[simp] theorem roPut_home (o : Nat) (v : Word) (h : Hw) : (roPut o v h).home = h.home := rfl
@[simp] theorem put_home (p o n : Nat) (h : Hw) : (put p o n h).home = h.home := rfl
@[simp] theorem cnt_home (p o n : Nat) (h : Hw) : (cnt p o n h).home = h.home := rfl
@[simp] theorem cntW_home (p o n : Nat) (h : Hw) (w : Nat) : (cntW p o n h w).home = h.home := rfl
@[simp] theorem noteHw_home (o : Nat) (m : Word) (h : Hw) : (noteHw o m h).home = h.home := rfl
@[simp] theorem roSet_home (o : Nat) (v : Word) (h : Hw) : (roSet o v h).home = h.home := rfl
@[simp] theorem sticky_home (o : Nat) (m : Word) (h : Hw) : (sticky o m h).home = h.home := rfl
@[simp] theorem err_home (p b : Nat) (h : Hw) : (err p b h).home = h.home := rfl
@[simp] theorem roPut_arr (o : Nat) (v : Word) (h : Hw) : (roPut o v h).arr = h.arr := rfl
@[simp] theorem put_arr (p o n : Nat) (h : Hw) : (put p o n h).arr = h.arr := rfl
@[simp] theorem cnt_arr (p o n : Nat) (h : Hw) : (cnt p o n h).arr = h.arr := rfl
@[simp] theorem cntW_arr (p o n : Nat) (h : Hw) (w : Nat) : (cntW p o n h w).arr = h.arr := rfl
@[simp] theorem noteHw_arr (o : Nat) (m : Word) (h : Hw) : (noteHw o m h).arr = h.arr := rfl
@[simp] theorem roSet_arr (o : Nat) (v : Word) (h : Hw) : (roSet o v h).arr = h.arr := rfl
@[simp] theorem sticky_arr (o : Nat) (m : Word) (h : Hw) : (sticky o m h).arr = h.arr := rfl
@[simp] theorem err_arr (p b : Nat) (h : Hw) : (err p b h).arr = h.arr := rfl
@[simp] theorem roPut_near (o : Nat) (v : Word) (h : Hw) : (roPut o v h).near = h.near := rfl
@[simp] theorem put_near (p o n : Nat) (h : Hw) : (put p o n h).near = h.near := rfl
@[simp] theorem cnt_near (p o n : Nat) (h : Hw) : (cnt p o n h).near = h.near := rfl
@[simp] theorem cntW_near (p o n : Nat) (h : Hw) (w : Nat) : (cntW p o n h w).near = h.near := rfl
@[simp] theorem noteHw_near (o : Nat) (m : Word) (h : Hw) : (noteHw o m h).near = h.near := rfl
@[simp] theorem roSet_near (o : Nat) (v : Word) (h : Hw) : (roSet o v h).near = h.near := rfl
@[simp] theorem sticky_near (o : Nat) (m : Word) (h : Hw) : (sticky o m h).near = h.near := rfl
@[simp] theorem err_near (p b : Nat) (h : Hw) : (err p b h).near = h.near := rfl
@[simp] theorem roPut_xp (o : Nat) (v : Word) (h : Hw) : (roPut o v h).xp = h.xp := rfl
@[simp] theorem put_xp (p o n : Nat) (h : Hw) : (put p o n h).xp = h.xp := rfl
@[simp] theorem cnt_xp (p o n : Nat) (h : Hw) : (cnt p o n h).xp = h.xp := rfl
@[simp] theorem cntW_xp (p o n : Nat) (h : Hw) (w : Nat) : (cntW p o n h w).xp = h.xp := rfl
@[simp] theorem noteHw_xp (o : Nat) (m : Word) (h : Hw) : (noteHw o m h).xp = h.xp := rfl
@[simp] theorem roSet_xp (o : Nat) (v : Word) (h : Hw) : (roSet o v h).xp = h.xp := rfl
@[simp] theorem sticky_xp (o : Nat) (m : Word) (h : Hw) : (sticky o m h).xp = h.xp := rfl
@[simp] theorem err_xp (p b : Nat) (h : Hw) : (err p b h).xp = h.xp := rfl
@[simp] theorem roPut_glp (o : Nat) (v : Word) (h : Hw) : (roPut o v h).glp = h.glp := rfl
@[simp] theorem put_glp (p o n : Nat) (h : Hw) : (put p o n h).glp = h.glp := rfl
@[simp] theorem cnt_glp (p o n : Nat) (h : Hw) : (cnt p o n h).glp = h.glp := rfl
@[simp] theorem cntW_glp (p o n : Nat) (h : Hw) (w : Nat) : (cntW p o n h w).glp = h.glp := rfl
@[simp] theorem noteHw_glp (o : Nat) (m : Word) (h : Hw) : (noteHw o m h).glp = h.glp := rfl
@[simp] theorem roSet_glp (o : Nat) (v : Word) (h : Hw) : (roSet o v h).glp = h.glp := rfl
@[simp] theorem sticky_glp (o : Nat) (m : Word) (h : Hw) : (sticky o m h).glp = h.glp := rfl
@[simp] theorem err_glp (p b : Nat) (h : Hw) : (err p b h).glp = h.glp := rfl
@[simp] theorem roPut_reel (o : Nat) (v : Word) (h : Hw) : (roPut o v h).reel = h.reel := rfl
@[simp] theorem put_reel (p o n : Nat) (h : Hw) : (put p o n h).reel = h.reel := rfl
@[simp] theorem cnt_reel (p o n : Nat) (h : Hw) : (cnt p o n h).reel = h.reel := rfl
@[simp] theorem cntW_reel (p o n : Nat) (h : Hw) (w : Nat) : (cntW p o n h w).reel = h.reel := rfl
@[simp] theorem noteHw_reel (o : Nat) (m : Word) (h : Hw) : (noteHw o m h).reel = h.reel := rfl
@[simp] theorem roSet_reel (o : Nat) (v : Word) (h : Hw) : (roSet o v h).reel = h.reel := rfl
@[simp] theorem sticky_reel (o : Nat) (m : Word) (h : Hw) : (sticky o m h).reel = h.reel := rfl
@[simp] theorem err_reel (p b : Nat) (h : Hw) : (err p b h).reel = h.reel := rfl
@[simp] theorem roPut_units (o : Nat) (v : Word) (h : Hw) : (roPut o v h).units = h.units := rfl
@[simp] theorem put_units (p o n : Nat) (h : Hw) : (put p o n h).units = h.units := rfl
@[simp] theorem cnt_units (p o n : Nat) (h : Hw) : (cnt p o n h).units = h.units := rfl
@[simp] theorem cntW_units (p o n : Nat) (h : Hw) (w : Nat) : (cntW p o n h w).units = h.units := rfl
@[simp] theorem noteHw_units (o : Nat) (m : Word) (h : Hw) : (noteHw o m h).units = h.units := rfl
@[simp] theorem roSet_units (o : Nat) (v : Word) (h : Hw) : (roSet o v h).units = h.units := rfl
@[simp] theorem sticky_units (o : Nat) (m : Word) (h : Hw) : (sticky o m h).units = h.units := rfl
@[simp] theorem err_units (p b : Nat) (h : Hw) : (err p b h).units = h.units := rfl
@[simp] theorem roPut_qos (o : Nat) (v : Word) (h : Hw) : (roPut o v h).qos = h.qos := rfl
@[simp] theorem put_qos (p o n : Nat) (h : Hw) : (put p o n h).qos = h.qos := rfl
@[simp] theorem cnt_qos (p o n : Nat) (h : Hw) : (cnt p o n h).qos = h.qos := rfl
@[simp] theorem cntW_qos (p o n : Nat) (h : Hw) (w : Nat) : (cntW p o n h w).qos = h.qos := rfl
@[simp] theorem noteHw_qos (o : Nat) (m : Word) (h : Hw) : (noteHw o m h).qos = h.qos := rfl
@[simp] theorem roSet_qos (o : Nat) (v : Word) (h : Hw) : (roSet o v h).qos = h.qos := rfl
@[simp] theorem sticky_qos (o : Nat) (m : Word) (h : Hw) : (sticky o m h).qos = h.qos := rfl
@[simp] theorem err_qos (p b : Nat) (h : Hw) : (err p b h).qos = h.qos := rfl
@[simp] theorem roPut_prot (o : Nat) (v : Word) (h : Hw) : (roPut o v h).prot = h.prot := rfl
@[simp] theorem put_prot (p o n : Nat) (h : Hw) : (put p o n h).prot = h.prot := rfl
@[simp] theorem cnt_prot (p o n : Nat) (h : Hw) : (cnt p o n h).prot = h.prot := rfl
@[simp] theorem cntW_prot (p o n : Nat) (h : Hw) (w : Nat) : (cntW p o n h w).prot = h.prot := rfl
@[simp] theorem noteHw_prot (o : Nat) (m : Word) (h : Hw) : (noteHw o m h).prot = h.prot := rfl
@[simp] theorem roSet_prot (o : Nat) (v : Word) (h : Hw) : (roSet o v h).prot = h.prot := rfl
@[simp] theorem sticky_prot (o : Nat) (m : Word) (h : Hw) : (sticky o m h).prot = h.prot := rfl
@[simp] theorem err_prot (p b : Nat) (h : Hw) : (err p b h).prot = h.prot := rfl
@[simp] theorem roPut_diag (o : Nat) (v : Word) (h : Hw) : (roPut o v h).diag = h.diag := rfl
@[simp] theorem put_diag (p o n : Nat) (h : Hw) : (put p o n h).diag = h.diag := rfl
@[simp] theorem cnt_diag (p o n : Nat) (h : Hw) : (cnt p o n h).diag = h.diag := rfl
@[simp] theorem cntW_diag (p o n : Nat) (h : Hw) (w : Nat) : (cntW p o n h w).diag = h.diag := rfl
@[simp] theorem noteHw_diag (o : Nat) (m : Word) (h : Hw) : (noteHw o m h).diag = h.diag := rfl
@[simp] theorem roSet_diag (o : Nat) (v : Word) (h : Hw) : (roSet o v h).diag = h.diag := rfl
@[simp] theorem sticky_diag (o : Nat) (m : Word) (h : Hw) : (sticky o m h).diag = h.diag := rfl
@[simp] theorem err_diag (p b : Nat) (h : Hw) : (err p b h).diag = h.diag := rfl
@[simp] theorem roPut_perf (o : Nat) (v : Word) (h : Hw) : (roPut o v h).perf = h.perf := rfl
@[simp] theorem put_perf (p o n : Nat) (h : Hw) : (put p o n h).perf = h.perf := rfl
@[simp] theorem cnt_perf (p o n : Nat) (h : Hw) : (cnt p o n h).perf = h.perf := rfl
@[simp] theorem cntW_perf (p o n : Nat) (h : Hw) (w : Nat) : (cntW p o n h w).perf = h.perf := rfl
@[simp] theorem noteHw_perf (o : Nat) (m : Word) (h : Hw) : (noteHw o m h).perf = h.perf := rfl
@[simp] theorem roSet_perf (o : Nat) (v : Word) (h : Hw) : (roSet o v h).perf = h.perf := rfl
@[simp] theorem sticky_perf (o : Nat) (m : Word) (h : Hw) : (sticky o m h).perf = h.perf := rfl
@[simp] theorem err_perf (p b : Nat) (h : Hw) : (err p b h).perf = h.perf := rfl
@[simp] theorem roPut_free (o : Nat) (v : Word) (h : Hw) : (roPut o v h).free = h.free := rfl
@[simp] theorem put_free (p o n : Nat) (h : Hw) : (put p o n h).free = h.free := rfl
@[simp] theorem cnt_free (p o n : Nat) (h : Hw) : (cnt p o n h).free = h.free := rfl
@[simp] theorem cntW_free (p o n : Nat) (h : Hw) (w : Nat) : (cntW p o n h w).free = h.free := rfl
@[simp] theorem noteHw_free (o : Nat) (m : Word) (h : Hw) : (noteHw o m h).free = h.free := rfl
@[simp] theorem roSet_free (o : Nat) (v : Word) (h : Hw) : (roSet o v h).free = h.free := rfl
@[simp] theorem sticky_free (o : Nat) (m : Word) (h : Hw) : (sticky o m h).free = h.free := rfl
@[simp] theorem err_free (p b : Nat) (h : Hw) : (err p b h).free = h.free := rfl
@[simp] theorem roPut_hwSet (o : Nat) (v : Word) (h : Hw) : (roPut o v h).hwSet = h.hwSet := rfl
@[simp] theorem put_hwSet (p o n : Nat) (h : Hw) : (put p o n h).hwSet = h.hwSet := rfl
@[simp] theorem cnt_hwSet (p o n : Nat) (h : Hw) : (cnt p o n h).hwSet = h.hwSet := rfl
@[simp] theorem cntW_hwSet (p o n : Nat) (h : Hw) (w : Nat) : (cntW p o n h w).hwSet = h.hwSet := rfl

end Sys2Proof.Machine
end

