-- ==== Sys2Proof/Laws/Ops.lean ====
section
/-! SUPPORT. What the shared operations do, said once: registers and the registers-only frame, events and reports, the commands of a
page, bank power and schedulers, stored words, entries, messages queued, and software-written registers. -/
namespace Sys2Proof.Machine

/-! ### Registers that the slice writes -/

theorem roGet_roPut (o k : Nat) (v : Word) (h : Hw) : roGet (roPut o v h) k = if k = o then v else roGet h k := by
  unfold roGet roPut
  split
  · subst_vars; simp
  · simp; rw [cGet_cPut_ne]; assumption

@[simp] theorem roGet_noteHw (o k : Nat) (m : Word) (h : Hw) : roGet (noteHw o m h) k = roGet h k := rfl

theorem roGet_put (p o n k : Nat) (h : Hw) : roGet (put p o n h) k = if k = rg p o then BitVec.ofNat 32 n else roGet h k :=
  roGet_roPut ..

theorem roGet_cnt (p o n k : Nat) (h : Hw) :
    roGet (cnt p o n h) k = if k = rg p o then satAdd (roGet h (rg p o)) n else roGet h k := roGet_roPut ..

theorem roGet_cntW (p o n k w : Nat) (h : Hw) :
    roGet (cntW p o n h w) k = if k = rg p o then BitVec.ofNat 32 (((roGet h (rg p o)).toNat + n) % 2 ^ w) else roGet h k :=
  roGet_roPut ..

theorem roGet_roSet (o k : Nat) (v : Word) (h : Hw) : roGet (roSet o v h) k = if k = o then v else roGet h k := by
  unfold roSet; rw [roGet_noteHw, roGet_roPut]

theorem roGet_sticky (o k : Nat) (m : Word) (h : Hw) :
    roGet (sticky o m h) k = if k = o then roGet h o ||| m else roGet h k := by
  unfold sticky; rw [roGet_noteHw, roGet_roPut]

theorem roGet_err (p b k : Nat) (h : Hw) :
    roGet (err p b h) k = if k = rg p 0x10 then roGet h (rg p 0x10) ||| BitVec.ofNat 32 (2 ^ b) else roGet h k := roGet_sticky ..

/-- The bit that `err` sets is set. -/
theorem bit_or (x : Word) (b : Nat) (q : b < 32) : bit (x ||| BitVec.ofNat 32 (2 ^ b)) b = true := by
  unfold bit bitN
  rw [BitVec.toNat_or, BitVec.toNat_ofNat, Nat.mod_eq_of_lt (Nat.pow_lt_pow_right (by omega) q)]
  have : ((x.toNat ||| 2 ^ b).testBit b) = true := by simp
  rw [Nat.testBit_eq_decide_div_mod_eq] at this
  rw [Nat.shiftRight_eq_div_pow]; exact this

theorem bit_err (p b : Nat) (h : Hw) (q : b < 32) : bit (roGet (err p b h) (rg p 0x10)) b = true := by
  rw [roGet_err, if_pos rfl]; exact bit_or _ _ q

/-! ### Same registers -/

theorem SameRegs.refl {l : List Nat} {h : Hw} : SameRegs l h h := fun _ _ => rfl

theorem SameRegs.trans {l : List Nat} {a b c : Hw} (x : SameRegs l a b) (y : SameRegs l b c) : SameRegs l a c :=
  fun o m => (y o m).trans (x o m)

theorem SameRegs.mono {l m : List Nat} {a b : Hw} (x : SameRegs l a b) (q : ∀ o ∈ l, o ∈ m) : SameRegs m a b :=
  fun o n => x o (fun w => n (q o w))

theorem SameRegs.of_ro {l : List Nat} {a b : Hw} (e : b.ro = a.ro) : SameRegs l a b := by
  intro o _; unfold roGet; rw [e]

theorem SameRegs.roPut {l : List Nat} {a b : Hw} {o : Nat} (k : SameRegs l a b) (v : Word) (m : o ∈ l) :
    SameRegs l a (roPut o v b) := by
  intro x hx; rw [roGet_roPut, if_neg (by rintro rfl; exact hx m)]; exact k x hx

theorem SameRegs.put {l : List Nat} {a b : Hw} {p o n : Nat} (k : SameRegs l a b) (m : rg p o ∈ l) : SameRegs l a (put p o n b) :=
  k.roPut _ m
theorem SameRegs.cnt {l : List Nat} {a b : Hw} {p o n : Nat} (k : SameRegs l a b) (m : rg p o ∈ l) : SameRegs l a (cnt p o n b) :=
  k.roPut _ m
theorem SameRegs.cntW {l : List Nat} {a b : Hw} {p o n w : Nat} (k : SameRegs l a b) (m : rg p o ∈ l) :
    SameRegs l a (cntW p o n b w) := k.roPut _ m
theorem SameRegs.sticky {l : List Nat} {a b : Hw} {o : Nat} {v : Word} (k : SameRegs l a b) (m : o ∈ l) :
    SameRegs l a (sticky o v b) := k.roPut _ m
theorem SameRegs.roSet {l : List Nat} {a b : Hw} {o : Nat} {v : Word} (k : SameRegs l a b) (m : o ∈ l) : SameRegs l a (roSet o v b) :=
  k.roPut _ m
theorem SameRegs.err {l : List Nat} {a b : Hw} {p n : Nat} (k : SameRegs l a b) (m : rg p 0x10 ∈ l) : SameRegs l a (err p n b) :=
  k.sticky m

/-! ### Registers only -/

/-- `b` differs from `a` in registers and in the notes on this cycle's hardware writes only. -/
def RegsOnly (a b : Hw) : Prop := b = { a with ro := b.ro, hwSet := b.hwSet }

theorem RegsOnly.refl {h : Hw} : RegsOnly h h := rfl
theorem RegsOnly.roPut {a b : Hw} {o : Nat} {v : Word} (k : RegsOnly a b) : RegsOnly a (roPut o v b) := by
  unfold RegsOnly at *; rw [k]; rfl
theorem RegsOnly.put {a b : Hw} {p o n : Nat} (k : RegsOnly a b) : RegsOnly a (put p o n b) := k.roPut
theorem RegsOnly.cnt {a b : Hw} {p o n : Nat} (k : RegsOnly a b) : RegsOnly a (cnt p o n b) := k.roPut
theorem RegsOnly.cntW {a b : Hw} {p o n w : Nat} (k : RegsOnly a b) : RegsOnly a (cntW p o n b w) := k.roPut
theorem RegsOnly.noteHw {a b : Hw} {o : Nat} {m : Word} (k : RegsOnly a b) : RegsOnly a (noteHw o m b) := by
  unfold RegsOnly at *; rw [k]; rfl
theorem RegsOnly.sticky {a b : Hw} {o : Nat} {m : Word} (k : RegsOnly a b) : RegsOnly a (sticky o m b) := k.roPut.noteHw
theorem RegsOnly.roSet {a b : Hw} {o : Nat} {v : Word} (k : RegsOnly a b) : RegsOnly a (roSet o v b) := k.roPut.noteHw
theorem RegsOnly.err {a b : Hw} {p n : Nat} (k : RegsOnly a b) : RegsOnly a (err p n b) := k.sticky

/-! ### The commands of a page -/

theorem rg_ne {p o q : Nat} (h : o ≠ q) : rg p o ≠ rg p q := by unfold rg; omega

/-- A command taken shows its code and result, and STATE sets CMD_STATE. -/
theorem cmdTaken_took (p stat code : Nat) (h : Hw) : CmdTook p stat code h (cmdTaken p stat code h) := by
  unfold cmdTaken CmdTook
  have n1 : rg p 0x20 ≠ rg p 0x10 := rg_ne (by decide)
  have n2 : rg p 0x64 ≠ rg p 0x10 := rg_ne (by decide)
  have n3 : rg p 0x20 ≠ rg p 0x64 := rg_ne (by decide)
  refine ⟨?_, ?_, ?_⟩
  · simp only; split <;> simp [roGet_err, roGet_put, n1, n3]
  · simp only; split <;> simp [roGet_err, roGet_put, n2]
  · intro e; simp only; rw [if_pos e]; exact bit_err _ _ _ (by decide)

theorem cmdTaken_regs (p stat code : Nat) (h : Hw) : SameRegs (cmdRegs p) h (cmdTaken p stat code h) := by
  unfold cmdTaken; simp only
  have k : SameRegs (cmdRegs p) h (put p 0x64 code (put p 0x20 (2 ^ 31 * b2n (pgBusy h p) + stat) h)) :=
    (SameRegs.refl.put (by simp [cmdRegs])).put (by simp [cmdRegs])
  split
  · exact k.err (by simp [cmdRegs])
  · exact k

theorem cmdTaken_only (p stat code : Nat) (h : Hw) : RegsOnly h (cmdTaken p stat code h) := by
  unfold cmdTaken; simp only
  split
  · exact RegsOnly.refl.put.put.err
  · exact RegsOnly.refl.put.put

theorem cmdRuns_runs (p stat : Nat) (h : Hw) : CmdRuns p stat (cmdRuns p stat h) := by
  unfold CmdRuns cmdRuns; rw [roGet_put, if_pos rfl]

theorem cmdRuns_regs (p stat : Nat) (h : Hw) : SameRegs [rg p 0x20] h (cmdRuns p stat h) := SameRegs.refl.put (by simp)

theorem cmdRuns_only (p stat : Nat) (h : Hw) : RegsOnly h (cmdRuns p stat h) := RegsOnly.refl.put

/-- A command that ends clears BUSY and shows its result. -/
theorem cmdEnds_ends (p code : Nat) (h : Hw) : CmdEnds p code h (cmdEnds p code h) := by
  unfold cmdEnds CmdEnds
  have n1 : rg p 0x20 ≠ rg p 0x10 := rg_ne (by decide)
  have n2 : rg p 0x64 ≠ rg p 0x10 := rg_ne (by decide)
  have n3 : rg p 0x64 ≠ rg p 0x20 := rg_ne (by decide)
  refine ⟨?_, ?_, ?_⟩
  · simp only; split <;> simp [roGet_err, roGet_put, n1]
  · simp only; split <;> simp [roGet_err, roGet_put, n2, n3]
  · intro e; simp only; rw [if_pos e]; exact bit_err _ _ _ (by decide)

theorem cmdEnds_regs (p code : Nat) (h : Hw) : SameRegs (cmdRegs p) h (cmdEnds p code h) := by
  unfold cmdEnds; simp only
  have k : SameRegs (cmdRegs p) h (put p 0x20 ((roGet h (rg p 0x20)).toNat % 2 ^ 31) (put p 0x64 code h)) :=
    (SameRegs.refl.put (by simp [cmdRegs])).put (by simp [cmdRegs])
  split
  · exact k.err (by simp [cmdRegs])
  · exact k

theorem cmdEnds_only (p code : Nat) (h : Hw) : RegsOnly h (cmdEnds p code h) := by
  unfold cmdEnds; simp only
  split
  · exact RegsOnly.refl.put.put.err
  · exact RegsOnly.refl.put.put

theorem cmdRefused_bit (p : Nat) (h : Hw) : bit (roGet (cmdRefused p h) (rg p 0x10)) 0 = true := bit_err _ _ _ (by decide)
theorem cmdRefused_regs (p : Nat) (h : Hw) : SameRegs [rg p 0x10] h (cmdRefused p h) := SameRegs.refl.err (by simp)
theorem cmdRefused_only (p : Nat) (h : Hw) : RegsOnly h (cmdRefused p h) := RegsOnly.refl.err

/-! ### Events and reports -/

theorem ovf_mem (e : Nat) (h : e < 160) : rg 24 (0x80 + 4 * (e / 32)) ∈ regOvf := by
  unfold rg regOvf; simp; omega

/-- An event changes its counters, and the overflow bits. -/
theorem ev_frame (e n : Nat) (h : Hw) : ev e n h = { h with perf := (ev e n h).perf, ro := (ev e n h).ro, hwSet := (ev e n h).hwSet } := by
  unfold ev; split; rfl; simp only; split <;> rfl

theorem SameRegs.ev {l : List Nat} {a h : Hw} {e n : Nat} (k : SameRegs l a h) (q : ∀ o ∈ regOvf, o ∈ l) (he : e < 160) :
    SameRegs l a (ev e n h) := by
  unfold Machine.ev; split
  · exact k
  · simp only; split
    · exact SameRegs.sticky (b := Hw.modPerf _ _) k (q _ (ovf_mem e he))
    · exact k

@[simp] theorem ev_cyc (e n h) : (ev e n h).cyc = h.cyc := by rw [ev_frame]
@[simp] theorem ev_rst (e n h) : (ev e n h).rst = h.rst := by rw [ev_frame]
@[simp] theorem ev_ports (e n h) : (ev e n h).ports = h.ports := by rw [ev_frame]
@[simp] theorem ev_vp (e n h) : (ev e n h).vp = h.vp := by rw [ev_frame]
@[simp] theorem ev_core (e n h) : (ev e n h).core = h.core := by rw [ev_frame]
@[simp] theorem ev_path (e n h) : (ev e n h).path = h.path := by rw [ev_frame]
@[simp] theorem ev_home (e n h) : (ev e n h).home = h.home := by rw [ev_frame]
@[simp] theorem ev_arr (e n h) : (ev e n h).arr = h.arr := by rw [ev_frame]
@[simp] theorem ev_near (e n h) : (ev e n h).near = h.near := by rw [ev_frame]
@[simp] theorem ev_xp (e n h) : (ev e n h).xp = h.xp := by rw [ev_frame]
@[simp] theorem ev_glp (e n h) : (ev e n h).glp = h.glp := by rw [ev_frame]
@[simp] theorem ev_reel (e n h) : (ev e n h).reel = h.reel := by rw [ev_frame]
@[simp] theorem ev_units (e n h) : (ev e n h).units = h.units := by rw [ev_frame]
@[simp] theorem ev_qos (e n h) : (ev e n h).qos = h.qos := by rw [ev_frame]
@[simp] theorem ev_prot (e n h) : (ev e n h).prot = h.prot := by rw [ev_frame]
@[simp] theorem ev_diag (e n h) : (ev e n h).diag = h.diag := by rw [ev_frame]
@[simp] theorem ev_free (e n h) : (ev e n h).free = h.free := by rw [ev_frame]

/-- A report with none waiting is queued. -/
theorem report_empty (kind : Nat) (place : Bool) (src cls : Nat) (wmask : Word) (rid : Rid) (h : Hw) (iseq : Nat)
    (e : h.diag.rq = []) :
    report kind place src cls wmask rid h iseq = (ev 0x9A 1 h).modDiag (fun it => { it with rq := [{
      kind := kind, place := place, src := src % 2 ^ 45, cls := cls, wmask := wmask, rid := rid, cyc := BitVec.ofNat 32 (now h)
      count := 1, last := rid, lastCyc := BitVec.ofNat 32 (now h), reach := clkC h, iseq := iseq
      lreach := clkC h, lseq := iseq }] }) := by
  unfold report
  simp only [ev_diag, e, rqMerge, List.find?_nil, List.length_nil, Nat.zero_lt_succ, if_true, rqInsert]

/-- A report changes the queue of reports, its event, and, where it is lost, ERR_DROP and LOG.LOST. -/
theorem report_frame (kind : Nat) (place : Bool) (src cls : Nat) (wmask : Word) (rid : Rid) (h : Hw) (iseq : Nat) :
    let b := report kind place src cls wmask rid h iseq
    b = { h with diag := { h.diag with rq := b.diag.rq }, perf := b.perf, ro := b.ro, hwSet := b.hwSet } := by
  unfold report
  simp only
  split
  · rw [ev_frame]; rfl
  · split
    · rw [ev_frame]; rfl
    · rw [ev_frame]; rfl

theorem SameRegs.report {l : List Nat} {a h : Hw} {kind : Nat} {place : Bool} {src cls : Nat} {wmask : Word} {rid : Rid} {iseq : Nat}
    (k : SameRegs l a h) (q : ∀ o ∈ regOvf, o ∈ l) (e : h.diag.rq = [] ∨ (0x14048 ∈ l ∧ 0x14010 ∈ l)) :
    SameRegs l a (report kind place src cls wmask rid h iseq) := by
  have x : SameRegs l a (Machine.ev 0x9A 1 h) := k.ev q (by decide)
  rcases e with e | e
  · rw [report_empty _ _ _ _ _ _ _ _ e]; exact x
  · unfold Machine.report
    simp only
    split
    · exact x
    · split
      · exact x
      · exact (SameRegs.cnt (b := Hw.modDiag _ _) x (p := 20) (o := 0x48) e.1).err (p := 20) e.2

/-! ### Banks, words and entries -/

theorem pwr_setPwr (b k : Nat) (p : Pwr) (h : Hw) : pwr (setPwr b p h) k = if k = b then p else pwr h k := by
  unfold pwr setPwr; split
  · subst_vars; simp
  · simp; rw [cGet_cPut_ne]; assumption

/-- What a bank is asked for, and nothing else. -/
theorem pwr_pwrAsk (b k : Nat) (x : PwrSt) (h : Hw) :
    pwr (pwrAsk b x h) k = if k = b then askedPwr x (now h) (pwr h b) else pwr h k := by
  unfold pwrAsk askedPwr; simp only
  split
  · split
    · subst_vars; rfl
    · rfl
  · split
    · rw [pwr_setPwr]
    · rw [pwr_setPwr]

theorem pwrAsk_frame (b : Nat) (x : PwrSt) (h : Hw) : pwrAsk b x h = { h with arr := { h.arr with pwr := (pwrAsk b x h).arr.pwr } } := by
  unfold pwrAsk; simp only; split; rfl; split <;> rfl

theorem bank_setBank (b k : Nat) (x : Bank) (h : Hw) : bank (setBank b x h) k = if k = b then x else bank h k := by
  unfold bank setBank; split
  · subst_vars; simp
  · simp; rw [cGet_cPut_ne]; assumption

/-- An operation joins its bank's pending ones; a bank in retention is asked to wake. -/
theorem bank_enqOp (op : BankOp) (h : Hw) (k : Nat) :
    bank (enqOp op h) k = if k = op.bank then { bank h k with pend := (bank h k).pend ++ [op] } else bank h k := by
  have e : ∀ h' : Hw, bank (ev 0x5F 1 (pwrAsk op.bank .on h')) k = bank h' k := by
    intro h'; unfold bank; rw [ev_arr, pwrAsk_frame]
  unfold enqOp; simp only
  split
  · rw [e, bank_setBank]; split
    · subst_vars; rfl
    · rfl
  · rw [bank_setBank]; split
    · subst_vars; rfl
    · rfl

theorem enqOp_frame (op : BankOp) (h : Hw) :
    let b := enqOp op h
    b = { h with arr := { h.arr with banks := b.arr.banks, pwr := b.arr.pwr }, perf := b.perf, ro := b.ro, hwSet := b.hwSet } := by
  unfold enqOp; simp only
  split
  · rw [ev_frame, pwrAsk_frame]; rfl
  · rfl

theorem SameRegs.enqOp {l : List Nat} {a h : Hw} {op : BankOp} (k : SameRegs l a h) (q : ∀ o ∈ regOvf, o ∈ l) :
    SameRegs l a (enqOp op h) := by
  unfold Machine.enqOp; simp only
  split
  · refine SameRegs.ev ?_ q (by decide)
    rw [pwrAsk_frame]; exact k
  · exact k

theorem cellKey_inj {b row w b' row' w' : Nat} (h1 : row < 16384) (h2 : w < 16) (h3 : row' < 16384) (h4 : w' < 16)
    (e : cellKey b row w = cellKey b' row' w') : b = b' ∧ row = row' ∧ w = w' := by
  unfold cellKey at e; omega

theorem wordAt_storeWord {b row w b' row' w' : Nat} (x : Code) (h : Hw) (h1 : row < 16384) (h2 : w < 16) (h3 : row' < 16384)
    (h4 : w' < 16) :
    wordAt (storeWord b row w x h) b' row' w' = if b' = b ∧ row' = row ∧ w' = w then x else wordAt h b' row' w' := by
  unfold wordAt storeWord
  split
  · rename_i e; obtain ⟨rfl, rfl, rfl⟩ := e; simp
  · rename_i e
    simp only [Hw.modArr_arr]
    rw [cGet_cPut_ne]
    intro k
    obtain ⟨x1, x2, x3⟩ := cellKey_inj h3 h4 h1 h2 k
    exact e ⟨x1, x2, x3⟩

theorem ent_updEnt (i k : Nat) (f : Ent → Ent) (h : Hw) : ent (updEnt i f h) k = if k = i then (ent h i).map f else ent h k := by
  unfold ent updEnt
  split
  · subst_vars; simp only [Hw.modCore_core]; exact cFind_cUpd_same _ _ _
  · simp only [Hw.modCore_core]; exact cFind_cUpd_ne _ _ (by assumption)

theorem tagAt_setTag {set way set' way' : Nat} (t : Tag) (h : Hw) (h1 : way < 16) (h2 : way' < 16) :
    tagAt (setTag set way t h) set' way' = if set' = set ∧ way' = way then t else tagAt h set' way' := by
  unfold tagAt setTag
  split
  · rename_i e; obtain ⟨rfl, rfl⟩ := e; simp
  · rename_i e; simp only [Hw.modHome_home]; rw [cGet_cPut_ne]; omega

/-! ### Messages -/

/-- A message sent joins the queue of its VC. -/
theorem send_queued (p : Port) (vc : Nat) (m : OutMsg) (h : Hw) : Queued p vc m h (send p vc m h) := by
  intro k
  unfold send
  split
  · subst_vars; simp
  · simp only [Hw.modPorts_ports]; rw [cGet_cPut_ne]; assumption

theorem send_frame (p : Port) (vc : Nat) (m : OutMsg) (h : Hw) :
    send p vc m h = { h with ports := { h.ports with eg := (send p vc m h).ports.eg } } := rfl

/-! ### Engines -/

theorem chanAt_setChan (n k : Nat) (x : Chan) (h : Hw) : chanAt (setChan n x h) k = if k = n then x else chanAt h k := by
  unfold chanAt setChan; split
  · subst_vars; simp
  · simp; rw [cGet_cPut_ne]; assumption

theorem ctxAt_setCtx (n k : Nat) (x : Ctx) (h : Hw) : ctxAt (setCtx n x h) k = if k = n then x else ctxAt h k := by
  unfold ctxAt setCtx; split
  · subst_vars; simp
  · simp; rw [cGet_cPut_ne]; assumption

/-! ### Software-written registers -/

/-- A write takes its RW bits, and its RWL bits while LOCK is 0; every other register is as before. -/
theorem cfgGet_cfgPut (c : Cells Word) (o k : Nat) (d : Word) :
    cfgGet (cfgPut c o d) k =
      if k = o then
        (cfgGet c o &&& ~~~ (if locked c then (regRow o).rw else (regRow o).rw ||| (regRow o).rwl)) |||
          (d &&& (if locked c then (regRow o).rw else (regRow o).rw ||| (regRow o).rwl))
      else cfgGet c k := by
  unfold cfgPut
  by_cases e : k = o
  · subst e; rw [if_pos rfl]; unfold cfgGet; simp
  · rw [if_neg e]; unfold cfgGet cGet; rw [cFind_cPut_ne _ _ _ e]

end Sys2Proof.Machine
end

