-- ==== Sys2Proof/Laws/Settle.lean ====
section
/-! SUPPORT. What follows a command by itself: transactions go on and leave what `Further` lists, and a command of the form `act f`
completes as `After` says. -/
namespace Sys2Proof.Machine

/-- However many acts run, they leave what no transaction changes. -/
theorem settleLoop_kept {h0 : Hw} {c : Cells Word} (n : Nat) {h : Hw} (k : Kept h0 h) : Kept h0 (settleLoop c n h) := by
  induction n generalizing h with
  | zero => exact k
  | succ n ih =>
    unfold settleLoop
    split
    · exact ih (joinEvt_kept k)
    · split
      · exact ih (runAct_kept k)
      · exact k

/-- What follows a command leaves what no transaction changes. -/
theorem settle_kept {h0 : Hw} {c : Cells Word} {h : Hw} (k : Kept h0 h) : Kept h0 (settle c h) := by
  unfold settle
  apply settleLoop_kept
  split
  · exact k
  · exact albRetry_kept k

/-- With no transaction and no ALB entry nothing follows. -/
theorem settle_still {c : Cells Word} {h : Hw} (t : h.core.tt = []) (a : h.near.alb = []) : settle c h = h := by
  have : albRetry h = h := by unfold albRetry; rw [a]; rfl
  unfold settle; rw [this]; simp only [ite_self]
  unfold settleLoop
  have j : nextJoin h = none := by simp [nextJoin, t]
  have k : nextAct h = none := by simp [nextAct, t, leastBy]
  rw [j]; simp only [k]

/-- What follows a command, said once. -/
theorem settle_further (c : Cells Word) (h : Hw) : Further h (settle c h) := by
  have k : Kept h (settle c h) := settle_kept rfl
  have st : h.core.tt = [] → h.near.alb = [] → settle c h = h := settle_still
  generalize settle c h = b at *
  unfold Kept at k
  have R : ∀ o, o < 0x8000 → roGet b o = roGet h o := by
    intro o q
    have e : b.ro.filter (fun p => keptReg p.1) = h.ro.filter (fun p => keptReg p.1) := congrArg Hw.ro k
    have f1 := cFind_filter b.ro (fun o => keptReg o) o
    have f2 := cFind_filter h.ro (fun o => keptReg o) o
    simp only [keptReg, q, decide_true, if_true] at f1 f2
    unfold roGet cGet; rw [← f1, ← f2]
    simp only [keptReg] at e; rw [e]
  have W : ∀ o, o < 8388608 → cGet 0 b.arr.words o = cGet 0 h.arr.words o := by
    intro o q
    have e : b.arr.words.filter (fun p => decide (p.1 < 8388608)) = h.arr.words.filter (fun p => decide (p.1 < 8388608)) := congrArg (fun x => x.arr.words) k
    have f1 := cFind_filter b.arr.words (fun o => decide (o < 8388608)) o
    have f2 := cFind_filter h.arr.words (fun o => decide (o < 8388608)) o
    simp only [q, decide_true, if_true] at f1 f2
    unfold cGet; rw [← f1, ← f2, e]
  have P := congrArg Hw.ports k
  constructor
  case still => exact st
  case regs => exact R
  case words => exact W
  case ports => 
    obtain ⟨⟩ := b; obtain ⟨⟩ := h; simp only [Hw.fixed, Ports.mk.injEq] at *; simp_all
  case cyc => exact (congrArg Hw.cyc k : b.fixed.cyc = h.fixed.cyc)
  case rst => exact (congrArg Hw.rst k : b.fixed.rst = h.fixed.rst)
  case path => exact (congrArg Hw.path k : b.fixed.path = h.fixed.path)
  case vp => exact (congrArg Hw.vp k : b.fixed.vp = h.fixed.vp)
  case qos => exact (congrArg Hw.qos k : b.fixed.qos = h.fixed.qos)
  case fenced => exact (congrArg (fun x : Hw => x.home.fenced) k : b.fixed.home.fenced = h.fixed.home.fenced)
  case swept => exact (congrArg (fun x : Hw => x.home.swept) k : b.fixed.home.swept = h.fixed.home.swept)
  case sweep => exact (congrArg (fun x : Hw => x.home.sweep) k : b.fixed.home.sweep = h.fixed.home.sweep)
  case mode => exact (congrArg (fun x : Hw => x.home.mode) k : b.fixed.home.mode = h.fixed.home.mode)
  case locked => exact (congrArg (fun x : Hw => x.home.locked) k : b.fixed.home.locked = h.fixed.home.locked)
  case fill => exact (congrArg (fun x : Hw => x.glp.fill) k : b.fixed.glp.fill = h.fixed.glp.fill)
  case members => exact (congrArg (fun x : Hw => x.reel.mem) k : b.fixed.reel.mem = h.fixed.reel.mem)
  case log => exact (congrArg (fun x : Hw => x.diag.log) k : b.fixed.diag.log = h.fixed.diag.log)
  case recs => exact (congrArg (fun x : Hw => x.diag.recs) k : b.fixed.diag.recs = h.fixed.diag.recs)
  case gav => exact (congrArg (fun x : Hw => x.diag.gav) k : b.fixed.diag.gav = h.fixed.diag.gav)
  case events => exact (congrArg (fun x : Hw => x.units.events) k : b.fixed.units.events = h.fixed.units.events)
  case march => exact (congrArg (fun x : Hw => x.prot.march) k : b.fixed.prot.march = h.fixed.prot.march)

/-- A command out of reset completes with its own effect, and then the transactions go on. -/
theorem after_act {i : Instr} {s : State} {f : Cells Word → Hw → Hw} {P : Hw → Prop} (r : running s.hw = true)
    (e : exec i s = .next (act f s)) (p : P (f s.cfg s.hw)) : After i s P := by
  refine ⟨f s.cfg s.hw, ?_, p, settle_further _ _⟩
  rw [e]; simp [act, r]
/-- A command that changes software-written registers completes with its own effect, and then the transactions go on. -/
theorem after_actReg {i : Instr} {s : State} {f : State → State} {P : Cells Word → Hw → Prop} (r : running s.hw = true)
    (e : exec i s = .next (actReg f s)) (q : (f s).pending = s.pending) (p : P (f s).cfg (f s).hw) : AfterCfg i s P := by
  refine ⟨(f s).cfg, (f s).hw, ?_, p, settle_further _ _⟩
  rw [e]; simp [actReg, r, settled, q]

/-- Such a command that changes no software-written register. -/
theorem after_actReg_hw {i : Instr} {s : State} {f : State → State} {P : Hw → Prop} (r : running s.hw = true)
    (e : exec i s = .next (actReg f s)) (q : (f s).pending = s.pending) (g : (f s).cfg = s.cfg) (p : P (f s).hw) : After i s P := by
  refine ⟨(f s).hw, ?_, p, settle_further _ _⟩
  rw [e]; simp [actReg, r, settled, g]; exact q

end Sys2Proof.Machine
end

