-- ==== Sys2Proof/WellFormed.lean ====
section
/-! DEFINITION. Well-formed commands: every operand names something that the slice has. -/
namespace Sys2Proof

/-- Virtual channels of a port (R356). -/
def vcWf (vc : Nat) : Bool := decide (vc < 10)

/-- Places of words below `n`, each with the flips that a read of it meets. -/
def upsetsWf (n : Nat) (l : List (Nat × BitVec 39)) : Bool := l.all (fun u => decide (u.1 < n))

/-- Banks from `b` on in whose rows a march operation meets a difference, each once and in rising order, with the first column. -/
def rowUpsWf (b : Nat) : List (Nat × Nat) → Bool
  | [] => true
  | u :: r => decide (b ≤ u.1 ∧ u.1 < 33 ∧ u.2 < 624) && rowUpsWf (u.1 + 1) r

/-- A register's byte offset in configuration space: aligned, in one of its 64 pages (R10, R477). -/
def offWf (o : Nat) : Bool := decide (o < 0x40000) && decide (o % 4 = 0)

/-- A word that the checksum of R443 covers. -/
def coveredWf (o : Nat) : Bool :=
  offWf o && (decide (0x28000 ≤ o ∧ o < 0x2C000) || decide (o = 0x604C) || decide (0x6100 ≤ o ∧ o < 0x6200))

/-- The command's operands are in range. -/
def Instr.wf : Instr → Bool
  | .startupBankTmo b | .pwrAckRise b | .pwrAckFall b | .pwrHandshakeTmo b | .bankOnDelay b | .retentionIdleExpire b
  | .scrubReadIssue b | .bankRepairTmo b => decide (b < 32)
  | .bankGrant b => decide (b < 33)
  | .bankOpComplete b ups => decide (b < 33) && upsetsWf 32 ups
  | .mpOutCredit vc | .mpVcrstIn vc | .mpVcrstWaitDone vc => vcWf vc
  | .malformedMsg _ vc | .staleMsg _ vc | .readShared _ vc | .readOwn _ vc | .readNoSnoop _ vc | .writeInvalidate _ vc
  | .writePartialInvalidate _ vc | .atomic _ vc | .accumulate _ vc | .tangoRead _ vc | .fence _ vc | .enqueue _ vc
  | .dequeue _ vc | .enqueueBatch _ vc | .dequeueBatch _ vc | .selOffer _ vc | .selOfferPairs _ vc | .selReadReset _ vc
  | .selReset _ vc | .streamctlRenew _ vc | .streamctlStop _ vc | .cfgRead _ vc | .cfgWrite _ vc | .noCopy _ vc
  | .keptShared _ vc | .passedShared _ vc | .passedGone _ vc | .passedKept _ vc | .wbInFlight _ vc | .passedDirty _ vc
  | .lineBack _ vc | .fwdDataToHome _ vc | .compAck _ vc | .agentFence _ vc | .mcastResidual _ vc | .mcastListAck _ vc
  | .engineComp _ vc => vcWf vc
  | .evict _ vc tt | .writeBack _ vc tt => vcWf vc && decide (tt < 16384)
  | .fenceSnoopComplete tt _ | .admitReq tt | .lineActivate tt | .sfAllocRetry tt | .snoopTmo tt _ | .albEntryTake tt
  | .mntWalkIssue tt | .repairStart tt | .repairStep tt | .wayDisableWalk tt => decide (tt < 16384)
  | .xpSlotGrant t | .xpReadTransfer t | .xpReadBeat t .. | .xpReadTmo t => decide (t < 4096)
  | .selMergeDone u => decide (u < 4)
  | .jigHoldExpire n => decide (n < 16)
  | .atomicExecute c | .atomicResult c | .accGroupIssue c | .accGroupWrite c => decide (c < 8)
  | .glpDescLoaded n | .glpDescEnd n | .glpStatusCommit n => decide (n < 32)
  | .chunkReady n => decide (n < 64)
  | .streamChunkSend n ups => decide (n < 64) && upsetsWf 1024 ups
  | .wayDisableStart w => decide (w < 16)
  | .marchRowOp ups => rowUpsWf 0 ups
  | .vpFrameIn ctl data => decide (ctl.length = 8) && decide (data.length = 8)
  | .trainPhaseEnd bad => bad.all (fun w => decide (w < 579))
  | .trainWordRx beats => decide (beats.length = 4)
  | .msiSend n => decide (n < 4)
  | .coveredWordWrite o _ => coveredWf o
  | .compatCounterWrite o _ => offWf o && decide (0x18100 ≤ o ∧ o < 0x18148)
  | .evselWrite o _ => offWf o && (decide (o = 0x180C8) || decide (0x18148 ≤ o ∧ o < 0x18168))
  | .lowWordRead _ o | .w1cWrite o _ | .registerWrite o _ => offWf o
  | .cyclesCounterWrap e => decide (e ≤ 0xA0)
  | .porAssert | .porRelease .. | .warmResetAssert | .warmResetRelease .. | .warmReset _ | .warmResetTakeEffect
  | .startupPowerDone | .zeroFillDone | .startupMarchDone | .release _ | .mpFlitIn .. | .mpInitCredits | .mpFlitOut ..
  | .fenceComplete _ | .selMergeStart | .xpWriteBeat | .jigEntriesGrant | .cohFence _ | .cohUnfence _ | .cohSweep _
  | .cohFenceNop _ | .sweepSet | .setMode .. | .lock .. | .unlock .. | .setModeDrained | .setModeStepDone | .cleanPa _
  | .invPa _ | .clinvPa _ | .cleanSw _ | .invSw _ | .clinvSw _ | .preloadLock _ | .albFlush _ | .albFlushPa _ | .mntComplete
  | .queDefine _ | .queEnable _ | .queDisable _ | .queRead _ | .queCmdDone | .queEvtRead | .selDefine _ | .selUndefine _
  | .selCmdReset _ | .selCmdDone | .glpStart _ | .glpStop _ | .glpClear _ | .initFill _ | .initFillDone | .glpLineIssue
  | .reelDefine _ | .reelStart _ | .reelStop _ | .reelRenew _ | .reelRead _ | .reelRelease _ | .reelGroupWrite _
  | .chunkStart | .clrCounters | .windowBoundary | .tc0CfgWrite _ | .scrubStart _ | .scrubStop _ | .scrubPassEnd | .chkWrite _
  | .chkRead _ | .chkDone | .clrWay _ | .eccErrInj _ | .wayDisableDone | .marchRun | .marchStop | .marchPassEnd | .lrtMap ..
  | .lrtUnmap .. | .lrtCmdDone | .logApply | .logFree .. | .logFreeAll .. | .fltHeadWrite _ | .recover | .gavErrInj _
  | .gavHoldEnd | .gavWaitExpire | .gavSortDone | .gavRepairDone | .gavReplayDone | .gavRelease | .vpRetrain | .vpDisable
  | .vpFrameOut | .vpReplayLimit | .vpClockLoss | .vpAckTmo | .vpMarkerLoss | .trainAttemptTmo | .spRequest .. | .spResponse
  | .msiArmWrite _ | .hmtCsumWrite _ | .hmtCheckDone | .pmuSnap | .pmuModeWrite _ | .smpHeadWrite _ | .smpSeedWrite _
  | .slcCtrlWrite _ | .tpInstruction _ | .tpRegacc _ | .tpMbist _ | .wrapperReset | .extestBoundaryUpdate _ => true

end Sys2Proof
end

