-- ==== Sys2Proof/Tests/Slice0.lean ====
section
/-! SUPPORT. Tests: ill-formed commands are refused, worked examples of the rules come out as the rules say, and for every statement
with hypotheses a state and operands that meet them, clause by clause. -/
namespace Sys2Proof.Tests
open Sys2Proof Sys2Proof.Machine

-- One after another: each test waits for the kernel, and tests that wait side by side take a thread each.
set_option Elab.async false

/-! ### Well-formed commands: one ill-formed term for each check -/

theorem test_wf_vc : (Instr.readShared .mp 10).wf = false ∧ (Instr.readShared .mp 9).wf = true := by decide
theorem test_wf_vc_credit : (Instr.mpOutCredit 10).wf = false := by decide
theorem test_wf_bank : (Instr.pwrAckRise 32).wf = false ∧ (Instr.pwrAckRise 31).wf = true := by decide
theorem test_wf_bank_spare : (Instr.bankGrant 33).wf = false ∧ (Instr.bankGrant 32).wf = true := by decide
theorem test_wf_upsets : (Instr.bankOpComplete 0 [(32, 1)]).wf = false ∧ (Instr.bankOpComplete 33 []).wf = false := by decide
theorem test_wf_evict : (Instr.evict .mp 4 16384).wf = false ∧ (Instr.evict .mp 10 0).wf = false := by decide
theorem test_wf_tt : (Instr.admitReq 16384).wf = false ∧ (Instr.admitReq 16383).wf = true := by decide
theorem test_wf_xp_tag : (Instr.xpSlotGrant 4096).wf = false := by decide
theorem test_wf_merge_unit : (Instr.selMergeDone 4).wf = false := by decide
theorem test_wf_jig : (Instr.jigHoldExpire 16).wf = false := by decide
theorem test_wf_cell : (Instr.atomicExecute 8).wf = false := by decide
theorem test_wf_chan : (Instr.glpDescEnd 32).wf = false := by decide
theorem test_wf_ctx : (Instr.chunkReady 64).wf = false := by decide
theorem test_wf_chunk_upset : (Instr.streamChunkSend 0 [(1024, 1)]).wf = false ∧ (Instr.streamChunkSend 64 []).wf = false := by decide
theorem test_wf_way : (Instr.wayDisableStart 16).wf = false := by decide
theorem test_wf_column : (Instr.marchRowOp [(0, 624)]).wf = false ∧ (Instr.marchRowOp [(33, 0)]).wf = false ∧
  (Instr.marchRowOp [(1, 0), (1, 5)]).wf = false := by decide
theorem test_wf_slots : (Instr.vpFrameIn (List.replicate 8 0) (List.replicate 9 0)).wf = false ∧
  (Instr.vpFrameIn [] (List.replicate 8 0)).wf = false := by decide
theorem test_wf_wire : (Instr.trainPhaseEnd [579]).wf = false := by decide
theorem test_wf_copy : (Instr.trainWordRx (List.replicate 5 0)).wf = false := by decide
theorem test_wf_irq : (Instr.msiSend 4).wf = false := by decide
theorem test_wf_covered : (Instr.coveredWordWrite 0x6048 0).wf = false ∧ (Instr.coveredWordWrite 0x604C 0).wf = true := by decide
theorem test_wf_compat : (Instr.compatCounterWrite 0x180FC 0).wf = false := by decide
theorem test_wf_evsel : (Instr.evselWrite 0x180C4 0).wf = false ∧ (Instr.evselWrite 0x180C8 0).wf = true := by decide
theorem test_wf_offset : (Instr.registerWrite 2 0).wf = false ∧ (Instr.registerWrite 0x40000 0).wf = false := by decide
theorem test_wf_event : (Instr.cyclesCounterWrap 0xA1).wf = false := by decide

/-! ### States for the witnesses -/

/-- A slice out of reset and in READY, at count 2,000,000. -/
def tHw : Hw := { Hw.init with cyc := 2000000, rst := { Rst.init with boot := .ready, once := true } }

/-- A state with this hardware and no software-written register changed. -/
def tS (h : Hw) : State := { cfg := [], hw := h, pending := [] }

/-- A state with these software-written registers. -/
def tC (c : Cells Word) (h : Hw) : State := { cfg := c, hw := h, pending := [] }

/-- The start-up step. -/
def tBoot (b : Boot) (h : Hw) : Hw := { h with rst := { h.rst with boot := b } }

/-- A register of the slice's own file. -/
def tRo (o : Nat) (v : Word) (h : Hw) : Hw := { h with ro := cPut 0 h.ro o v }

/-- BUSY of a page. -/
def tBusy (p : Nat) (h : Hw) : Hw := tRo (0x1000 * p + 0x20) 0x80000000 h

/-- Software-written registers of a package whose line 0 is homed here: HMT entry 0. -/
def tCfg : Cells Word := [(0x28000, 0x80000000)]

/-- The checksum gate is open. -/
def tGate (h : Hw) : Hw := tRo 0x6044 1 h

/-- The header as it is read back: with the poison marks of its payload. -/
def tHdr (x : Hdr) (pay : List PWord) : Hdr := { x with pmask := pmaskOf pay }

/-- A complete message in an ingress buffer. -/
def tMsg (p : Port) (vc : Nat) (x : Hdr) (pay : List PWord) (h : Hw) : Hw :=
  let fs := (msgFlits { hdr := x, pay := pay }).zipIdx.map (fun f => ({ hdr := decide (f.2 = 0), bits := f.1, at_ := now h } : Flit))
  { h with ports := { h.ports with ing := cPut [] h.ports.ing (portKey p vc) fs } }

/-- An entry of the transaction table. -/
def tEnt (i : Nat) (e : Ent) (h : Hw) : Hw := { h with core := { h.core with tt := cIns h.core.tt i e } }

/-- A request with this kind and lines. -/
def tReq (k : Kind) (l : List LineKey) : Req :=
  { iseq := 5, kind := k, port := some .mp, hdr := { type := 1 }, lines := l, label := 0, group := 0, tc := 2 }

/-- An active entry that does this next. -/
def tAct (k : Kind) (l : List LineKey) (todo : List Act) : Ent := { req := tReq k l, pool := .gen, arr := 3, active := true, todo := todo, busy := true }

/-- Power of a bank. -/
def tPwr (b : Nat) (p : Pwr) (h : Hw) : Hw := setPwr b p h

/-- A bank that is on. -/
def tOn : Pwr := { Pwr.start with st := .on, req := false, ack := false }

/-- Gavotte's own state. -/
def tGav (g : Gav) (h : Hw) : Hw := { h with diag := { h.diag with gav := g } }

/-- Modes of the ways. -/
def tMode (w m : Nat) (h : Hw) : Hw := { h with home := { h.home with mode := cPut 0 h.home.mode w m } }

/-- Every bank is on. -/
def tAllOn (h : Hw) : Hw := { h with arr := { h.arr with pwr := (List.range 32).map (fun b => (b, tOn)) } }

/-- A destroying march over bank 0. -/
def tMarch : March :=
  { destroy := true, banks := 1, spare := false, boot := false, bank := 0, row := 0, op := 0, saved := false, wait := false, failed := false, failCol := 0
    rows := [], stop := false, endAt := 0, pend := false }

/-- A bank operation of entry `i` on row 7 of a bank: sector 1 of a line. -/
def tOp (b i : Nat) (write : Bool) : BankOp :=
  { own := .tt i, who := { iseq := 5, label := 0, group := 0, tc := 2, low := false, charge := true }, master := none, line := .pa 0, way := b / 2
    set := 0, bank := b, rows := [(1, 7)], done := [], write := write, data := [], li := 0, raw := false, lin := false }

/-- A bank with this scheduler. -/
def tBank (b : Nat) (k : Bank) (h : Hw) : Hw := { h with arr := { h.arr with banks := [(b, k)] } }

/-- A line of the ALB whose words are all 3. -/
def tAlb (k : LineKey) (f : Fmt) : AlbEnt :=
  { line := k, fmt := f, data := List.replicate 32 ⟨3, false⟩, upd := none, stamp := 1, wb := false, started := false, who := (tOp 0 0 false).who }

/-- A line in ALB entry `n`. -/
def tInAlb (n : Nat) (a : AlbEnt) (h : Hw) : Hw := { h with near := { h.near with alb := [(n, a)] } }

/-- The Vertical Port in this state. -/
def tVp (v : Vp) (h : Hw) : Hw := { h with vp := v }

/-- A transaction whose operation of cell 7 is due, and its line in the ALB. -/
def tDue (e : Ent) (g : Option (Nat × Nat × Nat)) (f : Fmt) : Hw :=
  tInAlb 47 (tAlb (lineOf e 0) f) (tEnt 16383 e
    { tHw with near := { tHw.near with fly := [(7, [{ tt := 16383, iseq := 5, grp := g, at_ := 500000 }, { tt := 16383, iseq := 5, grp := some (0, 0, 0), at_ := 900000 }])] } })

/-! ### The worked examples of the rules' text -/

/-- Data protection, after R273: the word 0 has check bits 0, the word 0x80000001 has 0x65. -/
theorem test_ecc_check : eccCheck 0 = 0 ∧ eccCheck 0x80000001 = 0x65 := by decide
/-- Data protection, after R300, "four injections": what a read of each injected code word gives, and the marked word. -/
theorem test_ecc_injections :
    eccDec (codeOf 0x20 0) = (.corr, ⟨0, false⟩) ∧ eccDec (codeOf 0 0x10) = (.corr, ⟨0, false⟩) ∧
      eccDec (codeOf 3 0) = (.unc, ⟨3, true⟩) ∧ syndrome (codeOf 3 0) = 0x0C ∧ eccMark 3 = codeOf 3 0x73 ∧
      eccDec (codeOf 0 0x7F) = (.mark, ⟨0, true⟩) := by decide
/-- Storage, after R51, "tree walk for set 0x0ABC": the victim is way 6, and the bits after a fill without and with the streaming hint. -/
theorem test_victim_walk : victimOf 0x0020 0xEDF0 0xFFFF = some 6 ∧ plruTouch 0x0020 6 true = 0x0802 ∧ plruTouch 0x0020 6 false = 0x0024 := by
  decide +kernel
/-- Storage, after R54, "decode of 0x4_0000_4AA9_1AA4": way 5, set 0x1235, bank 11, row 0x1234; the same line through the set alias. -/
theorem test_pinned_decode :
    let c : Cells Word := [(0x6060, 0x80020000), (0x6064, 0x80020001)]
    let h := { tMode 5 1 tHw with rst := { tHw.rst with id := 37 } }
    decodePa c h 0x400004AA91AA4 = .pin 0 5 0x1235 ∧ decodePa c h 0x400024AA91AA4 = .pin 1 5 0x1235 ∧
      place h 5 0x1235 0 = (11, 0x1234) := by decide +kernel
/-- Discovery, after R447, "home decode": the entries of the three addresses. -/
theorem test_home_decode :
    let c : Cells Word := [(0x604C, 11), (0x6100, 0x88000003), (0x6104, 0x00020000), (0x6108, 30), (0x28084, 0x80000025), (0x2A014, 0x80000035)
                           , (0x2A018, 0x80000036)]
    hmtIndex c 0x80001010 = 0x021 ∧ homeOf c 0x80001010 = some 37 ∧ hmtIndex c 0x2000004A80 = 0x805 ∧ homeOf c 0x2000004A80 = some 53 ∧
      hmtIndex c 0x2000004B00 = 0x806 ∧ homeOf c 0x2000004B00 = some 54 := by decide +kernel
/-- Mesh, after R380, "header fields of the request": the Atomic request of the counter example is well formed in REQ low, and the home of
its address reads it as an atomic on that line. -/
theorem test_header_example :
    let x : Hdr := { type := 0x06, dkind := 2, dst := 0x0025, src := 0x1101, rtag := 0x0042, label := 0x210, addr := 0x80001010, arg0 := 1, arg2 := 0x40 }
    let f := hdrEnc x
    wellFormed 1 x = true ∧ wellFormed 9 x = false ∧ hdrDec f = x ∧ f.extractLsb' 0 16 = 0xC006#16 ∧ f.extractLsb' 93 12 = 0x210#12 := by
  decide +kernel
/-- Accumulation, after R185, "four small gradients into one element": four Tango additions of 2^-24 to 1.0, the plain sum beside them,
and what TANGO_READ returns. -/
theorem test_tango_example :
    let one := fun (p : PWord × PWord) => let r := laneTango p.1 p.2 (⟨0x33800000, false, false⟩, false); (r.s, r.c)
    let z : PWord × PWord := (⟨0x3F800000, false⟩, ⟨0, false⟩)
    one z = (⟨0x3F800000, false⟩, ⟨0x33800000, false⟩) ∧ one (one z) = (⟨0x3F800000, false⟩, ⟨0x34000000, false⟩) ∧
      one (one (one z)) = (⟨0x3F800000, false⟩, ⟨0x34400000, false⟩) ∧ one (one (one (one z))) = (⟨0x3F800000, false⟩, ⟨0x34800000, false⟩) ∧
      (laneF32 z.1 (⟨0x33800000, false, false⟩, false)).s = ⟨0x3F800000, false⟩ ∧ (fpAdd fp32 0x3F800000 0x34800000).bits = 0x3F800002 := by
  decide +kernel
/-- Accumulation, after R190, "attempts for block 0 of an MXINT8 record": two attempts go out of range, the third gives the block. -/
theorem test_mx_example :
    let old := [0x60, 0x03, 0x01, 0x78]
    let inp := [mxNum (widen 1 0x3FA0 0), .fin false 0 0, .fin false 0 0, mxNum (widen 1 0x40C0 0)]
    (mxTry false 127 127 old inp).ovf = true ∧ (mxTry false 127 128 old inp).ovf = true ∧ (mxTry false 127 129 old inp).ovf = false ∧
      (mxTry false 127 129 old inp).bytes.take 5 = [0x2C, 0x01, 0x00, 0x7E, 0] := by decide +kernel
/-- Selection, after R210, "record 0x9421 after each offer". -/
theorem test_selection_example :
    let r : Rec := { way := 6, set := 0x300, log2k := 2, vtype := 0, smallest := false, valid := true }
    let offer := fun (pos : Nat) (vs : List Word) => (vs.zipIdx).map (fun p => (⟨p.1, BitVec.ofNat 32 (pos + p.2), false⟩ : Cand))
    let go := fun (m : Merge) (cs : List Cand) => cs.foldl (mergeOne r) m
    let m1 := go { ents := [], offers := 0, nan := false, ins := 0 } (offer 0 [0x3F000000, 0x3F400000, 0x3E800000, 0x3F400000])
    let m2 := go m1 (offer 4 [0x3F600000, 0x3E000000, 0x3F400000, 0x3EC00000])
    let m3 := go m2 [⟨0x3F400000, 40, false⟩, ⟨0x3FA00000, 41, false⟩]
    m1.ents = [(0x3F400000, 1), (0x3F400000, 3), (0x3F000000, 0), (0x3E800000, 2)] ∧ m1.offers = 4 ∧
      m2.ents = [(0x3F600000, 4), (0x3F400000, 1), (0x3F400000, 3), (0x3F400000, 6)] ∧ m2.offers = 8 ∧
      m3.ents = [(0x3FA00000, 41), (0x3F600000, 4), (0x3F400000, 1), (0x3F400000, 3)] ∧ m3.offers = 10 := by decide +kernel
/-- Queues, after R162, "queue 0x9_5403": way, set, half line, and the places of the ring's elements. -/
theorem test_queue_place : queWay 0x1403 = 5 ∧ queSet 0x1403 = 1 ∧ place tHw 5 1 1 = (11, 1) ∧ esize 2 = some 16 := by decide
/-- Start-up, after R423: with no straps the fill of 16,384 CLK_M cycles ends in READY, whose STEP follows at once. -/
theorem test_fill_ends : ∃ t, exec .zeroFillDone (tS { tHw with rst := { Rst.init with boot := .fill, bootCyc := 1967232 } }) = .next t ∧
    t.hw.rst.boot = .ready := ⟨_, rfl, by decide +kernel⟩
/-- R145 and the counter example: an ADD of 1 with FETCH to a word of the ALB; its old value is kept and the new one is in the line. -/
theorem test_atomic_add :
    let e := { tAct .atomic [.loc 15 0] [.cell, .commit] with
      req := { tReq .atomic [.loc 15 0] with hdr := { type := 6, addr := 16, arg0 := 1, arg2 := 0x40 } } }
    ∃ t, exec (.atomicResult 7) (tS (tDue e none .plain)) = .next t ∧ (cFind t.hw.near.alb 47).map (fun a => albWord a 4) = some ⟨4, false⟩ :=
  ⟨_, rfl, by decide +kernel⟩

/-! ### Witnesses: the machine, messages, resets and start-up -/

theorem witness_StepTakesTheFrontCommand : ({ State.reset with pending := [.porAssert] } : State).pending = .porAssert :: [] := by decide
theorem witness_EmptyQueueIsOneCycle :
    let s := tS tHw
    let p := tS { tHw with rst := { Rst.init with mode := .por } }
    let w := tS { tHw with rst := { Rst.init with mode := .warm } }
    let v := tS { tHw with rst := { Rst.init with mode := .warmPor } }
    (s.pending = [] ∧ s.hw.rst.mode = .run) ∧ (p.pending = [] ∧ p.hw.rst.mode = .por) ∧ (w.pending = [] ∧ w.hw.rst.mode = .warm) ∧
      v.pending = [] ∧ v.hw.rst.mode = .warmPor := by decide
theorem witness_EveryCommandCompletes : answersSnoop .porAssert = false ∧ answersSnoop (.noCopy .mp 8) = true := by decide
theorem witness_EveryCommandCompletes_next : ∃ t, exec .porAssert State.reset = .next t := ⟨_, rfl⟩
theorem witness_SoftwareRegistersStayWellFormed : cfgWf (tC tCfg tHw).cfg = true ∧ ∃ t, step (tC tCfg tHw) = .next t := ⟨by decide, _, rfl⟩
theorem witness_StoredWordsStayCanonical :
    Memory.wf (tS tHw).hw.arr.words = true ∧ Memory.wf (tS tHw).hw.reel.sbuf = true ∧ cWf 0 (tRo 0x20 5 tHw).ro = true ∧
      ∃ t, step (tS (tRo 0x20 5 tHw)) = .next t := ⟨by decide, by decide, by decide, _, rfl⟩
theorem witness_LockHoldsUntilAReset : locked (tC [(0x58, 1)] tHw).cfg = true ∧ ∃ t, step (tC [(0x58, 1)] tHw) = .next t ∧ t.hw.rst.mode = .run :=
  ⟨by decide, _, rfl, by decide +kernel⟩
theorem witness_HeaderFlitHasTheLayout : ({ type := 6, dkind := 3 } : Hdr).dkind = 3 ∧ ({ type := 6 } : Hdr).dkind ≠ 3 := by decide
theorem witness_HeaderReadsBackAsSent :
    let x : Hdr := { type := 0x2A, dkind := 3, mtag := 0xFFF, bmask := 0xFFFFFFFFFFFFFFFF }
    let y : Hdr := { type := 0x19, bmask := BitVec.allOnes 128 }
    (x.dkind = 3 ∧ x.bmask.extractLsb' 64 64 = 0) ∧ y.dkind ≠ 3 ∧ y.mtag = 0 := by decide
theorem witness_ResetsClearAndKeep :
    let c := { tHw with rst := { tHw.rst with cmd := some 1999744 } }
    let l := { tHw with rst := { tHw.rst with cmd := some 1999999, cmdLeft := some 1999999 } }
    tHw.rst.mode = .run ∧ tHw.rst.once = true ∧ Hw.init.rst.once = false ∧
      ({ Rst.init with mode := .por } : Rst).mode = .por ∧
      (c.rst.mode = .run ∧ c.rst.cmd = some 1999744 ∧ 1999744 / 4 + 64 ≤ clkC c) ∧
      l.rst.mode = .run ∧ l.rst.cmd = some 1999999 ∧ l.rst.cmdLeft = some 1999999 ∧ 1999999 / 4 < clkC l := by decide
theorem witness_ReleaseStartsTheSlice :
    let p := { Hw.init with rst := { Rst.init with mode := .por } }
    let w := { tHw with rst := { Rst.init with mode := .warm } }
    let v := { tHw with rst := { Rst.init with mode := .warmPor } }
    (p.rst.mode = .por ∧ p.rst.warmLow = false) ∧ (w.rst.mode = .warm ∧ now w + 100 < 2 ^ 64 ∧ w.rst.own = none) ∧ v.rst.mode = .warmPor ∧
      bit (cfgGet [(0x3044, 0x10)] 0x3044) 4 = true ∧ bit (cfgGet [(0x3044, 0)] 0x3044) 4 = false ∧
      (let f := tRo 0x16060 (1 <<< 31) w
       bit (roGet f 0x16060) 31 = true ∧ bit (roGet f 0x16060) 0 = false ∧ (pwr f 0).ack = false) ∧
      (let a := tPwr 31 { Pwr.start with ack := true } w
       bit (roGet a 0x16060) 31 = false ∧ (pwr a 31).ack = true) := by decide
theorem witness_StartUpRunsItsSteps :
    let p := tAllOn (tBoot .power tHw)
    let d := tPwr 31 { Pwr.start with dead := true } p
    let m := tAllOn { tHw with rst := { Rst.init with boot := .power, march := true } }
    let f := fun (n : Nat) => { tHw with rst := { Rst.init with boot := .fill, bootCyc := n } }
    let w := { f 1967232 with prot := { tHw.prot with disWait := [(15, 400000)] } }
    let x : March := { tMarch with boot := true, endAt := 1000000 }
    let e := { tBoot .march tHw with prot := { tHw.prot with march := some x } }
    let q := { tHw with rst := { Rst.init with boot := .power } }
    (running p = true ∧ p.rst.boot = .power ∧ p.rst.march = false ∧ (∀ b, b < 32 → (pwr p b).dead = true ∨ (pwr p b).st = .on)) ∧
      ((∀ b, b < 32 → (pwr d b).dead = true ∨ (pwr d b).st = .on) ∧ (pwr d (2 * 15 + 1)).dead = true ∧ wayMode d 15 = 0) ∧
      (running m = true ∧ m.rst.boot = .power ∧ m.rst.march = true ∧ (∀ b, b < 32 → (pwr m b).dead = true ∨ (pwr m b).st = .on)) ∧
      (running (f 1967232) = true ∧ (f 1967232).rst.boot = .fill ∧ (f 1967232).rst.bootCyc / 2 + 16384 ≤ clkM (f 1967232) ∧
        (f 1967232).prot.dis = none ∧ (f 1967232).prot.disWait = []) ∧
      (w.rst.boot = .fill ∧ ¬ (w.prot.dis = none ∧ w.prot.disWait = [])) ∧
      (running e = true ∧ e.prot.march = some x ∧ x.boot = true ∧ x.endAt ≤ clkM e) ∧
      ((tBoot .march tHw).prot.march = none ∧ (tBoot .march tHw).rst.boot = .march) ∧
      (running q = true ∧ q.rst.boot = .power ∧ (pwr q 31).dead = false ∧ (pwr q 31).st ≠ .on) ∧
      (clkM (f 1967234) < (f 1967234).rst.bootCyc / 2 + 16384) ∧ tHw.prot.march = none ∧ tHw.rst.boot ≠ .march ∧ tHw.rst.boot ≠ .fill := by decide
theorem witness_PowerTimeoutsAct :
    let p := { tHw with rst := { Rst.init with boot := .power, bootCyc := 1999744 } }
    let q := tPwr 31 { Pwr.start with st := .on, req := true, since := 1999744, tmo := false } tHw
    let o := tMode 15 1 p
    let g := fun (k : GavStep) => tGav { Gav.init with step := k } q
    let c : Cells Word := [(0x7058, 64)]
    (running p = true ∧ p.rst.boot = .power ∧ (pwr p 31).dead = false ∧ (pwr p 31).st ≠ .on ∧ (pwr p 31).onAt = none ∧
      p.rst.bootCyc / 4 + cf c 7 0x58 15 0 ≤ clkC p ∧ (bank p 31).pend = [] ∧ p.diag.rq = [] ∧ wayMode p (31 / 2) = 0 ∧
      p.home.locked = [] ∧ p.prot.disWait = [] ∧ p.prot.dis = none) ∧
    (wayMode o (31 / 2) ≠ 0) ∧
    (running q = true ∧ (pwr q 31).req = true ∧ (pwr q 31).dead = false ∧ (pwr q 31).tmo = false ∧ q.rst.boot ≠ .power ∧
      (pwr q 31).since / 4 + cf c 7 0x58 15 0 ≤ clkC q ∧ q.diag.gav.step = .idle ∧ q.diag.gav.failed = false ∧ q.diag.rq = []) ∧
    ((pwr (g .hold) 31).req = true ∧ (g .hold).diag.gav.step = .hold ∧ (g .sort).diag.gav.step = .sort ∧ (g .release).diag.gav.step = .release) ∧
    (tHw.rst.boot ≠ .power ∧ (pwr (tPwr 31 tOn tHw) 31).req = false) := by decide
theorem witness_SlcCommandsAct :
    let s := tBoot .hold tHw
    let f := { s with glp := { s.glp with fill := some { next := 0, total := 2, pattern := 0, boot := false } } }
    let w := { tHw with rst := { tHw.rst with cmd := some 1 } }
    (running s = true ∧ s.rst.boot = .hold ∧ s.glp.fill = none ∧ cf [(0xE068, 1)] 14 0x68 27 0 ≠ 0 ∧ cf [] 14 0x68 27 0 = 0) ∧
      (running f = true ∧ f.rst.boot = .hold ∧ f.glp.fill.isSome = true) ∧ (running tHw = true ∧ tHw.rst.boot ≠ .hold) ∧
      tHw.rst.cmd = none ∧ running w = true ∧ w.rst.cmd ≠ none := by decide
theorem witness_BankPowerHandshake :
    let q := fun (p : Pwr) => tPwr 31 p tHw
    let a := q { tOn with req := true, want := .on }
    let o := q { tOn with req := true, want := .off }
    let r := q { tOn with req := true, want := .ret }
    let n := q { tOn with ack := true, next := some .on }
    let u := q { tOn with ack := true, req := true, next := some .on }
    let l := q { tOn with ack := true }
    let d := q { tOn with onAt := some 1999992 }
    let x := q { tOn with dead := true, ack := true }
    let i := tPwr 31 { tOn with last := 1999872 } tHw
    let c : Cells Word := [(0x7050, 0x80000000), (0x7054, 0x80000000)]
    (running x = true ∧ (pwr x 31).dead = true ∧ (pwr x 31).ack = true) ∧
      (running a = true ∧ (pwr a 31).dead = false ∧ (pwr a 31).req = true ∧ (pwr a 31).want = .on) ∧
      ((pwr o 31).dead = false ∧ (pwr o 31).req = true ∧ (pwr o 31).want = .off) ∧
      ((pwr r 31).dead = false ∧ (pwr r 31).req = true ∧ (pwr r 31).want = .ret) ∧
      ((pwr n 31).dead = false ∧ (pwr n 31).ack = true ∧ (pwr n 31).req = false ∧ (pwr n 31).next = some .on) ∧
      ((pwr u 31).dead = false ∧ (pwr u 31).ack = true ∧ (pwr u 31).req = true ∧ (pwr u 31).next = some .on) ∧
      ((pwr l 31).dead = false ∧ (pwr l 31).ack = true ∧ (pwr l 31).next = none) ∧
      running { tHw with rst := { Rst.init with mode := .warm } } = false ∧
      ((pwr d 31).dead = false ∧ (pwr d 31).onAt = some 1999992 ∧ 1999992 / 2 + 4 ≤ clkM d) ∧
      (running i = true ∧ cf c 7 0x50 31 31 = 1 ∧ bit (cfgGet c 0x7054) 31 = true ∧ wayMode i (31 / 2) ≠ 3 ∧
        setting i (31 / 2) = none ∧ marchDestroys i 31 = false ∧ bank i 31 = Bank.idle ∧ (pwr i 31).st = .on ∧ (pwr i 31).req = false ∧
        (pwr i 31).ack = false ∧ (pwr i 31).dead = false ∧ (pwr i 31).last / 2 + max 64 (cf c 7 0x50 11 0) ≤ clkM i) ∧
      (running (q tOn) = true ∧ (pwr (q tOn) 31).ack = false ∧ (pwr (q tOn) 31).onAt = none ∧ cf [] 7 0x50 31 31 = 0) := by decide

/-! ### Witnesses: messages, requests, coherence -/

theorem witness_MeshPortTakesFlitsAndCredits :
    let f : Flit := { hdr := true, bits := hdrEnc { type := 0x29, dfl := 2, addr := 128 }, at_ := 0 }
    let p := { tHw with ports := { tHw.ports with xin := [(9, [f, f, f])] } }
    let q := { tHw with ports := { tHw.ports with xin := [(9, [f, f, f, f])] } }
    let o := { tHw with ports := { tHw.ports with ing := [(9, [f])], cut := [8] } }
    let n := { Hw.init with cyc := 8 }
    let c := { tHw with ports := { tHw.ports with crdIn := [(9, 1999999)] } }
    (running p = true ∧ (cGet [] p.ports.xin 9).length < 4) ∧ (9#4).toNat < 10 ∧ 10 ≤ (10#4).toNat ∧
      (running q = true ∧ 4 ≤ (cGet [] q.ports.xin 9).length ∧ q.diag.gav.step = .idle ∧ q.diag.gav.failed = false ∧ q.diag.rq.length < 30) ∧
      (openFlits (cGet [] o.ports.ing 9 ++ cGet [] o.ports.xin 9) = [f] ∧ (loseNamed [] o (hdrDec f.bits)).isSome = true ∧ ¬ 9 ∈ o.ports.cut ∧
        8 ∈ o.ports.cut) ∧
      openFlits (cGet [] tHw.ports.ing 9 ++ cGet [] tHw.ports.xin 9) = [] ∧
      ((tGav { Gav.init with step := .hold } tHw).diag.gav.step = .hold ∧ (tGav { Gav.init with step := .sort } tHw).diag.gav.step = .sort) ∧
      (running n = true ∧ n.ports.initDone = false ∧ n.rst.relCyc + 8 ≤ now n) ∧
      now { Hw.init with cyc := 7 } < { Hw.init with cyc := 7 }.rst.relCyc + 8 ∧
      (tS c).pending = [] ∧ now c + 1 < 2 ^ 64 ∧ 1999999 + 2 ≤ now c + 1 := by decide +kernel
theorem witness_MeshPortSendsTheFlitPicked :
    let m : OutMsg := { hdr := { type := 0x38, dfl := 2 }, pay := List.replicate 32 PWord.zero }
    let l : OutMsg := { hdr := { type := 0x36 }, note := .req 4 }
    let k : OutMsg := { hdr := { type := 0x2C, dkind := 3, dfl := 2 }, pay := List.replicate 32 PWord.zero, note := .chunk 63 0 31 }
    let h := fun (vc : Nat) (m : OutMsg) => { tHw with ports := { tHw.ports with eg := [(vc, [m])], crd := [(vc, 1)] } }
    let x : Leaving := { vc := 9, flit := { hdr := true, bits := 0, at_ := 0 }, msg := l, cyc := 1999999 }
    let o := { tHw with ports := { tHw.ports with xout := [x] } }
    (running (h 9 m) = true ∧ (h 9 m).ports.outCyc ≠ now (h 9 m) + 1 ∧ pickVc [] (h 9 m) .mp true = some (9, m) ∧
      (cFind (h 9 m).ports.mtags 0).isNone = true ∧ 9 % 2 = 1 ∧ outLost (h 9 m) 9 none = none ∧ outLost (h 9 m) 9 (some true) = some 1 ∧
      (h 9 m).diag.rq.length < 30 ∧ (h 9 m).diag.gav.failed = false ∧ (h 9 m).diag.gav.step = .idle ∧ m.note = .none) ∧
    pickVc [] (h 6 l) .mp true = some (6, l) ∧
    (pickVc [] (h 8 k) .mp true = some (8, k) ∧ k.note = .chunk 63 0 31 ∧ k.hdr.dkind = 3 ∧ k.sent = 0) ∧
    (running tHw = true ∧ pickVc [] tHw .mp true = none) ∧
    (running o = true ∧ (tS o).pending = [] ∧ now o + 1 < 2 ^ 64 ∧ o.ports.xout = [x] ∧ x.cyc + 2 ≤ now o + 1 ∧ l.note = .req 4 ∧ l.sent = 0) ∧
    tHw.ports.xout = [] := by decide +kernel
theorem witness_VcResetRunsItsSteps :
    let a := { tHw with ports := { tHw.ports with vcrst := [(9, none)] } }
    let b := fun (n : Nat) => { tHw with ports := { tHw.ports with vcrst := [(9, some n)] } }
    (running a = true ∧ cFind a.ports.vcrst 9 = some none) ∧ (running (b 1999992) = true ∧ cFind (b 1999992).ports.vcrst 9 = some (some 1999992) ∧
      1999992 + 8 ≤ now (b 1999992)) ∧ (cFind (b 1999993).ports.vcrst 9 = some (some 1999993) ∧ now (b 1999993) < 1999993 + 8) ∧
      cFind tHw.ports.vcrst 9 ≠ some none := by decide
theorem witness_WrongMessagesAreAnsweredOrDiscarded :
    let x : Hdr := { type := 0x3F, rtag := 7 }
    let z : Hdr := { type := 0x36, rtag := 7 }
    let a := tMsg .mp 1 x [] tHw
    let d := tMsg .mp 1 z [] tHw
    let b := tMsg .vp 6 z [] (tBoot .hold tHw)
    let c := tMsg .vp 6 z [] tHw
    (running a = true ∧ headMsg a .mp 1 = some (x, [], 2000000) ∧ wellFormed 1 x = false ∧ 1 / 2 = 0 ∧ typeClass x.type.toNat = none) ∧
    (running d = true ∧ headMsg d .mp 1 = some (z, [], 2000000) ∧ wellFormed 1 z = false ∧ typeClass z.type.toNat = some 3) ∧
    (headMsg b .vp 6 = some (z, [], 2000000) ∧ wellFormed 6 z = true ∧ 6 / 2 ≠ 0 ∧ b.rst.boot ≠ .ready) ∧
    (running c = true ∧ headMsg c .vp 6 = some (z, [], 2000000) ∧ wellFormed 6 z = true ∧ c.rst.boot = .ready ∧
      isStale [] c z [] = true) := by decide +kernel

/-- What is before intake for a request with this header in a REQ VC of MP: the premises common to the statements of intake. -/
def tIntake (h : Hw) (x : Hdr) (i : Instr) : Bool :=
  running h && (headMsg h .mp 1).any (fun m => m.1 == x) && wellFormed 1 x && decide (reqCmd .mp 1 x = some i) && mayIntake h .mp &&
    (cFind h.core.dec (portKey .mp 1)).isNone

theorem witness_IntakeTakesARequest :
    let x : Hdr := { type := 3, rtag := 7 }
    let y : Hdr := { type := 1, rtag := 7 }
    let a := tMsg .mp 1 x [] (tGate tHw)
    let b := tMsg .mp 1 y [] (tGate tHw)
    let r : Req := { tReq .readNoSnoop [.pa 0] with sect := .lo }
    let v := tMsg .vp 1 x [] (tMsg .mp 1 x [] tHw)
    let u := { a with core := { a.core with dec := [(9, { r with iseq := 0 })], nextSeq := 1 } }
    let w := { a with core := { a.core with dec := [(1, r)] } }
    let f := { a with core := { a.core with adm := List.replicate 256 { r with sect := .hi } ++ List.replicate 512 r } }
    let g := { a with core := { a.core with inMp := some (now a) } }
    (tIntake a x (.readNoSnoop .mp 1) = true ∧ (decodeReq tCfg (hintOf x) a).2.2 = .go .readNoSnoop [.pa 0] 0 ∧ sectRoom a .hi = true ∧
      sectRoom a .lo = true ∧ a.core.dec = []) ∧
    (tIntake b y (.readShared .mp 1) = true ∧ (decodeReq tCfg (hintOf y) b).2.2 = .code 5 0) ∧
    (tIntake u x (.readNoSnoop .mp 1) = true ∧ (classOf tCfg u 1 (hintOf x) 0).elig = false ∧
      u.core.dec = [(9, { r with iseq := 0 })] ∧ isEvt r.kind = false ∧ r.sect = .lo) ∧
    (tIntake f x (.readNoSnoop .mp 1) = true ∧ sectRoom f .lo = false ∧ sectRoom f .hi = false) ∧
    (cFind w.core.dec (portKey .mp 1) = some r ∧ sectRoom w r.sect = true ∧ decBefore w r = false) ∧
    (inDone g .mp = true ∧ mayIntake g .mp = false ∧ cFind g.core.dec (portKey .mp 1) = none) ∧
    (inDone v .mp = false ∧ inDone v .vp = false ∧ inHas v .mp = true ∧ inHas v .vp = true) := by decide +kernel

/-- Context 63 in this state. -/
def tCtx (t : CtxSt) (h : Hw) : Hw := { h with reel := { h.reel with ctx := [(63, { Ctx.none_ with st := t, chunks := [{
  k := 0, slot := 0, missing := [31], ready := false, unread := [], next := 0, owed := [], flying := [] }] })] } }

theorem witness_RequestsWithoutATransaction :
    let cr : Hdr := { type := 0x11, addr := 0xFFFFFFC03FFFC#52 }
    let cw : Hdr := { type := 0x12, addr := 0xFFFFFFC03FFFC#52 }
    let fe : Hdr := { type := 7, addr := 0xFFFFFFC000000#52 }
    let re : Hdr := { type := 0x10, addr := 63, arg2 := 1, arg0 := 4096 }
    let st : Hdr := { type := 0x10, addr := 63, arg2 := 2 }
    let a := fun (x : Hdr) => tMsg .mp 1 x [] tHw
    let b := fun (t : CtxSt) (x : Hdr) => tMsg .mp 1 x [] (tCtx t tHw)
    let e := { a st with reel := { tHw.reel with ctx := [(63, { Ctx.none_ with st := .running, words := [0, 0, 1, 0, 1, 0x20000] })] } }
    let full := { a cr with path := { tHw.path with queue := List.replicate 16 { carrier := .sp, write := false, off := 0, data := 0, at_ := 0 } } }
    let r : Req := { tReq .fence [] with iseq := 0 }
    let ff := { a fe with core := { tHw.core with fences := List.replicate 64 { iseq := 0, hdr := fe, port := .mp, tc := 2 } } }
    (tIntake (a cr) cr (.cfgRead .mp 1) = true ∧ (decodeReq [] (hintOf cr) (a cr)).2.2 = .go .cfgRead [] 0x3FFFC ∧
      (a cr).path.queue.length + (a cr).path.mesh.length < 16 ∧ decoded (a cr) = []) ∧
    (tIntake (a cw) cw (.cfgWrite .mp 1) = true ∧ (decodeReq [] (hintOf cw) (a cw)).2.2 = .go .cfgWrite [] 0x3FFFC) ∧
    (tIntake full cr (.cfgRead .mp 1) = true ∧ (decodeReq [] (hintOf cr) full).2.2 = .go .cfgRead [] 0x3FFFC ∧
      16 ≤ full.path.queue.length + full.path.mesh.length ∧ sectRoom full .lo = true ∧ full.core.dec = []) ∧
    (tIntake (a fe) fe (.fence .mp 1) = true ∧ (decodeReq [] (hintOf fe) (a fe)).2.2 = .go .fence [] 0 ∧ (a fe).core.fences.length < 64) ∧
    (tIntake ff fe (.fence .mp 1) = true ∧ (decodeReq [] (hintOf fe) ff).2.2 = .go .fence [] 0 ∧ 64 ≤ ff.core.fences.length ∧
      sectRoom ff .lo = true ∧ r.kind = .fence) ∧
    (tIntake (b .expired re) re (.streamctlRenew .mp 1) = true ∧ (decodeReq [] (hintOf re) (b .expired re)).2.2 = .go .streamCtl [] 63 ∧
      fld re.arg2 1 0 = 1 ∧ (ctxAt (b .expired re) 63).st = .expired) ∧
    (tIntake (b .running st) st (.streamctlStop .mp 1) = true ∧ (decodeReq [] (hintOf st) (b .running st)).2.2 = .go .streamCtl [] 63 ∧
      fld st.arg2 1 0 = 2 ∧ (ctxAt (b .running st) 63).st = .running ∧ (ctxAt (b .running st) 63).chunks ≠ []) ∧
    (tIntake e st (.streamctlStop .mp 1) = true ∧ (decodeReq [] (hintOf st) e).2.2 = .go .streamCtl [] 63 ∧ (ctxAt e 63).chunks = [] ∧
      (ctxAt e 63).started < (ctxAt e 63).total ∧ (ctxAt e 63).notify = true) ∧
    (tIntake (b .done re) re (.streamctlRenew .mp 1) = true ∧ (decodeReq [] (hintOf re) (b .done re)).2.2 = .go .streamCtl [] 63 ∧
      (ctxAt (b .done re) 63).st ≠ .running ∧ (ctxAt (b .done re) 63).st ≠ .expired) := by decide +kernel
theorem witness_DecodeOfLineRequests :
    let g := tGate tHw
    let p := tMode 15 1 tHw
    let c : Cells Word := [(0x6060, 0x80000001), (0x6064, 0x80000002), (0x6068, 0x80000003)]
    let ac : Hdr := { type := 6, arg2 := 0x210 }
    let tr : Hdr := { type := 6, arg2 := 0x18 }
    (isBridge tCfg 0 = false ∧ g.rst.boot = .ready ∧ g.prot.march = none ∧ decodePa tCfg g 0 = .home ∧
      isBridge c 0 = false ∧ p.rst.boot = .ready ∧ p.prot.march = none) ∧
    (decodePa c p (2 ^ 33 + 15 * 2 ^ 21 + 16383 * 128) = .pin 0 15 16383 ∧ decodePa c p (2 ^ 34 + 15 * 2 ^ 21) = .pin 1 15 0 ∧
      decodePa c p (3 * 2 ^ 33 + 15 * 2 ^ 21) = .pin 2 15 0) ∧
    (fld (0xC : Word) 4 0 ≤ 0xC ∧ 3 % 4 ≠ 0 ∧ fld (0xD : Word) 4 0 ≤ 0xD) ∧
    (0x10 ≤ fld ac.arg2 4 0 ∧ fld ac.arg2 4 0 ≤ 0x14 ∧ accFieldsOk ac = true ∧ accLines tCfg g ac 0 = some [.pa 0]) ∧
    (fld tr.arg2 4 0 = 0x18 ∧ accFieldsOk tr = true ∧ (accLines [(0x604C, 0), (0x28000, 0x80000000)] g tr 0).isSome = true) ∧
    accFieldsOk { ac with addr := 4 } = false := by decide +kernel
theorem witness_DecodeBeforeReadyAndOfQueues :
    let g := tBoot .hold (tGate tHw)
    let q := tMode 15 2 tHw
    let r := { tHw with units := { tHw.units with recs := [(1023, { way := 15, set := 0, log2k := 0, vtype := 2, smallest := true, valid := true })] } }
    let u : SetRun := { way := 15, mode := 2, old := 0, step := .drain, arr := 0, auto := false }
    let b := { tHw with rst := { tHw.rst with setRun := some u } }
    (g.rst.boot ≠ .ready ∧ isBridge tCfg 0 = false ∧ decodePa tCfg g 0 = .home) ∧ decodePa [] g (67108863 * 2 ^ 26 + 0x3FFFC) = .cfg 0x3FFFC ∧
    (q.rst.boot = .ready ∧ q.prot.march = none ∧ esize 5 = some 128 ∧ 2 * 128 ≤ 256 ∧ esize 1 = some 8 ∧ 32 * 8 ≤ 256 ∧
      queWay 0x3FFF = 15 ∧ wayMode q 15 = 2 ∧ setting q 15 = none) ∧
    (wayMode tHw 15 ≠ 2 ∧ setting tHw 15 = none) ∧ (setting b 15 = some u ∧ u.mode = 2) ∧ recAt tHw 1023 = none ∧
    (recAt r 1023).isSome = true ∧ r.rst.boot = .ready ∧ r.prot.march = none ∧ selN false 2 0 ≠ 0 ∧ selN true 2 0 ≠ 0 := by decide +kernel

/-- A message at the head of its buffer, before any of its clauses. -/
def tHead (h : Hw) (p : Port) (vc : Nat) (x : Hdr) : Bool :=
  decide (running h = true ∧ h.rst.boot = .ready) && (headMsg h p vc).any (fun m => m.1 == x) && wellFormed vc x

theorem witness_SnoopResponseAnswersItsSnoop :
    let c : Cells Word := [(0x8058, 4096)]
    let x := fun (t : BitVec 6) (d : BitVec 3) (tti : BitVec 14) => ({ type := t, dfl := d, src := 0xFFF, tti := tti, arg2 := 1 } : Hdr)
    let sn := fun (k : SnpKind) => ({ cai := 0xFFF, kind := k, st := .out, cyc := 0 } : Snp)
    let lost : Snp := { sn .recall with lost := true, own := true }
    let e := fun (k : SnpKind) => { tAct .readOwn [.pa 0] [.snp] with snp := [sn k] }
    let w : Ent := { tAct .writeBack [.pa 0] [.ack] with joined := some 16383, req := { tReq .writeBack [.pa 0] with hdr := { type := 0x29, src := 0xFFF } } }
    let o : Ent := { tAct .writeBack [.pa 0] [.snp] with snp := [sn .recall], req := w.req }
    let inv := { tAct .writeInv [.pa 0] [.snp] with snp := [sn .inv] }
    let on := fun (t : BitVec 6) (d : BitVec 3) (e : Ent) (vc : Nat) (h : Hw) =>
      tMsg .vp vc (x t d 16383) (if d = 0 then [] else List.replicate 32 PWord.zero) (tEnt 16383 e h)
    let ok := fun (t : BitVec 6) (d : BitVec 3) (e : Ent) (s : Snp) (vc : Nat) (i : Instr) (h : Hw) =>
      tHead (on t d e vc h) .vp vc (x t d 16383) &&
        decide (answerCmd .vp vc t.toNat = some i ∧ awaited c (on t d e vc h) (x t d 16383) = some (16383, e, s))
    let free := fun (t : BitVec 6) (d : BitVec 3) (k : SnpKind) (vc : Nat) (i : Instr) =>
      ok t d (e k) (sn k) vc i tHw && respAllowed k t.toNat && decide (wbHeld (on t d (e k) vc tHw) 16383 (lineOf (e k) 0) 0xFFF = none)
    (free 0x30 0 .own 7 (.noCopy .vp 7) ∧ free 0x31 0 .shared 7 (.keptShared .vp 7) ∧ free 0x32 0 .shared 7 (.passedShared .vp 7) ∧
      free 0x33 0 .own 7 (.passedGone .vp 7) ∧ free 0x34 0 .copy 7 (.passedKept .vp 7) ∧ free 0x35 0 .recall 7 (.wbInFlight .vp 7) ∧
      free 0x19 2 .shared 9 (.passedDirty .vp 9) ∧ free 0x1A 2 .recall 9 (.lineBack .vp 9)) ∧
    (tHead (tMsg .vp 7 (x 0x30 0 0) [] tHw) .vp 7 (x 0x30 0 0) ∧ awaited c (tMsg .vp 7 (x 0x30 0 0) [] tHw) (x 0x30 0 0) = none) ∧
    (ok 0x31 0 (e .own) (sn .own) 7 (.keptShared .vp 7) tHw ∧ respAllowed .own 0x31 = false) ∧
    (ok 0x30 0 { e .recall with snp := [lost] } lost 7 (.noCopy .vp 7) tHw ∧ respAllowed .recall 0x30 = true ∧ tHw.diag.rq.length < 30) ∧
    (ok 0x35 0 o (sn .recall) 7 (.wbInFlight .vp 7) tHw ∧ o.req.kind = .writeBack ∧ senderCai o.req.hdr = 0xFFF) ∧
    (∀ t ∈ [0x35, 0x30], respAllowed .own t = true ∧ respAllowed .inv t = true) ∧
    (ok 0x35 0 (e .own) (sn .own) 7 (.wbInFlight .vp 7) (tEnt 5 w tHw) ∧ ok 0x30 0 (e .own) (sn .own) 7 (.noCopy .vp 7) (tEnt 5 w tHw) ∧
      wbHeld (tEnt 16383 (e .own) (tEnt 5 w tHw)) 16383 (.pa 0) 0xFFF = some (5, w)) ∧
    (ok 0x35 0 inv (sn .inv) 7 (.wbInFlight .vp 7) (tEnt 5 w tHw) ∧ inv.req.kind = .writeInv) := by decide +kernel
theorem witness_CoherenceMessagesActOnTheirTransaction :
    let c : Cells Word := [(0x8058, 4096)]
    let fd : Hdr := { type := 0x18, dfl := 2, dkind := 2, src := 9, tti := 16383 }
    let ef : Ent := { tAct (.maint 1) [.pa 0] [.snp] with snp := [{ cai := 9, kind := .copy, st := .out, cyc := 0 }] }
    let hf := tMsg .mp 9 fd (List.replicate 32 PWord.zero) (tEnt 16383 ef tHw)
    let ca : Hdr := { type := 0x39, src := 9, tti := 16383 }
    let ea := { tAct .readOwn [.pa 0] [.ack] with compSent := true, req := { tReq .readOwn [.pa 0] with hdr := { type := 2, arg2 := 9 } } }
    let ha := tMsg .mp 7 ca [] (tEnt 16383 ea tHw)
    let af : Hdr := { type := 0x3A, arg2 := 4095 }
    let mr : Hdr := { type := 0x3E, arg2 := 4095, arg0 := 0x8000000000000000 }
    let note := fun (n : Note) => { tHw with ports := { tHw.ports with mtags := [(4095, n)] } }
    let hm := fun (n : Note) (h : Hw) => tMsg .mp 7 mr [] { h with ports := (note n).ports }
    let sg : Snp := { cai := 4095, kind := .inv, st := .out, cyc := 0 }
    let eg := { tAct .readOwn [.pa 0] [.snp] with snp := [sg] }
    let ma : Hdr := { type := 0x2D, arg2 := 15 }
    let hl := tMsg .mp 7 ma [] { tHw with reel := { tHw.reel with lists := [(15, 1)] } }
    let fe := { tHw with home := { tHw.home with fenced := [4095] } }
    (tHead hf .mp 9 fd ∧ ent hf 16383 = some ef ∧ awaitsFwd hf 16383 fd = true) ∧
    (tHead ha .mp 7 ca ∧ ent ha 16383 = some ea ∧ awaitsAck ha 16383 (senderCai ca) = true ∧ fenced ha (senderCai ca) = false) ∧
    (tHead (tMsg .mp 7 af [] tHw) .mp 7 af ∧ caiOk c 4095 = true ∧ fenced tHw 4095 = false ∧ caiOk [(0x8058, 4095)] 4095 = false ∧
      tHead (tMsg .mp 7 af [] fe) .mp 7 af ∧ fenced fe 4095 = true) ∧
    (tHead (tMsg .mp 7 mr [] tHw) .mp 7 mr ∧ cFind (tMsg .mp 7 mr [] tHw).ports.mtags 4095 = none) ∧
    (tHead (hm .none tHw) .mp 7 mr ∧ cFind (hm .none tHw).ports.mtags 4095 = some .none) ∧
    (tHead (hm (.snpGroup 16383 63) (tEnt 16383 eg tHw)) .mp 7 mr ∧ ent (hm (.snpGroup 16383 63) (tEnt 16383 eg tHw)) 16383 = some eg ∧
      bit mr.arg0 63 = true ∧ eg.snp.find? (fun q => decide (q.cai.toNat = 64 * 63 + 63) && (q.st == .out)) = some sg) ∧
    ent (hm (.snpGroup 16383 63) tHw) 16383 = none ∧
    (tHead (hm (.chunk 63 0 31) tHw) .mp 7 mr ∧ gavBusy (hm (.chunk 63 0 31) tHw) = false ∧
      gavBusy (hm (.chunk 63 0 31) (tGav { Gav.init with step := .hold } tHw)) = true) ∧
    (tHead hl .mp 7 ma ∧ cGet 0 hl.reel.lists 15 ≠ 0) := by decide +kernel
theorem witness_EventsAndRemoteResponsesAreTaken :
    let c : Cells Word := [(0x8058, 4095), (0x28000, 0x80000000), (0x6060, 0x80000001)]
    let r : Remote := { eng := .reel 0 0, read := true, comp := none, data := none }
    let rem := fun (r : Remote) (vc : Nat) (x : Hdr) (pay : List PWord) => tMsg .mp vc x pay { tHw with glp := { tHw.glp with remote := [(0xFFFF, r)] } }
    let w := List.replicate 32 PWord.zero
    let cd : Hdr := { type := 0x1B, dfl := 2, rtag := 0xFFFF }
    let co : Hdr := { type := 0x36, rtag := 0xFFFF }
    let cf : Hdr := { type := 0x36, rtag := 0xFFFF, resp := 3 }
    let fd : Hdr := { type := 0x18, dfl := 2, rtag := 0xFFFF }
    let ev : Hdr := { type := 0x28, src := 4094 }
    let wb : Hdr := { type := 0x29, dfl := 2, src := 4094 }
    let he := tMsg .mp 5 ev [] (tGate tHw)
    let hw := tMsg .mp 5 wb w (tGate tHw)
    let hf := tMsg .mp 5 ev [] (tGate { tHw with home := { tHw.home with fenced := [4094] } })
    let ho := tMsg .mp 5 { ev with src := 4095 } [] (tGate tHw)
    let done := { he with core := { he.core with inMp := some (now he) } }
    let rq := evtReq c .mp 0 ev [] .evict [.pa 0]
    let late := { he with core := { he.core with dec := [(5, rq)], nextSeq := 1 } }
    let lateF := { hf with core := { he.core with dec := [(5, rq)], nextSeq := 1 } }
    let full := { he with core := { he.core with dec := [(5, rq)], nextSeq := 1, admCyc := now he, admNum := 2 } }
    let waiting := { he with core := { he.core with dec := [(5, { rq with iseq := he.core.nextSeq })], nextSeq := he.core.nextSeq + 1 } }
    let common := fun (h : Hw) (x : Hdr) => tHead h .mp 5 x && mayIntake h .mp && decide (decodePa c h 0 = .home) && (cFind h.core.dec 5).isNone
    (tHead (rem r 9 cd w) .mp 9 cd ∧ cFind (rem r 9 cd w).glp.remote 0xFFFF = some r) ∧
    (tHead (rem { r with read := false } 7 co []) .mp 7 co ∧ tHead (rem r 7 cf []) .mp 7 cf ∧ 3 ≤ cf.resp.toNat) ∧
    (tHead (rem { r with data := some w } 7 co []) .mp 7 co ∧ co.resp.toNat < 3) ∧ tHead (rem r 7 co []) .mp 7 co ∧
    (tHead (rem r 9 fd w) .mp 9 fd ∧ fd.dkind = 0) ∧ tHead (rem { r with comp := some 0 } 9 fd w) .mp 9 fd ∧
    (common he ev ∧ caiOk c (senderCai ev) = true ∧ fenced he (senderCai ev) = false ∧ admReady c waiting { rq with iseq := he.core.nextSeq } = true ∧
      poolFor waiting { rq with iseq := he.core.nextSeq } = some .gen ∧ waitsTt he = [] ∧ he.core.dec = [] ∧ ent he 16383 = none) ∧
    (common hw wb ∧ caiOk c (senderCai wb) = true ∧ fenced hw (senderCai wb) = false ∧ hw.core.admCyc ≠ now hw) ∧
    (tHead done .mp 5 ev ∧ mayIntake done .mp = false) ∧ (common hf ev ∧ fenced hf (senderCai ev) = true) ∧
    (common ho { ev with src := 4095 } ∧ caiOk c (senderCai { ev with src := 4095 }) = false) ∧
    (tHead late .mp 5 ev ∧ cFind late.core.dec (portKey .mp 5) = some rq ∧ isEvt rq.kind = true ∧ rq.port = some .mp ∧
      admNext c late = some rq ∧ cSeek (fun _ y => decide (y.iseq = rq.iseq)) late.core.dec = some (5, rq) ∧ ent late 16383 = none ∧
      fenced late (senderCai rq.hdr) = false ∧ poolFor late rq = some .gen) ∧
    (tHead lateF .mp 5 ev ∧ admNext c lateF = some rq ∧ fenced lateF (senderCai rq.hdr) = true) ∧
    (tHead full .mp 5 ev ∧ (admNext c full).map (·.iseq) ≠ some rq.iseq) ∧
    (decodePa c tHw (67108863 * 2 ^ 26 + 0x3FFFC) = .cfg 0x3FFFC ∧ decodePa c (tMode 15 1 tHw) (2 ^ 33 + 15 * 2 ^ 21) = .pin 0 15 0) := by decide +kernel
theorem witness_FenceOperationsAct :
    let c : Cells Word := [(0x8058, 16)]
    let f := { tHw with home := { tHw.home with fenced := [15] } }
    let w := { tHw with home := { tHw.home with swept := [15], fenced := [15] } }
    let b := { tHw with home := { tHw.home with sweep := some (3, 9) } }
    (running tHw = true ∧ caiOk c 15 = true ∧ caiOk c 16 = false ∧ tHw.home.sweep.isNone = true ∧ fenced tHw 15 = false ∧ ¬ (15 ∈ tHw.home.swept)) ∧
      (w.home.sweep.isNone = true ∧ 15 ∈ w.home.swept) ∧ fenced f 15 = true ∧ running b = true ∧ b.home.sweep.isNone = false := by decide

/-- A free entry is found in an empty table, whatever value the choice among the free ones takes. -/
theorem t_free (h : Hw) (hh : h.core.tt = []) : ∃ j, freeIdx h = some j :=
  ⟨Config.ttPick h.free % 16384, by simp [freeIdx, cFreeFrom, hh, cFind]⟩

/-- Agent 5's sweep at the last set, with this snoop-filter entry in it. -/
def tSweep (f : SfEnt) : Hw := { tHw with home := { tHw.home with sweep := some (5, 16383), fenced := [5], sf := [(16 * 16383, f)] } }

theorem witness_SweepRemovesTheAgent :
    let f : SfEnt := { dir := .dsf, tag := 1, ptr := 5, shr := [5, 6], coarse := false, grp := 0, rsv := false, errP := 1, errT := 0 }
    let b := fun (k : GavStep) => tGav { Gav.init with step := k } (tSweep f)
    (running (tSweep f) = true ∧ (tSweep f).home.sweep = some (5, 16383) ∧ fenced (tSweep f) 5 = true ∧
      (tSweep f).home.sfCyc ≠ some (now (tSweep f)) ∧ (tSweep f).home.sweepCyc ≠ some (now (tSweep f)) ∧ gavBusy (tSweep f) = false ∧
      (∀ n, n < 16 → (sfAt (tSweep f) 16383 n).dir ≠ .di → (sfAt (tSweep f) 16383 n).rsv = false →
        (sfAt (tSweep f) 16383 n).errP < 2 ∧ ¬ ((sfAt (tSweep f) 16383 n).dir = .doo ∧ (sfAt (tSweep f) 16383 n).ptr = 5)) ∧
      (sfAt (tSweep f) 16383 0).dir = .dsf) ∧ running (b .hold) = true ∧ gavBusy (b .hold) = true := by decide +kernel
theorem witness_SweepRemovesTheAgent_owner :
    let o : SfEnt := { SfEnt.free_ with dir := .doo, tag := 1, ptr := 5 }
    ((∀ n, n < 16 → (sfAt (tSweep o) 16383 n).errT = 0 ∧ (sfAt (tSweep o) 16383 n).errP = 0) ∧
      (sfAt (tSweep o) 16383 0).dir = .doo ∧ (sfAt (tSweep o) 16383 0).ptr = 5 ∧ (sfAt (tSweep o) 16383 0).rsv = false ∧
      (∀ n, n < 16 → n ≠ 0 → ¬ ((sfAt (tSweep o) 16383 n).dir = .doo ∧ (sfAt (tSweep o) 16383 n).ptr = 5)) ∧
      snooped (tSweep o) (lineAt 16383 (sfAt (tSweep o) 16383 0).tag) 5 = false ∧ pickPool (tSweep o) false true = some .gen ∧
      (tSweep o).diag.rq.length < 30) := by decide +kernel
theorem witness_SweepRemovesTheAgent_free : ∃ j, freeIdx (tSweep { SfEnt.free_ with dir := .doo, tag := 1, ptr := 5 }) = some j := t_free _ rfl
theorem witness_EntriesAdvanceAndSnoopsTimeOut :
    let r := tReq .readNoSnoop [.pa 0]
    let v : Req := { tReq .evict [.pa 0] with hdr := { type := 0x28, src := 9 } }
    let a := { tHw with core := { tHw.core with adm := [r] } }
    let m := fun (f : List (BitVec 12)) =>
      let h := tMsg .mp 5 v.hdr [] { tHw with home := { tHw.home with fenced := f } }
      { h with core := { h.core with dec := [(5, v)] } }
    let two := { a with core := { a.core with admCyc := now a, admNum := 2 } }
    let w := { tAct .readNoSnoop [.pa 0] [.lookup] with active := false, busy := false }
    let f := tAct .readOwn [.pa 0] [.sf]
    (running a = true ∧ ent a 16383 = none ∧ admNext [] a = some r ∧ poolFor a r = some .gen ∧ isEvt r.kind = false) ∧
    (∀ f ∈ [[], [9#12]], running (m f) = true ∧ ent (m f) 16383 = none ∧ admNext [] (m f) = some v ∧ poolFor (m f) v = some .gen ∧
      isEvt v.kind = true ∧ v.port = some .mp ∧ (headMsg (m f) .mp 5).isSome = true ∧
      cSeek (fun _ y => decide (y.iseq = v.iseq)) (m f).core.dec = some (portKey .mp 5, v)) ∧
    (fenced (m [9]) (senderCai v.hdr) = true ∧ fenced (m []) (senderCai v.hdr) = false) ∧ (admNext [] two = none ∧ admReady [] a r = true) ∧
    (ent (tEnt 16383 w tHw) 16383 = some w ∧ w.joined = none ∧ ttClean w = true ∧ gavHolds (tEnt 16383 w tHw) = false ∧
      (∀ k ∈ w.req.lines, ∀ q ∈ (tEnt 16383 w tHw).core.tt, q.1 = 16383 ∨ ¬ k ∈ q.2.req.lines ∨ q.2.joined.isSome = true ∨
        (q.2.active = false ∧ w.arr < q.2.arr))) ∧
    (mayActivate (tEnt 16383 { w with active := true } tHw) 16383 { w with active := true } = false) ∧
    (ent (tEnt 16383 f tHw) 16383 = some f ∧ f.todo.head? = some .sf) := by decide +kernel
theorem witness_EntriesAdvanceAndSnoopsTimeOut_snoops :
    let n := fun (st : SnpSt) (cyc : Nat) => ({ cai := 4095, kind := .own, st := st, cyc := cyc } : Snp)
    let t := fun (st : SnpSt) (cyc : Nat) => { tAct .readOwn [.pa 0] [.snp] with snp := [n st cyc] }
    let c : Cells Word := [(0x805C, 1)]
    (∀ st ∈ [SnpSt.out, .wb], running (tEnt 16383 (t st 1999996) tHw) = true ∧ ent (tEnt 16383 (t st 1999996) tHw) 16383 = some (t st 1999996) ∧
      (t st 1999996).snp.find? (fun y => (y.cai == 4095) && !y.tmo && ((y.st == .out) || (y.st == .wb))) = some (n st 1999996) ∧
      cf c 8 0x5C 15 0 ≠ 0 ∧ (n st 1999996).cyc / 4 + cf c 8 0x5C 15 0 ≤ now (tEnt 16383 (t st 1999996) tHw) / 4 ∧
      (tEnt 16383 (t st 1999996) tHw).diag.rq = []) ∧
    cf [(0x805C, 0)] 8 0x5C 15 0 = 0 ∧ now (tEnt 16383 (t .out 2000000) tHw) / 4 < (n .out 2000000).cyc / 4 + cf c 8 0x5C 15 0 := by decide +kernel
theorem witness_FencesComplete :
    let n := fun (st : SnpSt) (o : Bool) => ({ cai := 9, kind := .own, st := st, cyc := 0, own := o } : Snp)
    let e := fun (st : SnpSt) (o : Bool) => { tAct .readOwn [.pa 7] [.snp] with snp := [n st o] }
    let fe := { tHw with home := { tHw.home with fenced := [9] } }
    let w : Ent := { tAct .writeBack [.pa 7] [.ack] with joined := some 16383, req := { tReq .writeBack [.pa 7] with hdr := { type := 0x29, src := 9 } } }
    let ea := { tAct .readOwn [.pa 0] [.ack] with compSent := true, req := { tReq .readOwn [.pa 0] with hdr := { type := 2, arg2 := 9 } } }
    let f : FenceEnt := { iseq := 8, hdr := { type := 7, src := 3 }, port := .mp, tc := 2 }
    let h := { tHw with core := { tHw.core with fences := [f], owing := [(8, 3), (2, 4)] } }
    let late := { tHw with core := { tHw.core with fences := [f], owing := [(7, 3)] } }
    (∀ p ∈ [(SnpSt.out, true), (.out, false), (.wb, false)], ∀ q ∈ [fe, tEnt 5 w fe],
      let g := tEnt 16383 (e p.1 p.2) q
      running g = true ∧ ent g 16383 = some (e p.1 p.2) ∧ fenced g 9 = true ∧
      (e p.1 p.2).snp.find? (fun y => (y.cai == 9) && (match y.st with | .done _ => false | _ => true)) = some (n p.1 p.2) ∧
      wbHeld g 16383 (lineOf (e p.1 p.2) 0) 9 = (if q = fe then none else some (5, w)) ∧ lineOf (e p.1 p.2) 0 = .pa 7 ∧ g.diag.rq = []) ∧
    (ent (tEnt 16383 ea fe) 16383 = some ea ∧ ea.snp = [] ∧ awaitsAck (tEnt 16383 ea fe) 16383 9 = true) ∧ fenced tHw 9 = false ∧
    (running h = true ∧ h.core.fences.find? (fun g => decide (g.iseq = 8) && !g.done) = some f ∧
      (∀ o ∈ h.core.owing, o.2 = f.hdr.src → 8 ≤ o.1)) ∧ (7, 3) ∈ late.core.owing := by decide +kernel
theorem witness_XpReadsRunTheirSteps :
    let r : XpRd := { tt := 16383, li := 0, addr := 128, secs := 3, owed := 3, out := true, since := 1999996, tmo := false }
    let e := tAct .readNoSnoop [.pa 1] [.xrd 128 3 0]
    let rd := fun (r : XpRd) => tEnt 16383 e { tHw with xp := { tHw.xp with rds := [(4095, r)] } }
    let w := { tHw with xp := { tHw.xp with wait := [(16383, 0, 128, 3)] } }
    let p := { rd { r with out := false } with xp := { (rd { r with out := false }).xp with rdUp := some 4095 } }
    let k := { w with xp := { w.xp with ask := [4095] } }
    let c : Cells Word := [(0x4044, 1)]
    (running w = true ∧ slotNext w = some (16383, 0, 128, 3) ∧ cFind w.xp.rds 4095 = none) ∧ tHw.xp.wait = [] ∧
    ((tS k).pending = [] ∧ k.xp.rdUp = none ∧ k.xp.ask = 4095 :: []) ∧
    (running p = true ∧ cFind p.xp.rds 4095 = some { r with out := false } ∧ p.xp.rdUp = some 4095 ∧ w.xp.rdUp ≠ some 4095) ∧
    (running (rd r) = true ∧ cFind (rd r).xp.rds 4095 = some r ∧ bitN r.owed 1 = true ∧ ent (rd r) 16383 = some e ∧ r.owed - 2 ^ 1 ≠ 0 ∧
      e.busy = true ∧ e.todo.head? = some (.xrd 128 3 0)) ∧
    (cFind (rd { r with owed := 2 }).xp.rds 4095 = some { r with owed := 2 } ∧ 2 - 2 ^ 1 = 0 ∧ bitN 2 0 = false) ∧
    cFind tHw.xp.rds 4095 = none ∧
    (cFind (rd r).xp.rds 4095 = some r ∧ cf c 4 0x44 15 0 ≠ 0 ∧ r.since / 4 + cf c 4 0x44 15 0 ≤ clkC (rd r) ∧
      cf [(0x4044, 0)] 4 0x44 15 0 = 0) := by decide +kernel
theorem witness_XpWritesTransferInOrder :
    let e := tAct .writeInv [.pa 1] [.xwr 128 3 0]
    let w := fun (o : Option Own) => ({ addr := 128, words := [], init := false, own := o, last := true } : XpWr)
    let h := fun (x : XpWr) => tEnt 16383 e { tHw with xp := { tHw.xp with wrUp := some x } }
    let q := { tHw with xp := { tHw.xp with wrs := [w none] } }
    let f : Fill := { next := 1, total := 2, pattern := 5, boot := false }
    let g := { tHw with glp := { tHw.glp with fill := some f } }
    (running (h (w (some (.tt 16383)))) = true ∧ (h (w (some (.tt 16383)))).xp.wrUp = some (w (some (.tt 16383))) ∧
      ent (h (w (some (.tt 16383)))) 16383 = some e ∧ e.busy = true ∧ e.todo.head? = some (.xwr 128 3 0)) ∧
    ((h (w (some (.alb 47)))).xp.wrUp = some (w (some (.alb 47))) ∧ (h (w (some (.jig 15)))).xp.wrUp = some (w (some (.jig 15))) ∧
      (h (w none)).xp.wrUp = some (w none) ∧ (h { w none with init := true }).xp.wrUp = some { w none with init := true }) ∧
    (running q = true ∧ q.xp.wrUp = none ∧ q.xp.wrs = w none :: [] ∧ (tS q).pending = []) ∧
    (running g = true ∧ g.xp.wrUp = none ∧ g.xp.wrs = [] ∧ g.glp.fill = some f ∧ f.next < f.total ∧ gavBusy g = false) := by decide +kernel

/-! ### Witnesses: banks, Jig, the ALB, cells, ways -/

theorem witness_BankIssuesOneRow :
    let op := tOp 31 16383 true
    let ms := { op with master := some .scrub, own := .scrub }
    let h := fun (k : Bank) => tPwr 31 tOn (tEnt 16383 (tAct .writeInv [.pa 0] [.wr 15 0 1 0 true]) (tBank 31 k tHw))
    let a := h { Bank.idle with pend := [op] }
    let b := h { Bank.idle with cur := some op, last := some 999999 }
    let m := h { Bank.idle with pend := [ms] }
    (running a = true ∧ (bank a 31).last ≠ some (clkM a) ∧ bankUp a 31 = true ∧ marchDestroys a 31 = false ∧ op.rows = (1, 7) :: [] ∧
      (bank a 31).cur = none ∧ chooseOp [] (windowStart [] a) 31 (mayIssue a) = some (op, some (0, 0))) ∧
    (running b = true ∧ (bank b 31).last ≠ some (clkM b) ∧ bankUp b 31 = true ∧ (bank b 31).cur = some op) ∧
    (bankUp m 31 = true ∧ chooseOp [] (windowStart [] m) 31 (mayIssue m) = some (ms, none) ∧ bankUp m 32 = true) ∧
    op.who.charge = true ∧ ((bank tHw 31).cur = none ∧ (bank tHw 31).pend = []) := by decide +kernel
/-- A bank with this operation awaiting its result, on behalf of an entry of the transaction table. -/
def tFly (o : BankOp) (e : Ent) (d : Bool) : Hw := tPwr 31 { tOn with dead := d } (tEnt 16383 e (tBank 31 { Bank.idle with fly := [o] } tHw))

/-- An operation whose row has issued. -/
def tDone (w : Bool) : BankOp := { tOp 31 16383 w with rows := [], done := [(1, 16383)] }

theorem witness_BankOperationCompletes :
    let e := tAct .writeInv [.pa 0] [.wr 15 0 1 0 true]
    let v : Ent := { tAct .repair [] [.rd 15 0 2 0] with req := { tReq .repair [] with par := 7 } }
    (∀ w ∈ [true, false], ∀ d ∈ [true, false], running (tFly (tDone w) e d) = true ∧ (bank (tFly (tDone w) e d) 31).fly = tDone w :: [] ∧
      (tDone w).own = .tt 16383 ∧ ent (tFly (tDone w) e d) 16383 = some e ∧ (tDone w).bank = 31 ∧
      (∀ r ∈ (tDone w).done, r.1 < 2 ∧ r.2 < 16384) ∧ (tDone w).write = w ∧ isProt e.req.kind = false ∧ ((tDone w).done.map (·.1)).Nodup) ∧
    (ent (tFly (tDone false) v false) 16383 = some v ∧ isProt v.req.kind = true ∧
      (bank (tFly (tDone false) v false) 31).fly = tDone false :: []) ∧ (bank tHw 31).fly = [] := by decide +kernel
theorem witness_BankOperationCompletes_near :
    let e := tAct .writeInv [.pa 0] [.wr 15 0 1 0 true]
    let j : JigEnt := { line := .pa 0, way := 15, set := 16383, sec := 1, mask := 1, bytes := 0, poi := 0, who := (tOp 0 0 true).who
                        rid := 0, expire := 1000000, writing := true, left := 2 }
    let jo := fun (w : Bool) => { tDone w with own := .jig 15 }
    let ao := { tDone true with own := .alb 47 }
    let hj := fun (w : Bool) => { tFly (jo w) e false with near := { tHw.near with jig := [(15, j)] } }
    (∀ w ∈ [true, false], (bank (hj w) 31).fly = jo w :: [] ∧ (jo w).own = .jig 15 ∧ (jo w).write = w ∧ (jo w).done = [(1, 16383)] ∧
      cFind (hj w).near.jig 15 = some j ∧ j.sec = 1 ∧ (hj w).diag.rq.length < 30) ∧
    ((bank (tFly ao e false) 31).fly = ao :: [] ∧ ao.own = .alb 47) := by decide +kernel

/-- A Jig entry over the whole of a sector. -/
def tJig : JigEnt :=
  { line := .pa 0, way := 15, set := 16383, sec := 1, mask := BitVec.allOnes 64, bytes := 0, poi := 0, who := (tOp 0 0 true).who
    rid := 0, expire := 1000000, writing := false, left := 0 }

theorem witness_JigAndAlbEntriesMove :
    let h := fun (j : JigEnt) => { tHw with near := { tHw.near with jig := [(15, j)] } }
    let b := { tJig with base := some (List.replicate 16 PWord.poisoned), mask := 1 }
    (running (h tJig) = true ∧ cFind (h tJig).near.jig 15 = some tJig ∧ tJig.writing = false ∧ tJig.expire ≤ clkM (h tJig) ∧ gavBusy (h tJig) = false ∧
      tJig.base = none ∧ touched tJig.mask 16 = covered tJig.mask 16) ∧ touched (1 : BitVec 64) 16 ≠ covered (1 : BitVec 64) 16 ∧
    (cFind (h b).near.jig 15 = some b ∧ b.base = some (List.replicate 16 PWord.poisoned) ∧ b.line = .pa 0 ∧ b.sec < 2 ∧ (h b).diag.rq.length < 30 ∧
      (jigMerge b (List.replicate 16 PWord.poisoned)).2 ≠ []) ∧ clkM (h { tJig with expire := 1000001 }) < 1000001 := by decide +kernel

/-- A narrow write that waits for Jig entries: by its line's place, or as it goes to XP. -/
def tNarrow (k : LineKey) (n : Nat) : Ent :=
  { tAct .writePart [k] [.jig] with aux := n, req := { tReq .writePart [k] with hdr := { type := 5, bmask := 1 } } }

theorem witness_JigAndAlbEntriesMove_grant :
    (∀ x ∈ [(LineKey.loc 15 16383, 0), (.pa 0, 1), (.pa 0, 0)],
      let e := tNarrow x.1 x.2
      let g := tEnt 16383 e tHw
      running g = true ∧ gavHolds g = false ∧ ent g 16383 = some e ∧ (16383, e) ∈ g.core.tt ∧ e.active = true ∧ e.busy = true ∧
      e.todo.head? = some .jig ∧
      (∀ p ∈ g.core.tt, p.2.active = true → p.2.busy = true → p.2.todo.head? = some .jig → p = (16383, e) ∨ e.req.iseq < p.2.req.iseq) ∧
      jigCan g 16383 e = true ∧ whereIs g (lineOf e 0) = (if x.1 = .pa 0 then none else some (15, 16383)) ∧ e.aux = x.2) ∧
    jigCan { tHw with near := { tHw.near with jig := (List.range 16).map (fun n => (n, tJig)) } } 16383 (tNarrow (.loc 15 16383) 0) = false := by
  decide +kernel
theorem witness_JigAndAlbEntriesMove_alb :
    let a := tAct .atomic [.loc 15 16383] [.alb]
    let b := tEnt 16383 a tHw
    let full := fun (wb : Bool) (x : Ent) => tEnt 16383 x { tHw with near := { tHw.near with
      alb := (List.range 48).map (fun n => (n, { tAlb (.loc 15 n) .plain with wb := wb, stamp := n + 1 })) } }
    let own := { a with errs := [(47, 0)] }
    (running b = true ∧ gavHolds b = false ∧ ent b 16383 = some a ∧ a.todo.head? = some .alb ∧ a.errs = [] ∧ albPlan b a = some [(0, 0)] ∧
      (([(0, 0)] : List (Nat × Nat)).map (·.1)).Nodup ∧ (∀ p ∈ [(0, 0)], cFind b.near.alb p.1 = none)) ∧
    (own.errs = [(47, 0)] ∧ cFind (tEnt 16383 own tHw).near.alb 47 = none) ∧
    (albPlan (full false a) a = some [(0, 0)] ∧ cFind (full false a).near.alb 0 = some (tAlb (.loc 15 0) .plain) ∧
      albPartner (full false a) (tAlb (.loc 15 0) .plain) = none) ∧ albPlan (full true a) a = none ∧
    own.errs.any (fun q => (cFind (full true own).near.alb q.1).any (·.wb)) = true := by decide +kernel
theorem witness_CellsIssueOperations :
    let e := tAct .atomic [.loc 15 0] [.cell]
    let o : CellOp := { tt := 16383, iseq := 5, grp := none, at_ := 500000 }
    let g : CellOp := { o with grp := some (0, 1, 0) }
    let h := fun (o : CellOp) => tEnt 16383 e { tHw with near := { tHw.near with ready := [(7, [o])] } }
    running (h o) = true ∧ cellPick (h o) 7 = some o ∧ cellPick (h g) 7 = some g ∧ ent (h o) o.tt = some e ∧ ent (h g) g.tt = some e ∧
      g.grp.isSome = true ∧ gavHolds (h o) = false ∧ cGet [] tHw.near.ready 7 = [] := by decide +kernel

theorem witness_AtomicResultsAreWritten :
    let o : CellOp := { tt := 16383, iseq := 5, grp := none, at_ := 500000 }
    let at_ := fun (op : Word) (pa : BitVec 52) =>
      { tAct .atomic [.loc 15 0] [.cell] with req := { tReq .atomic [.loc 15 0] with hdr := { type := 6, addr := pa, arg0 := 9, arg2 := op } } }
    let al := { tAct (.aliasW true) [.loc 15 0] [.cell] with req := { tReq (.aliasW true) [.loc 15 0] with hdr := { type := 4, dfl := 2 } } }
    let ok := fun (e : Ent) => let h := tDue e none .plain
      running h = true ∧ cellDue h 7 (fun o => o.grp.isNone) = some o ∧ ent h o.tt = some e ∧ albFind h (lineOf e 0) = some (47, tAlb (.loc 15 0) .plain) ∧
        cFind h.near.alb 47 = some (tAlb (.loc 15 0) .plain)
    ok (at_ 9 124) ∧ (124 % 128 / 4 = 31 ∧ (albWord (tAlb (.loc 15 0) .plain) 31).poi = false) ∧ ok (at_ 0x20 120) ∧ fld (0x20 : Word) 5 5 = 1 ∧
      120 % 128 / 4 + 1 < 32 ∧ ok (at_ 0xA 124) ∧ ok al ∧ (∀ j, j < 32 → (albWord (tAlb (.loc 15 0) .plain) j).poi = false ∧ (al.req.pay.getD j PWord.zero).poi = false) ∧
      nib (aliasMask al.req.hdr) 31 = 15 ∧ nib (0 : BitVec 128) 31 = 0 := by decide +kernel
/-- An atomic of this operation on word 31, which is poisoned. -/
def tAtomic (op : Word) : Ent :=
  { tAct .atomic [.loc 15 0] [.cell] with req := { tReq .atomic [.loc 15 0] with hdr := { type := 6, addr := 124, arg0 := 9, arg2 := op } } }

/-- A line whose words are all poisoned. -/
def tPois : AlbEnt := { tAlb (.loc 15 0) .plain with data := List.replicate 32 ⟨3, true⟩ }

theorem witness_AtomicResultsAreWritten_poison :
    ∀ n ∈ [0, 8, 0x2A],
      let op : Word := BitVec.ofNat 32 n
      let h := tInAlb 47 tPois (tDue (tAtomic op) none .plain)
      running h = true ∧ cellDue h 7 (fun o => o.grp.isNone) = some { tt := 16383, iseq := 5, grp := none, at_ := 500000 } ∧
      ent h 16383 = some (tAtomic op) ∧ albFind h (lineOf (tAtomic op) 0) = some (47, tPois) ∧ cFind h.near.alb 47 = some tPois ∧
      (albWord tPois 31).poi = true ∧ h.diag.rq.length < 32 := by decide +kernel
theorem witness_AtomicResultsAreWritten_none : cellDue tHw 7 (fun o => o.grp.isNone) = none := by decide +kernel

/-- The accumulation's entry: group 1 of line 0 of a span of two lines. -/
def tAcc (op : Word) : Ent :=
  { tAct .acc [.loc 15 0, .loc 15 1] [.cell] with
    req := { tReq .acc [.loc 15 0, .loc 15 1] with hdr := { type := 6, dfl := 2, arg2 := op }, pay := List.replicate 32 PWord.zero } }

/-- Its two lines in the ALB, and its group due. -/
def tAccHw (op : Word) (f : Fmt) : Hw :=
  let h := tDue (tAcc op) (some (0, 1, 0)) f
  { h with near := { h.near with alb := [(46, tAlb (.loc 15 1) .tangoComp), (47, tAlb (.loc 15 0) f)] } }

theorem witness_AccumulationGroupsAreWritten :
    let o : CellOp := { tt := 16383, iseq := 5, grp := some (0, 1, 0), at_ := 500000 }
    ∀ p ∈ [(0x1010#32, Fmt.f32), (0x1614, .i32), (0x1011, .tangoSum), (0x1012, .mxfp8), (0x1013, .mxint8)],
      let h := tAccHw p.1 p.2
      let e := tAcc p.1
      let a := tAlb (.loc 15 0) p.2
      running h = true ∧ cellDue h 7 (fun o => o.grp.isSome) = some o ∧ o.grp = some (0, 1, 0) ∧ ent h o.tt = some e ∧
        albFind h (lineOf e 0) = some (47, a) ∧ cFind h.near.alb 47 = some a ∧ a.data.length = 32 ∧ inCells (cellDrop 7 o h) o.tt = true ∧
        albFind h (lineOf e (0 + 1)) = some (46, tAlb (.loc 15 1) .tangoComp) ∧ cFind h.near.alb 46 = some (tAlb (.loc 15 1) .tangoComp) := by
  decide +kernel
theorem witness_AccumulationGroupsAreWritten_words :
    (∀ j, j < 16 → (albWord (tAlb (.loc 15 0) .f32) (16 * 1 + j)).poi = false ∧
      (inI32 (tAcc 0x1614).req.hdr (tAcc 0x1614).req.pay (16 * 1 + j)).2 = false ∧
      (inF32 (tAcc 0x1010).req.hdr (tAcc 0x1010).req.pay (16 * 1 + j)).2 = false) ∧
    cellDue tHw 7 (fun o => o.grp.isSome) = none := by decide +kernel

theorem witness_ModeCommandsAct :
    let b := tBusy 7 tHw
    let l := { tHw with home := { tHw.home with locked := [15] } }
    let o := tMode 15 3 tHw
    let p := tMode 15 1 tHw
    let g := tGav { Gav.init with step := .hold } tHw
    (running b = true ∧ pgBusy b 7 = true) ∧ (running tHw = true ∧ pgBusy tHw 7 = false ∧ booting tHw = false ∧ locked [] = false ∧
      ¬ (15 ∈ tHw.home.locked) ∧ wayMarched tHw 15 = false ∧ wayMode tHw 15 = 0 ∧ wayDirty tHw 15 = false ∧ wayMode tHw 15 ≠ (3#2).toNat ∧
      wayMode tHw 15 = (0#2).toNat) ∧ (gavBusy tHw = false ∧ gavBusy g = true ∧ booting g = false ∧ wayDirty g 15 = false) ∧
    (pgBusy o 7 = false ∧ wayMode o 15 = 3 ∧ wayMode o 15 ≠ 0) ∧ (wayMode p 15 = 1 ∧ wayRecord p 15 = false) ∧
    (pgBusy l 7 = false ∧ 15 ∈ l.home.locked) ∧ booting (tBoot .fill tHw) = true ∧ locked [(0x58, 1)] = true ∧
    ((∀ x ∈ tHw.near.alb, lineIn tHw 15 x.2.line = false) ∧ ∀ x ∈ tHw.near.jig, x.2.way ≠ 15) := by decide +kernel
theorem witness_SetModeRunsItsSteps :
    let r : SetRun := { way := 15, mode := 1, old := 0, step := .drain, arr := 0, auto := false }
    let h := fun (r : SetRun) => tAllOn { tHw with rst := { tHw.rst with setRun := some r } }
    let off := fun (h : Hw) => tPwr 30 { Pwr.start with st := .off, req := false } (tPwr 31 { Pwr.start with st := .off, req := false } h)
    let op := { Bank.idle with pend := [{ tOp 31 16383 true with way := 15 }] }
    let e := tEnt 16383 (tAct .writeInv [.loc 15 0] [.wr 15 0 1 0 true]) (tBank 31 op (h r))
    (running (h r) = true ∧ (h r).rst.setRun = some r ∧ r.way < 16 ∧ gavBusy (h r) = false ∧ wayBusy (h r) 15 = false) ∧ wayBusy e 15 = true ∧
    (∀ x ∈ [(1, 0), (2, 0), (3, 1), (1, 3), (1, 2)], wayBusy (h { r with old := x.1, mode := x.2 }) 15 = false) ∧
    998976 + 1024 ≤ clkM (h { r with step := .inval 998976 }) ∧ 983616 + 16384 ≤ clkM (h { r with step := .fill 983616 }) ∧
    clkM (h { r with step := .inval 998977 }) < 998977 + 1024 ∧
    (∀ b, b = 30 ∨ b = 31 → (pwr (h { r with step := .powerOn }) b).dead = true ∨ (pwr (h { r with step := .powerOn }) b).st = .on) ∧
    (∀ b, b = 30 ∨ b = 31 → (pwr (off (h { r with step := .powerOff })) b).dead = true ∨ (pwr (off (h { r with step := .powerOff })) b).st = .off) ∧
    (pwr (off (h { r with step := .powerOn })) 31).st ≠ .on ∧ (pwr (off (h { r with step := .powerOn })) 31).dead = false ∧ tHw.rst.setRun = none := by
  refine ⟨by decide +kernel, by decide +kernel, by decide +kernel, by decide +kernel, by decide +kernel, by decide +kernel, ?_, ?_, by decide +kernel⟩ <;>
    (intro b hb; rcases hb with rfl | rfl <;> decide +kernel)

/-! ### Witnesses: maintenance, queues, records, engines -/

theorem witness_MaintenanceCommandsStart :
    let c : Cells Word := [(0x9040, 0xFFFFFFFF), (0x9044, 0xFFFFF), (0x9048, 1), (0x904C, 0x40000000)]
    let d : Cells Word := [(0x9040, 0xFFFFFFFF), (0x9044, 0xFFFFF), (0x9048, 2), (0x904C, 0x40000001)]
    let first := (cfgGet c 0x9040).toNat / 128 + cf c 9 0x44 19 0 * 2 ^ 25
    let o := tMode 15 1 tHw
    let x := { tHw with prot := { tHw.prot with dis := some (15, .walk 0 0 0) } }
    let m := { tHw with prot := { tHw.prot with march := some tMarch } }
    (running tHw = true ∧ first + cf c 9 0x48 27 0 = 2 ^ 45 ∧ 2 ^ 45 < first + cf d 9 0x48 27 0 ∧ cf [] 9 0x48 27 0 = 0) ∧
    (cf c 9 0x4C 13 0 + cf c 9 0x4C 30 16 = 16384 ∧ 16384 < cf d 9 0x4C 13 0 + cf d 9 0x4C 30 16 ∧ cf [] 9 0x4C 30 16 = 0) ∧
    pgBusy (tBusy 9 tHw) 9 = true ∧ pgBusy tHw 9 = false ∧ booting (tBoot .power tHw) = true ∧ booting tHw = false ∧ wayMode o 15 ≠ 0 ∧
    (wayMode tHw 15 = 0 ∧ setting tHw 15 = none ∧ wayMarched tHw 15 = false ∧ tHw.prot.dis = none) ∧ x.prot.dis = some (15, .walk 0 0 0) ∧
    wayMarched m 0 = true := by decide +kernel

/-- The walker in the middle of this command. -/
def tWalk (m : Nat × Nat × Nat × Nat) (cut : Bool) (l : List LineKey) : Hw :=
  { tHw with units := { tHw.units with mnt := some m, mntCut := cut, mntLines := l } }

theorem witness_MaintenanceWalks :
    let t : Tag := { tag := 5, valid := true, d0 := true, d1 := false, pre := false, err := 0 }
    let v := { tWalk (6, 15, 16383, 1) false [] with home := { tHw.home with tags := [(16 * 16383 + 15, t)] } }
    let c : Cells Word := [(0x28000, 0x80000000)]
    let w := { v with units := { v.units with mntCyc := now v, mntNum := 1 } }
    let n := { v with units := { v.units with mntFly := 64 } }
    (running (tWalk (4, 15, 16383, 1) false []) = true ∧ gavBusy (tWalk (4, 15, 16383, 1) false []) = false ∧
      (tWalk (4, 15, 16383, 1) false []).units.mntCyc ≠ now (tWalk (4, 15, 16383, 1) false []) ∧
      (tagAt (tWalk (4, 15, 16383, 1) false []) 16383 15).valid = false) ∧
    (v.units.mntCyc ≠ now v ∧ (tagAt v 16383 15).valid = true ∧ v.units.mntFly < min 64 (max 1 (cf [] 9 0x50 6 0)) ∧ ent v 16383 = none ∧
      poolUse v .gen < poolCap .gen) ∧
    (w.units.mntCyc = now w ∧ ¬ w.units.mntNum < 1) ∧ ¬ n.units.mntFly < min 64 (max 1 (cf [] 9 0x50 6 0)) ∧
    (homedHere [] (tWalk (1, 0, 0, 1) false []) 0 = false ∧ homedHere c (tWalk (7, 0, 0, 1) false []) 0 = true ∧
      gavBusy (tWalk (7, 0, 0, 1) false []) = false) := by decide +kernel
theorem witness_MaintenanceWalks_ends :
    (tWalk (6, 15, 0, 1) true []).units.mntCut = true ∧ (tWalk (8, 0, 0, 0) false [.pa 1]).units.mntLines = .pa 1 :: [] ∧
    LineKey.pa 0 ∈ (tWalk (9, 0, 0, 1) false [.pa 0]).units.mntLines ∧ ¬ LineKey.pa 0 ∈ (tWalk (9, 0, 0, 1) false []).units.mntLines ∧
    ((tWalk (9, 0, 0, 0) false []).units.mntFly = 0 ∧ (tWalk (9, 0, 0, 0) false []).units.mntLines = []) ∧
    gavBusy (tGav { Gav.init with step := .hold } (tWalk (9, 0, 0, 0) false [])) = true ∧ tHw.units.mnt = none := by decide +kernel
theorem witness_QueueAndSelectionCommandsAct :
    let q := tMode 15 2 tHw
    let p := tMode 15 1 tHw
    let g := { q with ro := [(0xB080, 0x10000), (0xB084, 0x500)] }
    let x : Word := 0x0F003FF8
    let r : Rec := { way := 15, set := 0, log2k := 6, vtype := 2, smallest := false, valid := true }
    let d := { p with units := { p.units with recs := [(1023, r)] } }
    let u : SetRun := { way := 15, mode := 1, old := 1, step := .drain, arr := 0, auto := false }
    let b := fun (h : Hw) => { h with rst := { h.rst with setRun := some u } }
    let e := { tHw with units := { tHw.units with queEnd := some 5, selEnd := some 3 } }
    (running q = true ∧ queWay (0x3FFF#14).toNat = 15 ∧ wayMode q 15 = 2 ∧ (stage q).ok = false ∧ (stage g).ok = true ∧ wayMode g 15 = 2 ∧
      pgBusy g 11 = false ∧ booting g = false ∧ setting g 15 = none) ∧ wayMode tHw 15 ≠ 2 ∧ pgBusy (tBusy 11 g) 11 = true ∧
    ((setting (b g) 15).isSome = true ∧ booting (tBoot .march g) = true) ∧
    (fld x 27 24 = 15 ∧ wayMode p 15 = 1 ∧ ¬ (6 < fld x 18 16) ∧ fld x 21 20 ≠ 3 ∧ fld x 13 0 % recLines (fld x 18 16) = 0 ∧
      pgBusy p 13 = false ∧ booting p = false ∧ setting p 15 = none ∧ recAt p 1023 = none ∧ (setting (b p) 15).isSome = true ∧
      6 < fld (0x0F070000 : Word) 18 16 ∧ pgBusy (tBusy 13 p) 13 = true) ∧
    (recAt d 1023 = some r ∧ pgBusy d 13 = false ∧ booting d = false ∧ setting d r.way = none) ∧
    (running e = true ∧ e.units.queEnd = some 5 ∧ e.units.selEnd = some 3 ∧ tHw.units.queEnd = none) := by decide +kernel
theorem witness_EventsLeaveAndOffersMerge :
    let v := { tMode 15 2 tHw with units := { tHw.units with events := [(0x3FFF, 1)] } }
    let r : Rec := { way := 15, set := 0, log2k := 0, vtype := 2, smallest := false, valid := true }
    let e := { tAct .selOffer [.loc 15 0] [.merge] with req := { tReq .selOffer [.loc 15 0] with par := 1023, hdr := { type := 12, dfl := 1, arg2 := 0x12 }, pay := List.replicate 16 PWord.zero } }
    let w := tEnt 16383 e { tHw with units := { tHw.units with recs := [(1023, r)] } }
    let m := { w with units := { w.units with merge := [(3, (16383, 500000))] } }
    let n := { v with home := tHw.home }
    let u := { m with units := { m.units with recs := [] } }
    (running v = true ∧ v.units.events = (0x3FFF, 1) :: [] ∧ wayMode v (queWay 0x3FFF) = 2 ∧ setting v (queWay 0x3FFF) = none) ∧
    (n.units.events = (0x3FFF, 1) :: [] ∧ wayMode n (queWay 0x3FFF) ≠ 2 ∧ tHw.units.events = []) ∧
    (running w = true ∧ gavHolds w = false ∧ mergeNext w = some (16383, e) ∧ cFree w.units.merge 4 = some 0 ∧ recAt w e.req.par = some r) ∧
    (mergeNext tHw = none ∧ cFind tHw.units.merge 3 = none ∧ recAt u e.req.par = none ∧ clkA { m with cyc := 749999 } < 500000) ∧
    (gavHolds m = false ∧ cFind m.units.merge 3 = some (16383, 500000) ∧ 500000 ≤ clkA m ∧ ent m 16383 = some e ∧ recAt m e.req.par = some r ∧
      e.req.lines.length = recLines r.log2k ∧ r.log2k ≤ 6 ∧ (selCands e.req r.vtype).length = 1 ∧ m.diag.rq.length < 32) := by decide +kernel
theorem witness_GalopCommandsAct :
    let c : Cells Word := [(0x6060, 0x80000001), (0xE048, 0x01E00000), (0xE04C, 2)]
    let p := tMode 15 1 tHw
    let desc := fun (c : Cells Word) => (cfgGet c 0xE048).toNat / 64 * 64 + cf c 14 0x4C 19 0 * 2 ^ 32
    let st := fun (t : ChanSt) => { p with glp := { p.glp with chan := [(31, { Chan.idle with st := t })] } }
    let f : Fill := { next := 4, total := 4, pattern := 0, boot := true }
    let h := { tBoot .hold p with glp := { p.glp with fill := some f } }
    let x := { tBoot .extfill p with glp := { p.glp with fill := some f } }
    let y := { tBusy 14 p with glp := { p.glp with fill := some { f with boot := false, next := 3 } } }
    (running p = true ∧ desc c % 64 = 0 ∧ decodePa c p (desc c) = .pin 0 15 0 ∧ decodePa [] p (desc []) = .gate ∧
      pgBusy (tBusy 14 p) 14 = true ∧ pgBusy p 14 = false ∧ booting p = false ∧ booting (tBoot .power p) = true ∧ (chanAt p 31).st = .idle) ∧
    (∀ t ∈ [ChanSt.loading, .running, .draining, .done, .error, .stopped], (chanAt (st t) 31).st = t) ∧
    ((∀ j, j < 32 → (chanAt (tBoot .hold p) j).st ≠ .loading ∧ (chanAt (tBoot .hold p) j).st ≠ .running ∧ (chanAt (tBoot .hold p) j).st ≠ .draining) ∧
      pgBusy (tBoot .hold p) 14 = false ∧ (tBoot .hold p).rst.boot ≠ .ready ∧ p.rst.boot = .ready) ∧
    (running h = true ∧ h.glp.fill = some f ∧ f.total ≤ f.next ∧ x.glp.fill = some f ∧ x.rst.boot = .extfill ∧
      y.glp.fill = some { f with boot := false, next := 3 } ∧ p.glp.fill = none) := by
  decide +kernel

/-- A channel at work on a descriptor of one line operation: COPY from line 0 to line 1. -/
def tChan (t : ChanSt) : Chan :=
  { Chan.idle with st := t, desc := 2 ^ 33 + 15 * 2 ^ 21, words := [1, 0, 0, 0, 128, 0, 0, 0, 128, 0, 0, 0, 0, 0, 0, 0] }

/-- One operation of it in this stage. -/
def tGop (n : Nat) : GOp := { n := 0, elems := [], idx := none, buf := [], busy := false, stage := n }

/-- Channel 31 of a slice whose way 15 is pinned. -/
def tGlp (k : Chan) : Hw := tGate { tMode 15 1 tHw with glp := { tHw.glp with chan := [(31, k)] } }

/-- HMT entry 0 names this slice, or another one (slice 1); the pinned way is based at 2 ^ 33. -/
def tGlpCfg (far : Bool) : Cells Word := [(0x6060, 0x80000001), (0x28000, if far then 0x80000001 else 0x80000000)]

theorem witness_GalopRunsDescriptors :
    let g : GOp := { tGop 1 with elems := [] }
    let k := { tChan .running with ops := [{ tGop 1 with buf := [] }] }
    let full := { tGlp (tChan .running) with core := { tHw.core with adm := List.replicate 512 { tReq .readNoSnoop [] with sect := .lo } } }
    (running (tGlp (tChan .running)) = true ∧ gavBusy (tGlp (tChan .running)) = false ∧
      (tGlp (tChan .running)).glp.cyc ≠ some (now (tGlp (tChan .running))) ∧
      (chanNext [] (tChan .running)).isSome = true ∧ chanNext [] k = some g ∧
      (∀ j, j < 32 → (chanNext [] (chanAt (tGlp k) j)).isSome = true → j = 31)) ∧
    (decodePa (tGlpCfg false) (tGlp k) (glpReq k g).2.1 = .home ∧ marchedLine (tGlp k) (.pa 0) = false ∧ sectRoom (tGlp k) .lo = true ∧
      (tGlp k).core.dec = []) ∧ sectRoom full .lo = false ∧
    (decodePa (tGlpCfg true) (tGlp k) (glpReq k g).2.1 = .nohome ∧ farHome (tGlpCfg true) (glpReq k g).2.1 = some 1 ∧
      farHome [] (glpReq k g).2.1 = none ∧ (tGlp k).rst.id.toNat = 0) ∧ (∀ j, j < 32 → chanNext [] (chanAt tHw j) = none) := by decide +kernel
theorem witness_GalopRunsDescriptors_ends :
    (∀ e ∈ [(1, false), (0, true), (0, false)],
      let x := { tChan .loading with ops := [tGop 4], err := BitVec.ofNat 3 e.1, stop := e.2 }
      (chanAt (tGlp x) 31).st = .loading ∧ (chanAt (tGlp x) 31).ops = [tGop 4] ∧ (tGop 4).stage = 4) ∧
    (descCheck (tGlpCfg false) (tGlp (tChan .running)) { tChan .loading with words := [] }).isSome = true ∧
    descCheck [(0x6060, 0x80000001), (0x10800, 1)] (tGlp (tChan .running)) (tChan .loading) = none ∧
    (let x := { tChan .running with next := 1 }
     x.next = x.total ∧ x.ops = [] ∧ x.err = 0) ∧ (tGop 8).stage = 8 ∧
    (∀ e ∈ [(1, false, 0), (0, true, 0), (0, false, 0), (0, false, 64)],
      let x := { tChan .running with
        ops := [tGop 7], err := BitVec.ofNat 3 e.1, stop := e.2.1, words := [0x100, 0, 0, 0, 0, 0, 0, 0, 0, 0, BitVec.ofNat 32 e.2.2, 0] }
      (chanAt (tGlp x) 31).ops = [tGop 7] ∧ x.nextPa = e.2.2 ∧ bit (x.w 0) 8 = true ∧ bit ((tChan .running).w 0) 8 = false) := by decide +kernel
theorem witness_ReelCommandsAct :
    let s : List Word := [0, 0, 1, 0, 1, 0x100, 0, 4096]
    let c : Cells Word := [(0x10800, 1)]
    let m := { tHw with reel := { tHw.reel with mem := [(31, some 5)] } }
    let g := { m with ro := [(0xF088, 1), (0xF090, 1), (0xF094, 0x100), (0xF09C, 4096)] }
    let x : Ctx := { Ctx.none_ with st := .defined, words := s }
    let h := fun (x : Ctx) => { m with reel := { m.reel with ctx := [(63, x)] } }
    let d : Ctx := { Ctx.none_ with st := .defined, words := stageCtx g }
    (running g = true ∧ d.tile ≠ 0 ∧ ¬ (256 < d.tile) ∧ d.tiles ≠ 0 ∧ d.depth ≠ 0 ∧ ¬ (16 < d.depth) ∧
      ¬ (2 ^ 52 < d.src + (d.tiles - 1) * d.stride + d.tile * 4096) ∧ groupValid g d.group ≠ 0 ∧ (ctxAt g 63).st = .free ∧
      tcOf c (groupOf c d.label) ≠ 0 ∧ tcOf [(0x10800, 0)] (groupOf [(0x10800, 0)] d.label) = 0) ∧
    ({ Ctx.none_ with st := .defined, words := stageCtx tHw } : Ctx).tile = 0 ∧
    ((ctxAt (h x) 63).st = .defined ∧ ¬ (slotsFree (h x) < x.depth) ∧ groupValid (h x) x.group ≠ 0 ∧ booting (h x) = false ∧ 4096 ≤ (x.w 0x1C).toNat) ∧
    (let y := { x with words := s.set 7 4095 }
     (y.w 0x1C).toNat < 4096 ∧ y.started < y.total ∧ y.chunks = []) := by decide +kernel
theorem witness_ReelCommandsAct_states :
    let s : List Word := [0, 0, 1, 0, 1, 0x100, 0, 4096]
    let m := { tHw with reel := { tHw.reel with mem := [(31, some 5)] } }
    let x : Ctx := { Ctx.none_ with st := .defined, words := s }
    let k : Chunk := { k := 0, slot := 0, missing := [], unread := [], ready := true, next := 0, owed := [], flying := [] }
    let h := fun (x : Ctx) => { m with reel := { m.reel with ctx := [(63, x)] } }
    let n := { x with st := .running, words := s.set 5 0x20100 }
    ((ctxAt (h { x with st := .running, chunks := [k] }) 63).chunks ≠ []) ∧
    ((ctxAt (h n) 63).st = .running ∧ n.chunks = [] ∧ n.started < n.total ∧ n.notify = true ∧ ({ n with words := s } : Ctx).notify = false) ∧
    (∀ t ∈ [CtxSt.expired, .stopped, .done, .stopping], (ctxAt (h { x with st := t }) 63).st = t) ∧ (ctxAt tHw 63).st = .free ∧
    (∃ p ∈ (h n).reel.ctx, p.2.holds = true ∧ p.2.group = cf [] 15 0x4C 19 16) ∧
    ¬ (∃ p ∈ (h x).reel.ctx, p.2.holds = true ∧ p.2.group = cf [] 15 0x4C 19 16) := by decide +kernel

/-- A running context of one chunk. -/
def tRun : Ctx := { Ctx.none_ with st := .running, words := [0, 0, 1, 0, 1, 0x100, 0, 4096], lease := 4096, active := 1 }

/-- Its chunk. -/
def tChunk : Chunk := { k := 0, slot := 63, missing := [], unread := [], ready := false, next := 0, owed := [], flying := [] }

/-- Context 63 in this state. -/
def tReel (x : Ctx) : Hw := tGate { tHw with reel := { tHw.reel with ctx := [(63, x)] } }

theorem witness_ReelSendsChunks :
    let c : Cells Word := [(0x604C, 0), (0x28000, 0x80000000)]
    let full := { tReel tRun with core := { tHw.core with adm := List.replicate 512 { tReq .readNoSnoop [] with sect := .lo } } }
    let can := fun (j : Nat) => (ctxAt (tReel tRun) j).st = .running ∧ (ctxAt (tReel tRun) j).chunks.length < (ctxAt (tReel tRun) j).depth ∧
      4096 ≤ (ctxAt (tReel tRun) j).lease ∧ (ctxAt (tReel tRun) j).started < (ctxAt (tReel tRun) j).total
    (running (tReel tRun) = true ∧ gavBusy (tReel tRun) = false ∧ (tReel tRun).reel.cyc ≠ some (now (tReel tRun)) ∧ can 63 ∧
      (∀ j, j < 64 → can j → j = 63) ∧ tRun.chunks = [] ∧ sectUse (tReel tRun) .lo + 32 ≤ 512 ∧ (tReel tRun).core.dec = [] ∧
      (∀ l, l < 32 → decodePa c (tReel tRun) (tRun.linePa (32 * tRun.started + l)) = .home ∧
        marchedLine (tReel tRun) (.pa (tRun.linePa (32 * tRun.started + l) / 128)) = false)) ∧ sectRoom full .lo = false ∧
    (∀ j, j < 64 → (ctxAt tHw j).st ≠ .running) := by decide +kernel
theorem witness_ReelSendsChunks_sends :
    let y := { tRun with started := 1, chunks := [tChunk] }
    let z := { tRun with started := 1, chunks := [{ tChunk with ready := true }] }
    let w := { tRun with started := 1, chunks := [{ tChunk with ready := true, next := 32, owed := [(31, 0, 1)] }] }
    let f := { tRun with started := 1, chunks := [{ tChunk with ready := true, next := 32, flying := [(31, 1)] }] }
    let u := { tRun with started := 1, chunks := [{ tChunk with ready := true, next := 32 }] }
    (ctxAt (tReel y) 63).chunks.find? (fun k => k.missing.isEmpty && !k.ready) = some tChunk ∧
    (∀ v ∈ [(z, 0, none), (w, 31, some 0)], v.1.holds = true ∧ gavBusy (tReel v.1) = false ∧ cGet 0 (tReel v.1).reel.lists v.1.group = 0 ∧
      (nextChunkMsg v.1).map (fun p => (p.2.1, p.2.2)) = some (v.2.1, v.2.2) ∧ (tReel v.1).diag.rq.length < 32) ∧
    (f.chunks.find? (fun k => decide (k.k = 0)) = f.chunks.head? ∧
      (f.chunks.flatMap (·.flying)).find? (fun f => decide (f.1 = 31)) = some (31, 1)) ∧
    (u.holds = true ∧ (u.chunks.all (·.complete u.active)) = true ∧ (z.chunks.all (·.complete z.active)) = false) ∧
    (nextChunkMsg tRun = none ∧ (ctxAt (tReel z) 63).chunks.all (fun k => k.ready) = true) := by decide +kernel

/-! ### Witnesses: protection -/

/-- A scrub pass over way 15 and every set. -/
def tScrub : Scrub := { mask := 0x8000, first := 0, count := 16384, next := [], pend := [], wait := [], left := 0, stop := false }

/-- A scrub pass is under way. -/
def tScrubs (p : Scrub) (h : Hw) : Hw := { h with prot := { h.prot with scrub := some p } }

theorem witness_ScrubbingCheckingAndRemapCommandsAct :
    let c : Cells Word := [(0x11048, 0x8000), (0x1104C, 0x40000000)]
    let q := { tOp 31 0 false with own := .scrub }
    let b := tScrubs tScrub (tBank 31 { Bank.idle with fly := [q] } tHw)
    (running tHw = true ∧ cf c 17 0x48 15 0 ≠ 0 ∧ cf c 17 0x4C 30 16 ≠ 0 ∧ cf c 17 0x4C 13 0 + cf c 17 0x4C 30 16 = 16384 ∧
      cf [(0x11048, 0)] 17 0x48 15 0 = 0 ∧ cf [(0x1104C, 0)] 17 0x4C 30 16 = 0 ∧
      16384 < cf [(0x1104C, 0x40000001)] 17 0x4C 13 0 + cf [(0x1104C, 0x40000001)] 17 0x4C 30 16) ∧
    pgBusy (tBusy 17 tHw) 17 = true ∧ pgBusy tHw 17 = false ∧ booting (tBoot .fill tHw) = true ∧ tHw.prot.scrub = none ∧
    ((tScrubs tScrub tHw).prot.scrub = some tScrub ∧ tScrub.stop = false ∧ tScrub.pend.contains 31 = false ∧
      gavBusy (tScrubs tScrub tHw) = false ∧ cGet 0 tScrub.next 31 < scrubRows tScrub 31 ∧ wayMode (tScrubs tScrub tHw) (31 / 2) ≠ 3 ∧
      setting (tScrubs tScrub tHw) (31 / 2) = none ∧ marchDestroys (tScrubs tScrub tHw) 31 = false ∧
      (place (tScrubs tScrub tHw) (31 / 2) (scrubAt tScrub 31 0).1 (scrubAt tScrub 31 0).2).1 = 31 ∧ (bank (tScrubs tScrub tHw) 31) = Bank.idle) ∧
    wayMode (tMode 15 3 tHw) (31 / 2) = 3 ∧ ((bank b 31).fly = [q] ∧ q.own = .scrub) := by decide +kernel
theorem witness_ScrubbingCheckingAndRemapCommandsAct_others :
    let k : Cells Word := [(0x11044, 0x80000000), (0x1106C, 0xF0000000)]
    let e := { tHw with units := { tHw.units with chkEnd := true, lrtEnd := some 0 } }
    let l := { tHw with prot := { tHw.prot with lrt := [(31, (15, 16383, 31))] } }
    (∀ x ∈ [{ tScrub with stop := true }, { tScrub with mask := 0 }], x.pend = [] ∧ x.wait = [] ∧ x.left = 0 ∧
      (x.stop = true ∨ ∀ b, b < 32 → scrubRows x b ≤ cGet 0 x.next b ∨ scrubSkips (tScrubs x tHw) b = true)) ∧
    (cf k 17 0x44 31 31 = 1 ∧ wayMode tHw (fld (cfgGet k 0x1106C) 31 28) = 0 ∧ booting tHw = false ∧
      wayMode (tMode 15 3 tHw) (fld (cfgGet k 0x1106C) 31 28) = 3) ∧
    (e.units.chkEnd = true ∧ e.units.lrtEnd = some 0 ∧ tHw.units.chkEnd = false ∧ tHw.units.lrtEnd = none) ∧
    (pgBusy (tBusy 19 tHw) 19 = true ∧ pgBusy tHw 19 = false) ∧
    (setting tHw 15 = none ∧ tHw.prot.dis = none ∧ bankMarched tHw (bankOf 15 16383) = false ∧ lrtEntry tHw 15 16383 = none ∧
      lrtFree tHw = some 0 ∧ spareFree tHw = some 0) ∧ lrtEntry l 15 16383 = some 31 := by decide +kernel

/-- A tag of set 16383. -/
def tTag : Tag := { tag := 5, valid := true, d0 := true, d1 := false, pre := false, err := 0 }

/-- A row of bank 31 that waits for its repair. -/
def tRetry : Retry := { bank := 31, row := 16383, words := [(31, 1)], rid := 5, scrub := true }

/-- A repair of that row, which decides, with the classes of word 31 on the fresh read and on the check. -/
def tRep (par aux : Nat) (cls : List (Nat × Nat)) : Ent :=
  { tAct .repair [.pa (lineAt 16383 5)] [.step] with
    aux := aux, buf := cls.map (fun p => (32 * clsLine p.1 + 31, pwEnc ⟨BitVec.ofNat 32 p.2, false⟩))
    req := { tReq .repair [.pa (lineAt 16383 5)] with par := par } }

/-- Its line is in way 15. -/
def tRepHw (e : Ent) : Hw := tEnt 16383 e { tHw with home := { tHw.home with tags := [(16 * 16383 + 15, tTag)] } }

theorem witness_RepairsDecide :
    let a := { tHw with prot := { tHw.prot with retry := [tRetry] } }
    let w := tScrubs { tScrub with wait := [tRetry] } tHw
    let p := 31 * 16384 + 16383
    tHw.prot.retry = [] ∧ (running a = true ∧ a.prot.retry = tRetry :: [] ∧ gavBusy a = false ∧ rowPlace a 31 16383 = some (15, 16383) ∧
      wayMode a 15 ≠ 3 ∧ setting a 15 = none ∧ ent a 16383 = none ∧ poolUse a .gen < poolCap .gen) ∧ wayMode (tMode 15 3 a) 15 = 3 ∧
    a.prot.scrub = none ∧ (w.prot.scrub = some { tScrub with wait := [tRetry] } ∧ w.prot.retry = []) ∧
    (running (tRepHw (tRep p 0 [])) = true ∧ ent (tRepHw (tRep p 0 [])) 16383 = some (tRep p 0 []) ∧ (tRep p 0 []).active = true ∧
      (tRep p 0 []).todo.head? = some .step ∧ gavHolds (tRepHw (tRep p 0 [])) = false ∧ (tRep p 0 []).aux = 0 ∧ repErrs (tRep p 0 []) = [] ∧
      (tRepHw (tRep p 0 [])).diag.rq.length < 26) ∧
    (repErrs (tRep p 0 [(0, 1)]) = [31] ∧ repClean (tRepHw (tRep p 0 [(0, 1)])) (tRep p 0 [(0, 1)]) = some (lineAt 16383 5) ∧
      (∀ n ∈ repErrs (tRep p 0 [(0, 1)]), clsAt (tRep p 0 [(0, 1)]) 0 n ≠ 3)) ∧
    (repClean (tRepHw (tRep p 0 [(0, 3)])) (tRep p 0 [(0, 3)]) = some (lineAt 16383 5) ∧ ∃ n ∈ repErrs (tRep p 0 [(0, 3)]), clsAt (tRep p 0 [(0, 3)]) 0 n = 3) := by
  decide +kernel
theorem witness_RepairsDecide_checks :
    let p := 31 * 16384 + 16383
    let bad := tRep p 1 [(0, 1), (2, 1)]
    let sp := tRep (32 * 16384 + 63) 1 [(0, 1), (2, 1)]
    let d := fun (e : Ent) => tEnt 16383 e { tHw with prot := { tHw.prot with lrt := [(31, (15, 16383, 31))] } }
    (∀ q ∈ repWritten (tRep p 1 [(0, 1)]), clsAt (tRep p 1 [(0, 1)]) 2 q.1 = 0) ∧
    (¬ (∀ q ∈ repWritten bad, clsAt bad 2 q.1 = 0 ∨ (clsAt bad 2 q.1 = 2 ∧ q.2.poi = true)) ∧ repBank bad < 32 ∧
      lrtSpare (tRepHw bad) 15 16383 = none ∧ lrtFree (tRepHw bad) = some 0 ∧ spareFree (tRepHw bad) = some 0 ∧ lrtSpare (d bad) 15 16383 = some 31) ∧
    (¬ (∀ q ∈ repWritten sp, clsAt sp 2 q.1 = 0 ∨ (clsAt sp 2 q.1 = 2 ∧ q.2.poi = true)) ∧ 32 ≤ repBank sp ∧ repPlace (d sp) sp = some (15, 16383) ∧
      repPlace tHw sp = none) ∧ ent tHw 16383 = none := by decide +kernel

/-- A way that is being disabled. -/
def tDis (x : DisStep) : Hw := { tHw with prot := { tHw.prot with dis := some (15, x) } }

theorem witness_WaysAreDisabled :
    let w := { tHw with prot := { tHw.prot with disWait := [(15, 499999)] } }
    let now_ := { tHw with prot := { tHw.prot with disWait := [(15, 500000)] } }
    let v := { tDis (.walk 16383 0 999999) with home := { tHw.home with tags := [(16 * 16383 + 15, tTag)] } }
    let r : SetRun := { way := 15, mode := 3, old := 0, step := .powerOff, arr := 0, auto := true }
    let o := tPwr 30 { Pwr.start with st := .off, req := false } (tPwr 31 { Pwr.start with dead := true } { tHw with rst := { tHw.rst with setRun := some r } })
    (running w = true ∧ (15, 499999) ∈ w.prot.disWait ∧ 499999 < clkC w ∧ w.prot.dis = none ∧ pgBusy w 7 = false ∧ wayMarched w 15 = false ∧
      gavBusy w = false ∧ w.rst.boot ≠ .power ∧ w.rst.boot ≠ .fill ∧ wayMode w 15 = 0 ∧ ¬ (15 ∈ w.home.locked)) ∧
    (∀ d ∈ now_.prot.disWait, d.1 = 15 → ¬ d.2 < clkC now_) ∧ wayMode (tMode 15 3 w) 15 = 3 ∧
    (wayMode (tMode 15 1 w) 15 = 1 ∧ (pwr (tMode 15 1 w) (2 * 15)).dead = false ∧ (pwr (tMode 15 1 w) (2 * 15 + 1)).dead = false ∧
      bit (roGet (tMode 15 1 w) 0x11098) 15 = false ∧ (tMode 15 1 w).diag.rq = []) ∧
    ((tDis (.walk 16383 0 999999)).prot.dis = some (15, .walk 16383 0 999999) ∧ gavBusy (tDis (.walk 16383 0 999999)) = false ∧
      999999 ≠ clkM (tDis (.walk 16383 0 999999)) + 1 ∧ (tagAt (tDis (.walk 16383 0 999999)) 16383 15).valid = false) ∧
    ((tagAt v 16383 15).valid = true ∧ pickPool v false true = some .gen ∧ ent v 16383 = none) ∧
    ((∀ p ∈ (tDis (.walk 16384 0 0)).near.alb, lineIn (tDis (.walk 16384 0 0)) 15 p.2.line = false) ∧
      ∀ p ∈ (tDis (.walk 16384 0 0)).near.jig, p.2.way ≠ 15) ∧
    (running o = true ∧ o.rst.setRun = some r ∧ r.way = 15 ∧ r.auto = true ∧ r.step = .powerOff ∧ o.diag.rq = [] ∧ (pwr o 30).st = .off ∧
      (pwr o 31).dead = true) ∧ (tHw.prot.dis = none ∧ tHw.rst.setRun = none) := by decide +kernel

/-- A march is under way. -/
def tMarches (x : March) (h : Hw) : Hw := { h with prot := { h.prot with march := some x } }

theorem witness_MarchPassesRun :
    let d : Cells Word := [(0x12040, 1), (0x12044, 0x80000000)]
    let p : Cells Word := [(0x12044, 0x80000000)]
    let g := tMode 15 1 tHw
    let h := tGav { Gav.init with step := .hold } tHw
    (running tHw = true ∧ cfgGet [] 0x12044 = 0 ∧ cf [] 18 0x40 1 1 ≠ 1) ∧
    (cfgGet d 0x12044 ≠ 0 ∧ pgBusy (tBusy 18 tHw) 18 = true ∧ pgBusy tHw 18 = false) ∧ (wayMode tHw (31 / 2) = 0 ∧ cf d 18 0x40 0 0 = 1) ∧
    (booting g = false ∧ cf d 18 0x40 1 1 ≠ 1 ∧ g.prot.dis = none ∧ gavBusy g = false ∧
      ¬ (∃ b, b < 32 ∧ bit (cfgGet d 0x12044) b = true ∧ (wayMode g (b / 2) = 3 ∨ (setting g (b / 2)).isSome = true ∨
        wayMode g (b / 2) = 0 ∨ wayRecord g (b / 2) = true ∨ wayQueue g (b / 2) = true))) ∧
    (cf p 18 0x40 0 0 ≠ 1 ∧ nextBank (cfgGet p 0x12044) 0 = some 31 ∧ tHw.prot.dis = none ∧
      ¬ (∃ b, b < 32 ∧ bit (cfgGet p 0x12044) b = true ∧ (wayMode tHw (b / 2) = 3 ∨ (setting tHw (b / 2)).isSome = true))) ∧
    (running h = true ∧ gavBusy h = true ∧ booting h = false ∧ pgBusy h 18 = false) ∧ tHw.prot.march = none := by decide +kernel
theorem witness_MarchPassesRun_rows :
    let x := { tMarch with banks := 0x80000000, op := 11, row := 16383 }
    let z := { x with op := 6, row := 0 }
    let y := { tMarch with destroy := false, banks := 0x80000000, bank := 31, row := 16383, op := 7 }
    let last := { y with op := 9 }
    let o := { tOp 31 0 false with own := .march }
    ((tMarches x tHw).prot.march = some x ∧ pgBusy (tBusy 18 (tMarches x tHw)) 18 = true) ∧
    (∀ m ∈ [x, z], m.wait = false ∧ m.destroy = true ∧ m.op < 12 ∧ m.stop = false ∧ gavBusy (tMarches m tHw) = false) ∧ x.op % 6 ≠ 0 ∧ z.op % 6 = 0 ∧
    { x with wait := true }.wait = true ∧
    (∀ m ∈ [y, last], (bank (tMarches m (tBank 31 { Bank.idle with fly := [o] } tHw)) m.bank).fly = o :: [] ∧ o.own = .march ∧ m.wait = false ∧ m.destroy = false) ∧
    (¬ (y.op = 9 ∨ (y.op = 8 ∧ mappedRow tHw y.bank y.row = true ∧ y.saved = false)) ∧ last.op = 9) ∧
    (x.boot = false ∧ x.endAt ≤ clkM (tMarches x tHw)) ∧ ({ y with op := 10 } : March).op = 10 ∧ (nextBank x.banks (31 + 1) = none ∧ x.row ≤ 16384) ∧
    (bit x.banks 31 = true ∧ ¬ (31 * 16384 + 16383 ∈ x.rows) ∧ bit x.banks 0 = false) := by decide +kernel
theorem witness_MarchPassesRun_fails :
    let l := { tHw with prot := { tHw.prot with lrt := [(31, (15, 16383, 31))] } }
    (31 < 33 ∧ 16383 < 16384 ∧ tHw.diag.rq.length < 28) ∧ (lrtSpare tHw (31 / 2) (2 * (16383 / 2) + 31 % 2) = none ∧ lrtFree tHw = some 0 ∧ spareFree tHw = some 0) ∧
    (lrtSpare l (31 / 2) (2 * (16383 / 2) + 31 % 2)).isSome = true ∧ rowPlace tHw 32 63 = none ∧
    (rowPlace l 32 63 = some (15, 16383) ∧ lrtEntry l 15 16383 = some 31 ∧
      spareFree (roPut 0x13044 (setBit (roGet l 0x13044) (63 / 2) true) l) = some 0) := by decide +kernel

/-! ### Witnesses: logs, regulation, Gavotte, the Vertical Port -/

/-- A report. -/
def tReport (k src : Nat) : Report :=
  { kind := k, place := false, src := src, cls := 0, wmask := 0, rid := 0, cyc := 0, count := 1, last := 0, lastCyc := 0, reach := 499999, iseq := 0
    lreach := 499999, lseq := 0 }

/-- The report queue and the log. -/
def tLog (l : List Report) (g : Cells LogEnt) : Hw := { tHw with diag := { tHw.diag with rq := l, log := g } }

/-- A full log. -/
def tFull : Cells LogEnt := (List.range 64).map (fun i => (i, { rep := tReport 1 i, seq := 0 }))

/-- The log in a CLK_C cycle in which this report has been applied. -/
def tLate (g : Cells LogEnt) (b : Cells Nat) (r : Report) : Hw :=
  { tHw with diag := { tHw.diag with log := g, before := b, rqCyc := 500000, rqNum := 1, late := [r] } }

theorem witness_LogsAndRegulationAct :
    let r := tReport 0xB 31
    (running (tLog [r] []) = true ∧ (tLog [r] []).diag.rqCyc ≠ clkC (tLog [r] []) ∧ r.reach < clkC (tLog [r] []) ∧ logFind (tLog [r] []) r = none ∧
      cFree (tLog [r] []).diag.log 64 = some 0) ∧
    (logFind (tLog [r] [(63, { rep := r, seq := 9 })]) r = some (63, { rep := r, seq := 9 })) ∧
    (logFind (tLog [r] tFull) r = none ∧ cFree (tLog [r] tFull).diag.log 64 = none) ∧
    ((tLog [r, tReport 1 1] tFull).diag.rq = r :: tReport 1 1 :: [] ∧ r.sameSig (tReport 1 1) = false ∧ r.sameSig r = true ∧
      cRising 0 tFull = true ∧ (logFind (tLog [] tFull) (tReport 1 1)).isSome = true ∧ (logFind (tLog [] tFull) (tReport 1 63)).isSome = true) ∧
    ((tLog [{ r with reach := 500000 }] []).diag.rq.head? = some { r with reach := 500000 } ∧ clkC (tLog [] []) ≤ 500000) ∧
    (cFind tFull 63 = some { rep := tReport 1 63, seq := 0 } ∧ (tReport 1 63).count = (1#16).toNat ∧ cFind tHw.diag.log 63 = none) := by decide +kernel
theorem witness_LogsAndRegulationAct_sameCycle :
    let r := tReport 1 63
    let h := tLate tFull [(63, 1)] r
    let o := tLate [(63, { rep := r, seq := 0 })] [(63, 1)] r
    (h.diag.rqCyc = clkC h ∧ cFind h.diag.log 63 = some { rep := r, seq := 0 } ∧ cFind h.diag.before 63 = some (1#16).toNat ∧
      h.diag.late.filter (fun x => x.sameSig r) = [r] ∧ (∀ x ∈ h.diag.log, x.1 ≠ 63 → x.2.rep.sameSig r = false) ∧
      cFree (cDel h.diag.log 63) 64 = some 63) ∧
    (o.diag.log = [(63, { rep := r, seq := 0 })] ∧ o.diag.late.filter (fun x => x.sameSig r) = [r]) ∧ tHw.diag.late = [] := by decide +kernel
theorem witness_LogsAndRegulationAct_others :
    let w := { tRo 0x15048 511 (tRo 0x1504C 1 { tHw with cyc := 2 ^ 20 + 17 }) with qos := { tHw.qos with log2w := 8, boundary := 0 } }
    let f : FltHit := { iseq := 3, kind := 1, atype := 0, page := 5, win := 0, rid := 7, label := 0, num := 0 }
    let h := tRo 0x1504C 1 { tHw with diag := { tHw.diag with fltCyc := 2000000, fltNow := [f], fltTail := 0 } }
    ((fld (1 : Word) 8 0 + 512 - fld (roGet w 0x15048) 8 0) % 512 ≤ (fld (roGet w 0x1504C) 8 0 + 512 - fld (roGet w 0x15048) 8 0) % 512 ∧
      ¬ ((fld (2 : Word) 8 0 + 512 - fld (roGet w 0x15048) 8 0) % 512 ≤ (fld (roGet w 0x1504C) 8 0 + 512 - fld (roGet w 0x15048) 8 0) % 512)) ∧
    (h.diag.fltCyc = now h ∧ h.diag.fltNow = [f] ∧ f.num ≠ 0xFFF ∧ h.diag.fltTail < 512 ∧
      (fld (0 : Word) 8 0 + 512 - fld (roGet h 0x15048) 8 0) % 512 ≤ (h.diag.fltTail + 512 - fld (roGet h 0x15048) 8 0) % 512 ∧
      (let at_ := roPut 0x1504C 0 (roPut 0x15048 0 h)
       fltFind at_ 1 0 5 0 = none ∧ fltOcc at_ ≠ 256)) ∧
    (w.qos.boundary < now w / 2 ^ min 16 (max 8 (cf [(0x10044, 16)] 16 0x44 4 0)) * 2 ^ min 16 (max 8 (cf [(0x10044, 16)] 16 0x44 4 0)) ∧
      ¬ (2 ^ 20 : Nat) < now w / 2 ^ 16 * 2 ^ 16) ∧
    (fld (0x00200008 : Word) 3 0 ≤ 8 ∧ fld (0x00200008 : Word) 24 16 * fld (0x00200008 : Word) 3 0 ≤ 256 ∧
      256 < fld (0x00210008 : Word) 24 16 * fld (0x00210008 : Word) 3 0 ∧ 8 < fld (9 : Word) 3 0) := by decide +kernel

/-- Gavotte in this step since 256 CLK_C cycles. -/
def tStep (t : GavStep) : Gav := { Gav.init with step := t, stepCyc := 1998976, start := 1998976 }

/-- An active entry that has sent a snoop to agent 9. -/
def tSnoops (st : SnpSt) : Ent := { tAct .readOwn [.pa 7] [.snp] with snp := [{ cai := 9, kind := .own, st := st, cyc := 0 }] }

theorem witness_GavotteRunsItsSteps :
    let h := tGav (tStep .hold) tHw
    let s := tEnt 16383 { tSnoops .out with err1 := 1, err2 := 2 } (tGav { tStep .sort with xing := [9], banks := [31] } tHw)
    let b := tPwr 31 { Pwr.start with req := true, since := 1999744 } (tGav { tStep .repair with tried := [31] } tHw)
    let c : Cells Word := [(0x7058, 64), (0x16040, 256)]
    (running (tBusy 22 tHw) = true ∧ pgBusy (tBusy 22 tHw) 22 = true ∧ pgBusy tHw 22 = false ∧ tHw.diag.gav.step = .idle ∧ tHw.diag.gav.failed = false) ∧
    (h.diag.gav.step = .hold ∧ h.diag.gav.failed = false ∧ finishing h = false ∧ gavWaits h = false ∧ cf c 22 0x40 15 0 ≤ clkC h - h.diag.gav.stepCyc / 4 ∧
      ¬ (cf [(0x16040, 257)] 22 0x40 15 0 ≤ clkC h - h.diag.gav.stepCyc / 4)) ∧
    (running s = true ∧ s.diag.gav.step = .sort ∧ s.diag.gav.failed = false ∧ 256 ≤ clkC s - s.diag.gav.stepCyc / 4 ∧ s.diag.gav.xing = [9] ∧
      s.diag.rq.length + 2 * s.core.tt.length ≤ 32 ∧ cRising 0 s.ports.xin = true ∧ s.ports.cut = [] ∧ ttClean { tSnoops .out with err1 := 1, err2 := 2 } = false) ∧
    (b.diag.gav.step = .repair ∧ 31 ∈ b.diag.gav.tried ∧ (pwr b 31).req = true ∧ (pwr b 31).dead = false ∧
      (pwr b 31).since / 4 + cf c 7 0x58 15 0 ≤ clkC b ∧ (bank b 31).pend = [] ∧ b.diag.rq = [] ∧ wayMode b 15 = 0) ∧
    (256 ≤ clkC (tGav (tStep .replay) tHw) - (tGav (tStep .replay) tHw).diag.gav.stepCyc / 4) := by decide +kernel
theorem witness_GavotteRunsItsSteps_repair :
    let r := fun (l : List (Nat × Nat × BitVec 12)) (e : Ent) => tEnt 16383 e (tGav { tStep .repair with lost := l } tHw)
    let w := { tAct .readNoSnoop [.pa 7] [.rd 15 0 3 0] with did := [.rd 15 0 1 0] }
    let d := { tSnoops .out with err1 := 3, err2 := 3 }
    let a := { tAct .readOwn [.pa 0] [.ack] with compSent := true, committed := true, req := { tReq .readOwn [.pa 0] with hdr := { type := 2, arg2 := 9 } } }
    (∀ p ∈ [([], w), ([], tSnoops .out), ([(16383, 0, 9#12)], tSnoops .out), ([(16383, 1, 9#12)], tSnoops .wb), ([(16383, 2, 9#12)], a)],
      (r p.1 p.2).diag.gav.step = .repair ∧ repairsDone (r p.1 p.2) = true ∧ (r p.1 p.2).diag.gav.lost = p.1 ∧ ent (r p.1 p.2) 16383 = some p.2 ∧
      (∀ q ∈ (r p.1 p.2).core.tt, q.1 = 16383 → q.2 = p.2) ∧ (∀ q ∈ (r p.1 p.2).core.tt, ttLost q.2 = false)) ∧
    (restarts w = true ∨ restarts (tSnoops .out) = false) ∧
    ((tSnoops .wb).snp.find? (fun z => (z.cai == 9) && (z.st == .wb)) = some { cai := 9, kind := .own, st := .wb, cyc := 0 } ∧
      lineOf (tSnoops .wb) 0 = .pa 7 ∧ a.committed = true ∧ awaitsAck (r [] a) 16383 9 = true) ∧
    (ent (r [] d) 16383 = some d ∧ (r [] d).core.tt.filter (fun p => ttLost p.2) = [(16383, d)] ∧ repairsDone (r [] d) = true ∧
      (r [] d).diag.rq.length + 1 + d.req.lines.length ≤ 32) := by decide +kernel
theorem witness_GavotteRunsItsSteps_release :
    let g := { tStep .release with stepCyc := 1999996 }
    let h := tGav g tHw
    let e := tEnt 16383 (tSnoops .again) h
    let l := { h with glp := { h.glp with late := [(.glp 31 0 false, 0, [])] } }
    let m := { h with reel := { h.reel with late := [(63, 0, 31, 1)] } }
    let w := { h with prot := { h.prot with march := some { tMarch with wait := true } } }
    let n := tGav { g with next := 1 } tHw
    (running h = true ∧ h.diag.gav.step = .release ∧ 1 ≤ clkC h - h.diag.gav.stepCyc / 4 ∧ h.glp.late = [] ∧ h.reel.late = [] ∧
      h.prot.march = none ∧ h.diag.gav.next = 0 ∧ h.home.fenced = [] ∧ (∀ p ∈ h.core.tt, ∀ x ∈ p.2.snp, x.st ≠ .again)) ∧
    (ent e 16383 = some (tSnoops .again) ∧ (∀ p ∈ e.core.tt, p.1 = 16383 → p.2 = tSnoops .again) ∧
      (∀ p ∈ e.core.tt, p.1 ≠ 16383 → ∀ x ∈ p.2.snp, x.st ≠ .again) ∧
      (tSnoops .again).snp.filter (fun z => z.st == .again) = [{ cai := 9, kind := .own, st := .again, cyc := 0 }]) ∧
    (l.glp.late = [(.glp 31 0 false, 0, [])] ∧ l.reel.late = []) ∧ (m.glp.late = [] ∧ m.reel.late = [(63, 0, 31, 1)]) ∧
    (w.prot.march = some { tMarch with wait := true } ∧ w.glp.late = []) ∧ (n.diag.gav.next ≠ 0 ∧ n.diag.gav.failed = false) := by decide +kernel

/-- A kept frame. -/
def tFrame (n : Nat) : Frame := { seq := n, crd := [], slots := [], notes := [], cyc := 0, replays := 4 }

theorem witness_LinkRunsAndLosses :
    let v := fun (t : VpState) (r : List Frame) => tVp { Vp.init with state := t, replay := r } tHw
    let never := [{ tFrame 0 with replays := 0, cyc := 2000000 }]
    let once := [{ tFrame 0 with replays := 0, cyc := 1999000 }]
    let c : Cells Word := [(0x3044, 0x3E8400)]
    let often := fun (h : Hw) => h.vp.replay.any (fun f => decide (max 1 (cf c 3 0x44 11 8) ≤ f.replays))
    let late := fun (h : Hw) => match h.vp.replay.head? with | some f => decide (f.cyc + cf c 3 0x44 23 12 ≤ now h) | none => false
    (∀ t ∈ [VpState.disabled, .training, .up, .down], running (v t never) = true ∧ (v t never).diag.rq = [] ∧
      (v t never).diag.gav.step = .idle ∧ (v t never).diag.gav.failed = false ∧ (v t never).vp.state = t ∧ (v t never).vp.lossAt = none) ∧
    (often (v .up [tFrame 0]) = true) ∧ (often (v .up once) = false ∧ late (v .up once) = true) ∧
    (often (v .up never) = false ∧ late (v .up never) = false) ∧
    (∀ t ∈ [GavStep.hold, .sort, .release], (tGav (tStep t) (v .up never)).diag.gav.step = t) ∧
    (tGav { Gav.init with failed := true } (v .up never)).diag.gav.failed = true := by decide +kernel
/-- Losses of this CLK_C cycle: of RETRAIN, of DISABLE, of a lost marker, and one of the CLK_C cycle before. -/
theorem witness_LinkRunsAndLosses_same :
    let at_ := fun (l : LossRec) (r : List Report) => { tLog r [] with vp := { Vp.init with lossAt := some l, replay := [tFrame 0] } }
    let l := fun (c k : Nat) => ({ cyc := 2000000, cls := c, src := 7, code := k } : LossRec)
    let r := { tReport 0xD 7 with cls := 4, reach := 500000 }
    (∀ k ∈ [1, 2], (l 4 k).cls = 4 ∧ (l 4 k).cyc / 4 = clkC (at_ (l 4 k) [r]) ∧ running (at_ (l 4 k) [r]) = true ∧
      (at_ (l 4 k) [r]).vp.state ≠ .up ∧ (at_ (l 4 k) [r]).vp.lossAt = some (l 4 k) ∧ (at_ (l 4 k) [r]).diag.rq = [r] ∧
      r.kind = 0xD ∧ r.src = (l 4 k).src ∧ r.cls = (l 4 k).cls ∧ r.reach = clkC (at_ (l 4 k) [r])) ∧
    (l 4 1).code = 1 ∧ (l 4 2).code ≠ 1 ∧ (at_ (l 4 1) []).diag.rq = [] ∧
    ((l 3 0).cyc = now (at_ (l 3 0) []) ∧ (l 3 0).cls ≠ 4 ∧ 2 < (l 3 0).cls) ∧
    ({ l 3 0 with cyc := 1999996 } : LossRec).cyc ≠ now (at_ (l 3 0) []) := by decide +kernel

/-- Control bits with these CRC bits. -/
def tCtl (x : BitVec 128) (crc : Nat) : BitVec 128 := x + BitVec.ofNat 128 (crc <<< 112)

/-- The control wires of a frame with these control bits. -/
def tBeats (x : BitVec 128) : List (BitVec 18) := (List.range 8).map (fun b => ((x >>> (16 * b)).setWidth 16).setWidth 18)

theorem frameCrc_two (c : BitVec 128) (a b : FlitBits) :
    frameCrc c [a, b] = crcBits b.toNat 512 (crcBits a.toNat 512 (crcBits c.toNat 112 0xFFFF)) := by
  rw [frameCrc, List.foldl_cons, List.foldl_cons, List.foldl_nil]

/-- A port that is up at the narrowest width, with receive groups 0 to 3. -/
def tUp : Vp := { Vp.init with state := .up, width := 0, gmaskRx := 0xF }

theorem witness_FramesAreTakenAndSent :
    let full := (List.range 64).map tFrame
    (running (tVp tUp tHw) = true ∧ (tVp tUp tHw).vp.state = .up ∧ (tVp Vp.init tHw).vp.state ≠ .up ∧ tUp.txCyc = 0) ∧
    (let r := { tUp with resend := [1], replay := full, txCyc := 1999996 }
     r.txCyc + 4 ≤ now (tVp r tHw) ∧ r.resend = 1 :: [] ∧ r.replay.find? (fun f => decide (f.seq = 1)) = some (tFrame 1) ∧
      ({ r with replay := [] } : Vp).replay.find? (fun f => decide (f.seq = 1)) = none) ∧
    (¬ ({ tUp with txCyc := 1999997 } : Vp).txCyc + 4 ≤ now (tVp tUp tHw)) ∧
    (({ tUp with replay := full } : Vp).resend = [] ∧ 64 ≤ full.length ∧ tUp.replay.length < 64) := by decide +kernel
/-- That port with a message that may leave in VC 2. -/
def tSent : Hw := tVp tUp { tHw with ports := { tHw.ports with
  eg := [(18, [{ hdr := { type := 1 }, pay := [] }])], crd := [(18, 1)] } }
theorem witness_FramesAreTakenAndSent_wires :
    (ones tUp.gmaskRx.toNat 16 = 4 * (tUp.width % 4 + 1) ∧ ones Vp.init.gmaskRx.toNat 16 ≠ 3) ∧ spareFor 0x100000 1 = some 0 ∧ spareFor 0x7E00 0 = some 31 ∧
    pickVc [] (tVp tUp tHw) .vp false = none ∧ (pickVc [] tSent .vp false).isSome = true := by decide +kernel
/-- Beats of frame 0, of another frame, and of the other frame with an acknowledgement of frame 2, as they are received; the CRC that each
has, stage by stage; and a frame whose CRC is wrong. -/
theorem witness_FramesAreTakenAndSent_good : ∀ p ∈ [((0 : BitVec 128), 42597), (0x3FF <<< 48, 22129), (0x3FF <<< 48 ||| 1 <<< 68 ||| 2 <<< 58, 7004)],
    let beats := (tBeats (tCtl p.1 p.2)).zipWith rxWires (List.replicate 8 0)
    rxCtl tUp beats = tCtl p.1 p.2 ∧ rxSlots tUp beats = [0, 0] ∧ fld (tCtl p.1 p.2) 127 112 = p.2 ∧ (tCtl p.1 p.2).toNat % 2 ^ 112 = p.1.toNat := by
  decide +kernel
theorem tCtl_crc (x : BitVec 128) (crc a b c : Nat) (h : crcBits (tCtl x crc).toNat 112 0xFFFF = a) (ha : crcBits 0 512 a = b)
    (hb : crcBits 0 512 b = c) : frameCrc (tCtl x crc) [0, 0] = c := by
  have z : BitVec.toNat (0 : FlitBits) = 0 := by decide +kernel
  rw [frameCrc_two, h, z, ha, hb]
theorem witness_FramesAreTakenAndSent_crc_0 : frameCrc (tCtl 0 42597) [0, 0] = 42597 :=
  tCtl_crc _ _ 43370 51465 _ (by decide +kernel) (by decide +kernel) (by decide +kernel)
theorem witness_FramesAreTakenAndSent_crc_1 : frameCrc (tCtl (0x3FF <<< 48) 22129) [0, 0] = 22129 :=
  tCtl_crc _ _ 19248 17046 _ (by decide +kernel) (by decide +kernel) (by decide +kernel)
theorem witness_FramesAreTakenAndSent_crc_2 : frameCrc (tCtl (0x3FF <<< 48 ||| 1 <<< 68 ||| 2 <<< 58) 7004) [0, 0] = 7004 :=
  tCtl_crc _ _ 28937 56813 _ (by decide +kernel) (by decide +kernel) (by decide +kernel)
theorem witness_FramesAreTakenAndSent_bad : frameCrc (tCtl 0 0) [0, 0] ≠ 0 := by
  rw [tCtl_crc 0 0 43370 51465 42597 (by decide +kernel) (by decide +kernel) (by decide +kernel)]
  decide

/-! ### Witnesses: training, registers, interrupts, the Test Port -/

/-- A training word with its CRC. -/
def tWord (x : BitVec 48) : BitVec 64 := BitVec.ofNat 64 (wordCrc (x.setWidth 64) * 2 ^ 48 + x.toNat)

theorem witness_TrainingRunsItsPhases :
    let v := fun (v : Vp) => tVp v tHw
    let a := { Vp.init with phaseCyc := 1999744 }
    let b := { Vp.init with phase := .b, phaseCyc := 1995904 }
    let c := { Vp.init with phase := .c, gotRepair := List.range 17, gotCyc := 1999872 }
    let g := c.gotCyc
    let prop : BitVec 64 := 0x00000000FFFF0131
    let d := { Vp.init with phase := .d, gotProp := some prop, gotCyc := g }
    let e := { Vp.init with phase := .e, gotProp := some prop, gotConfirm := some 3, gotCyc := 1999936 }
    let m := { Vp.init with attCyc := 1991808, phase := .c }
    (running (v a) = true ∧ (v a).vp.state = .training ∧ a.phase = .a ∧ a.phaseCyc + 256 ≤ now (v a)) ∧ b.phaseCyc + 4096 ≤ now (v b) ∧
    (testGroup [0] 0).1.isSome = true ∧ (c.gotRepair.length = 17 ∧ c.gotCyc + 128 ≤ now (v c)) ∧
    (propose [] d = some (3, 0xFFFF) ∧ fld prop 5 4 = 3 ∧ d.gen = prop.extractLsb' 8 8 ∧ prop.extractLsb' 16 16 = (0xFFFF : BitVec 16) ∧
      ones 0xFFFF 16 = 4 * (3 + 1)) ∧
    (d.attempt < 3 ∧ propose [] { d with runMax := 0 } = some (0, 0xF) ∧ (0 : Nat) ≠ 3) ∧ propose [] { d with failed := 0x10000, attempt := 3 } = none ∧
    (e.gotConfirm.isSome = true ∧ e.gotCyc + 64 ≤ now (v e) ∧ bit prop 42 = false) ∧
    (m.attCyc + 8192 ≤ now (v m) ∧ m.gotRepair.length < 17 ∧ m.attempt ≠ 2 ∧ ({ m with attempt := 2 } : Vp).attempt = 2) := by decide +kernel
/-- The beats that carry a word on a data group, and on the control group. -/
def tRx (g : Nat) (w : BitVec 64) : List (BitVec 579) :=
  [(w.setWidth 32).setWidth 579 <<< (34 * g), (w >>> 32).setWidth 579 <<< (34 * g), 0, 0]
def tRxCtl (w : BitVec 64) : List (BitVec 579) :=
  (List.range 4).map (fun b => ((w >>> (16 * b)).setWidth 16).setWidth 579 <<< 544)

theorem witness_TrainingRunsItsPhases_words :
    let v := { Vp.init with phase := .c }
    (goodCopy (rxCopies v (tRx 3 (tWord 0x102))) = some (tWord 0x102) ∧ fld (tWord 0x102) 3 0 = 2 ∧ fld (tWord 0x102) 8 4 = 16 ∧ 16 ∉ List.range 16) ∧
    (goodCopy (rxCopies v (tRxCtl (tWord 0x131))) = some (tWord 0x131) ∧ fld (tWord 0x131) 3 0 = 1) := by decide +kernel
theorem witness_TrainingRunsItsPhases_others :
    let v := { Vp.init with phase := .e }
    (goodCopy (rxCopies v (tRx 15 (tWord 3))) = some (tWord 3) ∧ fld (tWord 3) 3 0 = 3) ∧ goodCopy (rxCopies v (tRx 0 1)) = none ∧
    (fld (tWord 0x112) 3 0 = 2 ∧ 17 ≤ fld (tWord 0x112) 8 4) := by decide +kernel
theorem witness_TrainingRunsItsPhases_sent :
    let h := fun (p : Phase) => tVp { Vp.init with phase := p, repair := [(37, 0x20 <<< 9)] } tHw
    ((h .d).vp.state = .training ∧ (h .d).vp.phase = .d ∧ propose [] (h .d).vp = some (3, 0xFFFF) ∧ (h .e).vp.phase = .e ∧
      spareFor (cGet 0 (h .d).vp.repair 37) 0 ≠ some 31 ∧ spareFor (cGet 0 (h .d).vp.repair 48) 1 ≠ some 15) ∧
    propose [] { (h .d).vp with failed := 0x10000 } = none ∧ (h .a).vp.phase = .a ∧ (h .b).vp.phase = .b ∧
    (tVp { Vp.init with state := .disabled } tHw).vp.state = .disabled ∧ (tVp { Vp.init with state := .up } tHw).vp.state = .up := by decide +kernel

theorem witness_RegistersAreAccessed :
    let a : Access := { carrier := .mesh .mp { type := 0x11 } 4 2, write := false, off := 0, data := 0, at_ := 500000 }
    let q := fun (n m : Nat) => { tHw with path := { tHw.path with queue := List.replicate n a, spOut := List.replicate m none } }
    let r := { tHw with path := { tHw.path with spOut := [some (7, 0), none] } }
    let w := fun (n : Option Nat) => { r with rst := { r.rst with cmd := some 1999000 }, path := { r.path with spMay := n } }
    let h := { tHw with units := { tHw.units with hmt := some 495838 } }
    (running (q 15 3) = true ∧ (q 15 3).path.queue.length < 16 ∧ (q 15 3).path.spOut.length < 4 ∧ 16 ≤ (q 16 0).path.queue.length ∧
      4 ≤ (q 0 4).path.spOut.length) ∧
    (r.path.spOut = some (7, 0) :: [none] ∧ r.rst.cmd = none ∧ (w (some 1)).rst.cmd ≠ none ∧ (w (some 1)).path.spMay = some (0 + 1) ∧
      (w none).path.spMay = none) ∧ ((q 0 2).path.spOut.head? = some none ∧ (q 0 0).path.spOut.head? = none) ∧
    (offOk 0x8058 = true ∧ isCovered 0x8058 = false ∧ 0x8058 ∉ [0x58, 0x6040, 0x10040, 0x10044, 0x18040, 0x19044] ∧
      ¬ (0x10800 ≤ 0x8058 ∧ 0x8058 < 0x11000 ∧ 0x8058 % 8 = 4) ∧ writeHw [] 0x8058 5 tHw = none) ∧
    (offOk 0x10FFC = true ∧ 0x10800 ≤ 0x10FFC ∧ 0x10FFC < 0x11000 ∧ 0x10FFC % 8 = 4 ∧ offOk 0x10044 = true) ∧
    offOk 0x3FFFE = false ∧ w1cMask 0x2010 ≠ 0 ∧ w1cMask 0x2014 = 0 ∧
    (isCovered 0x2BFFC = true ∧ isCovered 0x604C = true ∧ tHw.units.hmt = none) ∧
    ((wideAt tHw 0x50).isSome = true ∧ (wideAt tHw 0x3C4F8).isSome = true ∧ wideAt tHw 0x54 = none) ∧
    (h.units.hmt = some 495838 ∧ 495838 + 4162 ≤ clkC h ∧ ¬ 495839 + 4162 ≤ clkC h) := by decide +kernel
theorem witness_RegistersAreAccessed_edge :
    let a : Access := { carrier := .sp, write := false, off := 0x3FFFE, data := 0, at_ := 499999, bad := true }
    let h := fun (f : Bool) (q : List Access) => tGav { Gav.init with failed := f } { tHw with cyc := 2000003, path := { tHw.path with queue := q } }
    let m := { a with carrier := .mesh .mp { type := 0x11 } 4 2, bad := false }
    (tS (h false [a])).pending = [] ∧ now (h false [a]) + 1 < 2 ^ 64 ∧ (∀ r ∈ (h false [a]).core.adm, isCfg r.kind = false) ∧
    (now (h false [a]) + 1) % 4 = 0 ∧ (now tHw + 1) % 4 ≠ 0 ∧ (h false [a]).diag.gav.failed = false ∧ a.carrier = .sp ∧ a.bad = true ∧
    ((h true [m]).diag.gav.failed = true ∧ m.carrier ≠ .sp ∧ m.carrier ≠ .tp) := by decide +kernel
theorem witness_RegistersAreAccessed_commands :
    let q := fun (p : Nat) => pageHasCmd p = true ∧ pageCmd0 [] p 0xFF tHw = none ∧ (pageCmd1 [] p 0xFF tHw).isNone = true
    q 3 ∧ q 7 ∧ q 24 ∧ fld (0x00000301 : Word) 7 0 = 1 ∧ fld (2 : Word) 7 0 = 2 := by decide +kernel
theorem cfgGet_csum (v : Word) (o : Nat) (h : o ≠ 0x6040) : cfgGet [(0x6040, v)] o = cfgGet [] o := by
  have : ¬ 0x6040 = o := fun e => h e.symm
  simp [cfgGet, cGet, cFind, this]
theorem coveredWords_csum (v : Word) : coveredWords [(0x6040, v)] = coveredWords [] := by
  rw [coveredWords, coveredWords,
    List.map_congr_left (l := List.range 4096) (g := fun i => cfgGet [] (0x28000 + 4 * i)) (fun i _ => cfgGet_csum v _ (by omega)),
    List.map_congr_left (l := List.range 64) (g := fun i => cfgGet [] (rg 6 (0x100 + 4 * i)))
      (fun i _ => cfgGet_csum v _ (by simp only [rg]; omega)),
    cfgGet_csum v (rg 6 0x4C) (by decide)]
/-- A checksum that the covered words have, and one that they do not have. -/
theorem witness_RegistersAreAccessed_check : ∀ v, v = crc32 (coveredWords []) →
    crc32 (coveredWords [(0x6040, v)]) = cfgGet [(0x6040, v)] 0x6040 ∧ crc32 (coveredWords [(0x6040, v + 1)]) ≠ cfgGet [(0x6040, v + 1)] 0x6040 := by
  intro v hv
  have g : ∀ x : Word, cfgGet [(0x6040, x)] 0x6040 = x := fun x => by simp [cfgGet, cGet, cFind]
  rw [coveredWords_csum, coveredWords_csum, g, g, ← hv]
  exact ⟨rfl, fun e => by clear hv g; bv_omega⟩
theorem witness_InterruptsAndCountersAct :
    let c : Cells Word := [(0x5044, 0), (0x5050, 0x80000000), (0x5068, 0x80000000), (0xB040, 1)]
    let h := { tHw with units := { tHw.units with events := [(0, 0)] } }
    let w := { tHw with perf := { tHw.perf with ctr := [(0, 0xFFFFFFFFFFFF)] } }
    let t := tRo 0x1904C 31 tHw
    running h = true ∧ wroteNow h 0x5044 = 0 ∧ irqLevel c h 2 = true ∧ bit (cfgGet c (0x5050 + 8 * 3)) 31 = true ∧
      bit (cfgGet c (0x5050 + 8 * 0)) 31 = true ∧ bit (roGet h 0x5040) (8 + 2) = false ∧
      (running w = true ∧ cGet 0 w.perf.ctr 0 = 0xFFFFFFFFFFFF ∧ (now w + 1) % 4 ≠ 0 ∧ timeWraps [] w 0 = true ∧ timeWraps [] tHw 0 = false ∧
        (tS w).pending = []) ∧
      ((fld (31 : Word) 4 0 + 32 - fld (roGet t 0x19048) 4 0) % 32 ≤ (fld (roGet t 0x1904C) 4 0 + 32 - fld (roGet t 0x19048) 4 0) % 32 ∧
        ¬ (fld (1 : Word) 4 0 + 32 - fld (roGet tHw 0x19048) 4 0) % 32 ≤ (fld (roGet tHw 0x1904C) 4 0 + 32 - fld (roGet tHw 0x19048) 4 0) % 32) := by
  decide +kernel
theorem witness_TestPortActs :
    let t := fun (w : BitVec 8) (h : Hw) => { h with path := { h.path with wir := w } }
    let a : Access := { carrier := .sp, write := false, off := 0, data := 0, at_ := 499999 }
    let b := { tBoot .hold tHw with path := { tHw.path with mbist := 1, wir := 0x11 } }
    ((t 1 tHw).path.wir = 0x01 ∧ (t 0 tHw).path.wir ≠ 0x01 ∧ (t 0 tHw).path.wir.toNat ∉ [0x01, 0x02, 0x10, 0x11] ∧
      (t 2 tHw).path.wir.toNat ∈ [0x01, 0x02, 0x10, 0x11] ∧ (t 2 tHw).path.wir ≠ 0x10 ∧ (t 2 tHw).path.wir ≠ 0x11) ∧
    ((t 0x10 tHw).path.wir = 0x10 ∧ running (t 0x10 tHw) = true ∧ (t 0x10 tHw).path.queue.length < 16 ∧
      16 ≤ ({ (t 0x10 tHw).path with queue := List.replicate 16 a } : RegPath).queue.length) ∧
    running (t 0x10 { tHw with rst := { Rst.init with mode := .warm } }) = false ∧
    (b.path.wir = 0x11 ∧ running b = true ∧ b.rst.boot = .hold ∧ b.path.mbist.getLsbD 0 = true ∧ tHw.path.mbist.getLsbD 0 = false ∧
      (∀ n ∈ List.range 32, (pwr b n).dead = false)) ∧
    ∀ q ∈ b.arr.banks, q.1 = 0 → q.2 = bank b 0 := by decide +kernel

end Sys2Proof.Tests
end

/-! SUPPORT. The software-written registers over a step: one write of them at most, or a reset. -/
namespace Sys2Proof.Machine

/-! ### Software-written registers: what one write leaves (R11, R14, R489) -/

theorem cFind_mem {α : Type} {c : Cells α} {k : Nat} {v : α} (h : cFind c k = some v) : (k, v) ∈ c := by
  induction c with
  | nil => cases h
  | cons p r ih =>
    obtain ⟨i, w⟩ := p
    rw [cFind_cons] at h
    split at h
    · rename_i e; cases h; subst e; exact List.mem_cons_self
    · exact List.mem_cons_of_mem _ (ih h)

theorem find?_getD_mem {α : Type} (l : List α) (p : α → Bool) (d : α) :
    (l.find? p).getD d = d ∨ (l.find? p).getD d ∈ l := by
  cases h : l.find? p with
  | none => exact .inl rfl
  | some x => exact .inr (List.mem_of_find?_eq_some h)

/-- No register has a bit that is both RW and RWL. -/
theorem regRow_rw_and_rwl (o : Nat) : (regRow o).rw &&& (regRow o).rwl = 0 := by
  have rows : ∀ l ∈ [regRows0, regRows1, regRows2, regRows3], ∀ r ∈ l, r.rw &&& r.rwl = 0 := by decide
  have found : ∀ l ∈ [regRows0, regRows1, regRows2, regRows3],
      ((l.find? (fun r => r.has o)).getD { off := o }).rw &&& ((l.find? (fun r => r.has o)).getD { off := o }).rwl = 0 := by
    intro l hl
    rcases find?_getD_mem l (fun r => r.has o) { off := o } with e | e
    · rw [e]; exact BitVec.and_zero
    · exact rows l hl _ e
  unfold regRow
  split
  · exact BitVec.and_zero
  · dsimp only
    apply found
    repeat' split
    all_goals simp

/-- One bit of a register after a write of `d` under mask `m`. -/
theorem getLsbD_masked (g d m : Word) (i : Nat) :
    ((g &&& ~~~ m) ||| (d &&& m)).getLsbD i = if m.getLsbD i then d.getLsbD i else g.getLsbD i := by
  rw [BitVec.getLsbD_or, BitVec.getLsbD_and, BitVec.getLsbD_and, BitVec.getLsbD_not]
  by_cases hi : i < 32
  · cases m.getLsbD i <;> simp [hi]
  · simp [BitVec.getLsbD_of_ge _ i (Nat.le_of_not_lt hi)]

/-- The bits of a register that software cannot write stand as at reset. -/
def FrozenBits (o : Nat) (v : Word) : Prop := (v ^^^ (regRow o).rst) &&& ~~~ ((regRow o).rw ||| (regRow o).rwl) = 0

theorem frozenBits_iff (o : Nat) (v : Word) :
    FrozenBits o v ↔ ∀ i, i < 32 → (regRow o).rw.getLsbD i = false → (regRow o).rwl.getLsbD i = false →
      v.getLsbD i = (regRow o).rst.getLsbD i := by
  unfold FrozenBits
  constructor
  · intro h i hi hw hl
    have := congrArg (fun x : Word => x.getLsbD i) h
    simp only [BitVec.getLsbD_and, BitVec.getLsbD_xor, BitVec.getLsbD_not, BitVec.getLsbD_or, hi, hw, hl] at this
    simpa using this
  · intro h
    apply BitVec.eq_of_getLsbD_eq
    intro i hi
    have := h i hi
    simp [hi]
    grind

theorem cfgWf_iff (c : Cells Word) :
    cfgWf c = true ↔ cRising 0 c = true ∧ ∀ p ∈ c, p.2 ≠ (regRow p.1).rst ∧ FrozenBits p.1 p.2 := by
  simp [cfgWf, cfgEntryWf, FrozenBits]

/-- Storing a value whose frozen bits stand as at reset keeps the form. -/
theorem cfgWf_cPut {c : Cells Word} {o : Nat} {v : Word} (w : cfgWf c = true) (f : FrozenBits o v) :
    cfgWf (cPut (regRow o).rst c o v) = true := by
  rw [cfgWf_iff] at w ⊢
  obtain ⟨rising, entries⟩ := w
  unfold cPut
  split
  · exact ⟨cRising_cDel o rising, fun p hp => entries p (mem_cDel hp)⟩
  · rename_i hv
    refine ⟨cRising_cIns v (Nat.zero_le o) rising, fun p hp => ?_⟩
    rcases mem_cIns hp with rfl | hp
    · exact ⟨hv, f⟩
    · exact entries p hp

theorem frozenBits_cfgGet {c : Cells Word} (w : cfgWf c = true) (o : Nat) : FrozenBits o (cfgGet c o) := by
  unfold cfgGet cGet
  cases h : cFind c o with
  | none => simp [FrozenBits]
  | some v => exact ((cfgWf_iff c).mp w).2 _ (cFind_mem h) |>.2

/-- A write of a register keeps the form: it takes data in RW and RWL bits only. -/
theorem cfgWf_cfgPut {c : Cells Word} (o : Nat) (d : Word) (w : cfgWf c = true) : cfgWf (cfgPut c o d) = true := by
  refine cfgWf_cPut w ((frozenBits_iff o _).mpr fun i hi hw hl => ?_)
  have old := (frozenBits_iff o _).mp (frozenBits_cfgGet w o) i hi hw hl
  rw [getLsbD_masked]
  split <;> simp_all

theorem cfgWf_cfgPutCtrl {c : Cells Word} (d : Word) (w : cfgWf c = true) : cfgWf (cfgPutCtrl c d) = true := by
  refine cfgWf_cPut (o := rg 0 0x58) w ((frozenBits_iff _ _).mpr fun i hi hw _ => ?_)
  have rw1 : (regRow (rg 0 0x58)).rw = 1 := rfl
  have rst0 : (regRow (rg 0 0x58)).rst = 0 := rfl
  rw [rw1] at hw
  rw [rst0, BitVec.getLsbD_and, hw]
  simp

/-- The registers that a reset leaves have the form: all at reset but VP.CTRL.AUTO (R408, R415). -/
theorem cfgWf_cfgInReset (m : RstMode) (c : Cells Word) : cfgWf (cfgInReset m c) = true := by
  unfold cfgInReset
  dsimp only
  split
  · refine cfgWf_cPut rfl ?_
    unfold FrozenBits
    cases bit (cfgGet c (rg 3 0x44)) 4 <;> decide
  · rfl

theorem cfgGet_cfgPutCtrl (c : Cells Word) (d : Word) (k : Nat) :
    cfgGet (cfgPutCtrl c d) k = if k = rg 0 0x58 then (cfgGet c (rg 0 0x58) ||| d) &&& 1 else cfgGet c k := by
  unfold cfgPutCtrl
  split
  · rename_i e; subst e
    exact cGet_cPut_same 0 c _ _
  · rename_i e
    unfold cfgGet cGet
    rw [cFind_cPut_ne _ _ _ e]

/-! ### The lock -/

/-- LOCK and the locked fields read the same in both. -/
def LockKept (a b : Cells Word) : Prop :=
  locked b = true ∧ ∀ o, cfgGet b o &&& (regRow o).rwl = cfgGet a o &&& (regRow o).rwl

theorem bit_eq_getLsbD (x : Word) (i : Nat) : bit x i = x.getLsbD i := by
  unfold bit bitN BitVec.getLsbD
  rw [Nat.testBit_eq_decide_div_mod_eq, Nat.shiftRight_eq_div_pow]

/-- Under LOCK a write of any register but SLC.CTRL keeps LOCK and every RWL field (R11, R14). -/
theorem lockKept_cfgPut {c : Cells Word} {o : Nat} (d : Word) (l : locked c = true) (ne : o ≠ rg 0 0x58) :
    LockKept c (cfgPut c o d) := by
  refine ⟨?_, fun k => ?_⟩
  · unfold locked at l ⊢
    rw [cfgGet_cfgPut, if_neg (Ne.symm ne)]
    exact l
  · rw [cfgGet_cfgPut, l]
    split
    · rename_i e; subst e
      apply BitVec.eq_of_getLsbD_eq
      intro i hi
      have disjoint := congrArg (fun x : Word => x.getLsbD i) (regRow_rw_and_rwl k)
      simp only [BitVec.getLsbD_and, if_true, getLsbD_masked] at disjoint ⊢
      split <;> simp_all
    · rfl

/-- A write of SLC.CTRL keeps LOCK at 1; the register has no RWL field (R14). -/
theorem lockKept_cfgPutCtrl {c : Cells Word} (d : Word) (l : locked c = true) : LockKept c (cfgPutCtrl c d) := by
  refine ⟨?_, fun k => ?_⟩
  · unfold locked at l ⊢
    rw [bit_eq_getLsbD] at l
    rw [cfgGet_cfgPutCtrl, if_pos rfl, bit_eq_getLsbD, BitVec.getLsbD_and, BitVec.getLsbD_or, l]
    rfl
  · rw [cfgGet_cfgPutCtrl]
    split
    · rename_i e; subst e
      have rwl0 : (regRow (rg 0 0x58)).rwl = 0 := rfl
      rw [rwl0]; exact BitVec.and_zero.trans BitVec.and_zero.symm
    · rfl

/-! ### What one step makes of them -/

/-- What a step out of reset makes of the software-written registers: nothing, or one write of one of them (R11, R14). -/
def CfgNext (a b : Cells Word) : Prop :=
  b = a ∨ (∃ o d, o ≠ rg 0 0x58 ∧ b = cfgPut a o d) ∨ ∃ d, b = cfgPutCtrl a d

theorem CfgNext.refl {a : Cells Word} : CfgNext a a := .inl rfl

theorem CfgNext.put {a : Cells Word} {o : Nat} (d : Word) (ne : o ≠ rg 0 0x58) : CfgNext a (cfgPut a o d) :=
  .inr (.inl ⟨o, d, ne, rfl⟩)

theorem CfgNext.putCtrl {a : Cells Word} (d : Word) : CfgNext a (cfgPutCtrl a d) := .inr (.inr ⟨d, rfl⟩)

theorem CfgNext.wf {a b : Cells Word} (n : CfgNext a b) (w : cfgWf a = true) : cfgWf b = true := by
  rcases n with rfl | ⟨o, d, -, rfl⟩ | ⟨d, rfl⟩
  · exact w
  · exact cfgWf_cfgPut o d w
  · exact cfgWf_cfgPutCtrl d w

theorem CfgNext.lockKept {a b : Cells Word} (n : CfgNext a b) (l : locked a = true) : LockKept a b := by
  rcases n with rfl | ⟨o, d, ne, rfl⟩ | ⟨d, rfl⟩
  · exact ⟨l, fun _ => rfl⟩
  · exact lockKept_cfgPut d l ne
  · exact lockKept_cfgPutCtrl d l

theorem isCovered_ctrl : isCovered (rg 0 0x58) = false := by decide

theorem ne_ctrl_of_isCovered {o : Nat} (h : isCovered o = true) : o ≠ rg 0 0x58 := by
  rintro rfl
  rw [isCovered_ctrl] at h
  cases h

theorem tc0Write_cfg (d : Word) (s : State) : CfgNext s.cfg (tc0Write d s).cfg := by
  unfold tc0Write
  split
  · exact .put d (by decide)
  · exact .refl

theorem modeWrite_cfg (d : Word) (s : State) : CfgNext s.cfg (modeWrite d s).cfg := by
  unfold modeWrite
  split
  · exact .put d (by decide)
  · exact .refl

theorem evselWrite_cfg {o : Nat} (d : Word) (h : isEvsel o = true) (s : State) :
    CfgNext s.cfg (actReg (fun s => { s with cfg := cfgPut s.cfg o d }) s).cfg := by
  have ne : o ≠ rg 0 0x58 := by rintro rfl; revert h; decide
  unfold actReg
  split
  · exact .put d ne
  · exact .refl

/-- What a write of a register may leave, one case for each equation of its own (R487). -/
theorem regWrite_cases {o : Nat} {d : Word} {s : State} {P : State → Prop} (absent : P s)
    (covered : isCovered o = true → P (coveredWrite o d s)) (ctrl : P { s with cfg := cfgPutCtrl s.cfg d })
    (csum : P (csumWrite d s)) (tc0 : P (tc0Write d s))
    (log2w : o ≠ rg 0 0x58 → P { s with cfg := cfgPut s.cfg o d, hw := windowMark s.cfg s.hw })
    (units : o ≠ rg 0 0x58 → P { s with cfg := cfgPut s.cfg o d, hw := unitsKeep s.cfg ((o - rg 16 0x800) / 8) s.hw })
    (mode : P (modeWrite d s)) (seed : P (seedWrite d s)) (own : ∀ h, writeHw s.cfg o d s.hw = some h → P { s with hw := h })
    (plain : o ≠ rg 0 0x58 → P { s with cfg := cfgPut s.cfg o d }) : P (regWrite o d s) := by
  unfold regWrite
  split
  · exact absent
  split
  · rename_i cov; exact covered cov
  split
  · exact ctrl
  rename_i ne
  split
  · exact csum
  split
  · exact tc0
  split
  · exact log2w ne
  split
  · exact units ne
  split
  · exact mode
  split
  · exact seed
  split
  · rename_i e; exact own _ e
  · exact plain ne

theorem regWrite_cfg (o : Nat) (d : Word) (s : State) : CfgNext s.cfg (regWrite o d s).cfg :=
  regWrite_cases (P := fun t => CfgNext s.cfg t.cfg) .refl (fun cov => .put d (ne_ctrl_of_isCovered cov)) (.putCtrl d)
    (.put d (by decide)) (tc0Write_cfg d s) (fun ne => .put d ne) (fun ne => .put d ne) (modeWrite_cfg d s) (.put d (by decide))
    (fun _ _ => .refl) (fun ne => .put d ne)

/-- A read changes no software-written register. -/
theorem regRead_cfg (p : Path) (o : Nat) (s : State) : (regRead p o s).2.cfg = s.cfg := by
  unfold regRead
  split
  · rfl
  · dsimp only; split <;> rfl

theorem accessDo_cfg (a : Access) (s : State) : CfgNext s.cfg (accessDo a s).2.2.cfg := by
  unfold accessDo
  split
  · exact .refl
  split
  · exact .refl
  split
  · exact regWrite_cfg a.off a.data s
  · exact .inl (regRead_cfg (pathOf a.carrier) a.off s)

/-- The slice as access `a` leaves the register queue to execute. -/
def accessTaken (a : Access) (s : State) : State :=
  { s with hw := ev 0x89 1 (s.hw.setPath { s.hw.path with queue := dropFirst (fun x => x == a) s.hw.path.queue }) }

/-- What an executed access `a` leaves, from the state in which it has left the queue. -/
def accessDone (a : Access) (s : State) : State :=
  let r := accessDo a s
  settled { r.2.2 with hw := accessReply a r.1 r.2.1 (!s.hw.rst.cmd.isSome && r.2.2.hw.rst.cmd.isSome) r.2.2.hw }

theorem queueExec_none {s : State} (h : accessNext s.hw = none) : queueExec s = s := by
  unfold queueExec; rw [h]

theorem queueExec_some {s : State} {a : Access} (h : accessNext s.hw = some a) :
    queueExec s = accessDone a (accessTaken a s) := by
  unfold queueExec; rw [h]; rfl

theorem queueExec_cfg (s : State) : CfgNext s.cfg (queueExec s).cfg := by
  cases h : accessNext s.hw with
  | none => rw [queueExec_none h]; exact .refl
  | some a => rw [queueExec_some h]; exact accessDo_cfg a (accessTaken a s)

/-- One CLK_P cycle up to the register queue: everything in it that no access has a part in. -/
def cycleHw (c : Cells Word) (h : Hw) : Hw :=
  let h := compatEnd c (countTime c (leasesEnd c h))
  let h := fenceDrain (cycleOn (creditPulse (xingMove h)))
  reelFeed c (xpPresent (mpDepart c (creditIn h)))

/-- A cycle that ends at a CLK_C edge executes an access. -/
theorem tickRun_edge {s : State} (e : now (cycleHw s.cfg s.hw) % 4 = 0) :
    tickRun s = settled (queueExec { s with hw := queueFill (cycleHw s.cfg s.hw) }) := by
  unfold tickRun; exact congrArg settled (if_pos e)

theorem tickRun_between {s : State} (e : now (cycleHw s.cfg s.hw) % 4 ≠ 0) :
    tickRun s = settled { s with hw := cycleHw s.cfg s.hw } := by
  unfold tickRun; exact congrArg settled (if_neg e)

@[simp] theorem settled_cfg (s : State) : (settled s).cfg = s.cfg := rfl

theorem tickRun_cfg (s : State) : CfgNext s.cfg (tickRun s).cfg := by
  by_cases e : now (cycleHw s.cfg s.hw) % 4 = 0
  · rw [tickRun_edge e, settled_cfg]; exact queueExec_cfg { s with hw := queueFill (cycleHw s.cfg s.hw) }
  · rw [tickRun_between e, settled_cfg]; exact .refl

theorem tick_cfg (s : State) : CfgNext s.cfg (tick s).cfg := by
  unfold tick
  split
  · exact tickRun_cfg s
  all_goals exact .refl

theorem actReg_cfg {f : State → State} (s : State) (h : CfgNext s.cfg (f s).cfg) : CfgNext s.cfg (actReg f s).cfg := by
  unfold actReg
  split
  · exact h
  · exact .refl

theorem act_cfg (f : Cells Word → Hw → Hw) (s : State) : (act f s).cfg = s.cfg := by
  unfold act; split <;> rfl

theorem actMsg_cfg (p : Port) (vc t : Nat) (f : Cells Word → Hdr → List PWord → Hw → Option Hw) (s : State) :
    (actMsg p vc t f s).cfg = s.cfg := by
  unfold actMsg
  split
  · rfl
  · split
    · split <;> rfl
    · rfl

theorem takeReq_cfg (p : Port) (vc t : Nat) (sel : Hdr → Bool) (s : State) : (takeReq p vc t sel s).cfg = s.cfg := by
  unfold takeReq
  dsimp only
  repeat' split
  all_goals rfl

theorem takeEvt_cfg (t : Nat) (p : Port) (vc i : Nat) (s : State) : (takeEvt t p vc i s).cfg = s.cfg := by
  unfold takeEvt
  dsimp only
  repeat' split
  all_goals rfl

theorem malformed_cfg (p : Port) (vc : Nat) (s : State) : (malformed p vc s).cfg = s.cfg := by
  unfold malformed
  dsimp only
  repeat' split
  all_goals rfl

theorem respCmd_cfg {t : Nat} {p : Port} {vc : Nat} {s u : State} (e : respCmd t p vc s = .next u) : u.cfg = s.cfg := by
  unfold respCmd at e
  repeat' split at e
  all_goals cases e
  all_goals rfl

theorem wirDo_cfg (op : WirOp) (s : State) : (wirDo op s).cfg = s.cfg := by
  cases op
  case bypassCapture => unfold wirDo; dsimp only; split <;> rfl
  case bypassShift => unfold wirDo; dsimp only; split <;> rfl
  all_goals rfl

theorem startUp_cfg (warm : Bool) (id : BitVec 8) (coord : BitVec 16) (march hold : Bool) (s : State) :
    (startUp warm id coord march hold s).cfg = s.cfg := rfl

/-- A command makes one write at most of the software-written registers, or it enters a reset. -/
def CfgStep (s t : State) : Prop :=
  CfgNext s.cfg t.cfg ∨ (t.hw.rst.mode ≠ .run ∧ ∃ m, t.cfg = cfgInReset m s.cfg)

theorem CfgStep.same {s t : State} (e : t.cfg = s.cfg) : CfgStep s t := .inl (.inl e)

theorem enterReset_step {m : RstMode} (ne : m ≠ .run) (s : State) (h : Hw) : CfgStep s (enterReset m { s with hw := h }) :=
  .inr ⟨ne, m, rfl⟩

theorem warmKind_ne_run (h : Hw) : warmKind h ≠ .run := by
  unfold warmKind; split <;> decide

theorem warmAssert_step (s : State) : CfgStep s (warmAssert s) := by
  unfold warmAssert
  dsimp only
  split
  · exact enterReset_step (warmKind_ne_run _) s _
  · exact .same rfl

theorem porRelease_step {id : BitVec 8} {coord : BitVec 16} {march hold : Bool} {s t : State}
    (e : execPorRelease id coord march hold s = .next t) : CfgStep s t := by
  unfold execPorRelease at e
  split at e
  · cases e; exact .same rfl
  · dsimp only at e
    split at e
    · cases e; exact enterReset_step (by decide) s _
    · cases e; exact .same rfl

theorem warmRelease_cfg (id : BitVec 8) (coord : BitVec 16) (march hold : Bool) (s : State) :
    (warmRelease id coord march hold s).cfg = s.cfg := by
  unfold warmRelease
  dsimp only
  split <;> rfl

theorem warmTakeEffect_step {s t : State} (e : execWarmResetTakeEffect s = .next t) : CfgStep s t := by
  unfold execWarmResetTakeEffect at e
  split at e
  · cases e; exact enterReset_step (warmKind_ne_run _) s _
  · cases e; exact .same rfl

theorem engineComp_cfg {p : Port} {vc : Nat} {s t : State} (e : execEngineComp p vc s = .next t) : t.cfg = s.cfg := by
  unfold execEngineComp at e
  cases e
  split
  · split
    · exact actMsg_cfg ..
    · rfl
  · rfl

theorem staleMsg_cfg {p : Port} {vc : Nat} {s t : State} (e : execStaleMsg p vc s = .next t) : t.cfg = s.cfg := by
  unfold execStaleMsg at e
  cases e
  split
  · exact actMsg_cfg ..
  · rfl

theorem act_or_hw_cfg (f : Cells Word → Hw → Hw) (h : Hw) (s : State) :
    (if running s.hw then act f s else { s with hw := h }).cfg = s.cfg := by
  split
  · exact act_cfg ..
  · rfl

theorem compatCounterWrite_cfg {o : Nat} {d : BitVec 32} {s t : State} (e : execCompatCounterWrite o d s = .next t) :
    t.cfg = s.cfg := by
  unfold execCompatCounterWrite at e
  cases e
  split
  · exact act_cfg ..
  · rfl

theorem tpRegacc_cfg {op : TpOp} {s t : State} (e : execTpRegacc op s = .next t) : t.cfg = s.cfg := by
  unfold execTpRegacc at e
  cases e
  split
  · rfl
  · cases op
    case update => dsimp only; split <;> rfl
    all_goals rfl

theorem tpMbist_cfg {op : TpOp} {s t : State} (e : execTpMbist op s = .next t) : t.cfg = s.cfg := by
  unfold execTpMbist at e
  cases e
  split
  · rfl
  · cases op
    case update => exact act_cfg ..
    all_goals rfl

theorem coveredWordWrite_cfg {o : Nat} {d : BitVec 32} {s t : State} (e : execCoveredWordWrite o d s = .next t) :
    CfgNext s.cfg t.cfg := by
  unfold execCoveredWordWrite at e
  cases e
  split
  · rename_i cov; exact actReg_cfg s (.put d (ne_ctrl_of_isCovered cov))
  · exact .refl

theorem execEvselWrite_cfg {o : Nat} {d : BitVec 32} {s t : State} (e : execEvselWrite o d s = .next t) :
    CfgNext s.cfg t.cfg := by
  unfold execEvselWrite at e
  cases e
  split
  · rename_i ev; exact evselWrite_cfg d ev s
  · exact .refl

theorem tc0CfgWrite_cfg {d : BitVec 32} {s t : State} (e : execTc0CfgWrite d s = .next t) : CfgNext s.cfg t.cfg := by
  unfold execTc0CfgWrite at e
  cases e
  split
  · exact tc0Write_cfg d s
  · exact .refl

theorem cyclesCounterWrap_cfg {n : Nat} {s t : State} (e : execCyclesCounterWrap n s = .next t) : CfgNext s.cfg t.cfg := by
  unfold execCyclesCounterWrap at e
  cases e
  split
  · exact tick_cfg s
  · exact .refl

/-- What a command makes of the software-written registers: most commands change the hardware only. -/
theorem exec_cfg {i : Instr} {s t : State} (e : exec i s = .next t) : CfgStep s t := by
  cases i
  case porAssert => cases e; exact enterReset_step (by decide) s _
  case porRelease => exact porRelease_step e
  case warmResetAssert => cases e; exact warmAssert_step s
  case warmResetRelease => cases e; exact .same (warmRelease_cfg ..)
  case warmResetTakeEffect => exact warmTakeEffect_step e
  case noCopy | keptShared | passedShared | passedGone | passedKept | wbInFlight | passedDirty | lineBack =>
    exact .same (respCmd_cfg e)
  case readShared | readOwn | readNoSnoop | writeInvalidate | writePartialInvalidate | atomic | accumulate | tangoRead | fence
      | enqueue | dequeue | enqueueBatch | dequeueBatch | selOffer | selOfferPairs | selReadReset | selReset | streamctlRenew
      | streamctlStop | cfgRead | cfgWrite =>
    cases e; exact .same (takeReq_cfg ..)
  case evict | writeBack => cases e; exact .same (takeEvt_cfg ..)
  case malformedMsg => cases e; exact .same (malformed_cfg ..)
  case fwdDataToHome | compAck | agentFence | mcastResidual | mcastListAck => cases e; exact .same (actMsg_cfg ..)
  case engineComp => exact .same (engineComp_cfg e)
  case staleMsg => exact .same (staleMsg_cfg e)
  case pwrAckRise | pwrAckFall => cases e; exact .same (act_or_hw_cfg ..)
  case compatCounterWrite => exact .same (compatCounterWrite_cfg e)
  case tpInstruction => cases e; exact .same (wirDo_cfg ..)
  case tpRegacc => exact .same (tpRegacc_cfg e)
  case tpMbist => exact .same (tpMbist_cfg e)
  case coveredWordWrite => exact .inl (coveredWordWrite_cfg e)
  case evselWrite => exact .inl (execEvselWrite_cfg e)
  case tc0CfgWrite => exact .inl (tc0CfgWrite_cfg e)
  case hmtCsumWrite => cases e; exact .inl (actReg_cfg s (.put _ (by decide)))
  case pmuModeWrite => cases e; exact .inl (actReg_cfg s (modeWrite_cfg ..))
  case smpSeedWrite => cases e; exact .inl (actReg_cfg s (.put _ (by decide)))
  case slcCtrlWrite => cases e; exact .inl (actReg_cfg s (.putCtrl _))
  case registerWrite => cases e; exact .inl (actReg_cfg s (regWrite_cfg ..))
  case cyclesCounterWrap => exact .inl (cyclesCounterWrap_cfg e)
  case wrapperReset | extestBoundaryUpdate => cases e; exact .same rfl
  all_goals
    cases e
    exact .same (act_cfg ..)

/-- The same of one step. -/
theorem step_cfg {s t : State} (e : step s = .next t) : CfgStep s t := by
  unfold step at e
  split at e
  · cases e; exact .inl (tick_cfg s)
  · rename_i rest _; exact exec_cfg (s := { s with pending := rest }) e

/-- Settles O4: every step writes the registers through the mask of their row, or resets them. -/
theorem softwareRegistersStayWellFormed : Obligations.SoftwareRegistersStayWellFormed := by
  unfold Obligations.SoftwareRegistersStayWellFormed
  intro s t w e
  rcases step_cfg e with n | ⟨-, m, r⟩
  · exact n.wf w
  · rw [r]; exact cfgWf_cfgInReset m s.cfg

/-- Settles O7: under LOCK no write reaches an RWL field, and only a reset clears LOCK. -/
theorem lockHoldsUntilAReset : Obligations.LockHoldsUntilAReset := by
  unfold Obligations.LockHoldsUntilAReset
  intro s t l e run
  rcases step_cfg e with n | ⟨reset, -⟩
  · exact n.lockKept l
  · exact absurd run reset

/-- Settles O5: at reset nothing is stored. -/
theorem resetIsWellFormed : Obligations.ResetIsWellFormed := ⟨rfl, rfl, rfl, rfl⟩

end Sys2Proof.Machine


/-! SUPPORT. What an asserted reset leaves (R410, R412, R414, R415). -/
namespace Sys2Proof.Machine

theorem foldl_cPut_eq {α : Type} [DecidableEq α] (d : α) (f : Nat → α) (l : List Nat) (c : Cells α) (k : Nat) :
    cGet d (l.foldl (fun a b => cPut d a b (f b)) c) k = if k ∈ l then f k else cGet d c k := by
  induction l generalizing c with
  | nil => simp
  | cons x r ih =>
    rw [List.foldl_cons, ih]
    by_cases hr : k ∈ r
    · simp [hr]
    · by_cases hx : k = x
      · subst hx; simp [hr]
      · simp [hr, hx, cGet_cPut_ne d c (f x) hx]

theorem warmKept_iff (o : Nat) :
    warmKept o = true ↔ (0x11054 ≤ o ∧ o ≤ 0x11060) ∨ o = 0x11068 ∨ (0x1107C ≤ o ∧ o ≤ 0x11090) ∨ o = 0x11098 ∨ o = 0x1109C ∨
      (0x110C0 ≤ o ∧ o < 0x11100) ∨ o = 0x13044 ∨ o = 0x14044 ∨ o = 0x14048 ∨ o = 0x16060 := by
  simp only [warmKept, Bool.or_eq_true, decide_eq_true_eq]
  simp only [rg]
  omega

/-- The slice's own registers in a reset: zero, but those that a warm reset keeps (R415). -/
theorem roGet_inReset (m : RstMode) (h : Hw) (o : Nat) :
    roGet (inReset m h) o = if m = .warm ∧ warmKept o = true then roGet h o else 0 := by
  by_cases w : m = .warm
  · subst w
    simp only [true_and]
    change (cFind (h.ro.filter (fun p => warmKept p.1)) o).getD 0 = _
    rw [cFind_filter]
    split <;> rfl
  · rw [if_neg (fun e => w e.1)]
    have e : (m == RstMode.warm) = false := by simpa using w
    simp [roGet, inReset, e]

theorem pwr_inReset (m : RstMode) (h : Hw) {b : Nat} (hb : b < 32) :
    pwr (inReset m h) b = pwrInReset (m == .warm) (pwr h b) := by
  conv =>
    lhs
    unfold pwr inReset
  dsimp only
  rw [foldl_cPut_eq, if_pos (List.mem_range.mpr hb)]

/-- VP.CTRL in a reset: AUTO as it stood in a warm reset, 1 otherwise; every other register is at its reset value (R408, R415). -/
theorem cfgGet_cfgInReset (m : RstMode) (c : Cells Word) (o : Nat) :
    cfgGet (cfgInReset m c) o =
      if o = 0x3044 then setBit 0x00200813 4 (!(m == .warm) || bit (cfgGet c 0x3044) 4) else (regRow o).rst := by
  unfold cfgInReset
  by_cases w : m = .warm
  · rw [if_pos w]
    subst w
    split
    · rename_i e; subst e; exact cGet_cPut_same (α := Word) ..
    · rename_i e; unfold cfgGet cGet; rw [cFind_cPut_ne (k := rg 3 0x44) _ _ _ e]; rfl
  · have e : (m == RstMode.warm) = false := by simpa using w
    rw [if_neg w, e]
    split
    · rename_i e; subst e; rfl
    · rfl

/-- A reset that asserts leaves what `ResetLeaves` says, whatever it changes first of the pins' levels and of the count of its own
start. -/
theorem enterReset_leaves (m : RstMode) (s : State) (r : Rst)
    (k : (r.id, r.coord, r.march, r.hold) = (s.hw.rst.id, s.hw.rst.coord, s.hw.rst.march, s.hw.rst.hold)) :
    ResetLeaves (m == .warm) s (enterReset m { s with hw := s.hw.setRst r }) := by
  simp only [Prod.mk.injEq] at k
  obtain ⟨kid, kcoord, kmarch, khold⟩ := k
  exact {
    pending := rfl
    cfg := fun o ne => (cfgGet_cfgInReset m s.cfg o).trans (if_neg ne)
    auto := (cfgGet_cfgInReset m s.cfg 0x3044).trans (if_pos rfl)
    regs := fun o => by
      refine (roGet_inReset m _ o).trans ?_
      simp only [beq_iff_eq, warmKept_iff]
      rfl
    arrays := ⟨rfl, rfl, rfl, rfl, rfl⟩
    units := ⟨rfl, rfl, rfl, rfl, rfl, rfl, rfl⟩
    remap := rfl
    log := rfl
    vp := rfl
    power := fun b hb => by
      have e : pwr (enterReset m { s with hw := s.hw.setRst r }).hw b = _ := pwr_inReset m (s.hw.setRst r) hb
      rw [e]
      exact ⟨rfl, rfl, rfl⟩
    path := rfl
    rst := by
      rw [← kid, ← kcoord, ← kmarch, ← khold]
      rfl }

/-- The kind that a warm reset is carried out as (R412). -/
theorem warmKind_beq (h : Hw) : (warmKind h == .warm) = h.rst.once := by
  unfold warmKind; split <;> simp_all

theorem enterReset_cyc {m : RstMode} (ne : m ≠ .por) (s : State) : (enterReset m s).hw.cyc = s.hw.cyc := if_neg ne

theorem running_of_mode {h : Hw} (e : h.rst.mode = .run) : running h = true := by
  unfold running; rw [e]; rfl

theorem warmKind_ne_por (h : Hw) : warmKind h ≠ .por := by
  unfold warmKind; split <;> decide

theorem porAssert_resets (s : State) :
    ∃ t, exec .porAssert s = .next t ∧ t.hw.rst.mode = .por ∧ t.hw.rst.porLow = true ∧ t.hw.cyc = 0 ∧ ResetLeaves false s t :=
  ⟨_, rfl, rfl, rfl, rfl, enterReset_leaves .por s { s.hw.rst with porLow := true, own := none } rfl⟩

/-- A warm reset asserts by its pin (R412). -/
theorem warmResetAssert_resets {s : State} (run : s.hw.rst.mode = .run) :
    ∃ t, exec .warmResetAssert s = .next t ∧ t.hw.cyc = s.hw.cyc ∧ t.hw.rst.warmLow = true ∧
      t.hw.rst.mode = (if s.hw.rst.once then .warm else .warmPor) ∧ ResetLeaves s.hw.rst.once s t := by
  have leaves := enterReset_leaves (warmKind s.hw) s { s.hw.rst with warmLow := true } rfl
  rw [warmKind_beq] at leaves
  refine ⟨enterReset (warmKind s.hw) { s with hw := s.hw.setRst { s.hw.rst with warmLow := true } }, ?_, enterReset_cyc (warmKind_ne_por s.hw) { s with hw := s.hw.setRst _ }, rfl, rfl, leaves⟩
  exact congrArg Host.Outcome.next (if_pos (running_of_mode (h := { s.hw with rst := { s.hw.rst with warmLow := true } }) run))

/-- In a reset the level of rst_warm_n changes alone (R412). -/
theorem warmResetAssert_in_reset {s : State} (ne : s.hw.rst.mode ≠ .run) :
    exec .warmResetAssert s = .next { s with hw := { s.hw with rst := { s.hw.rst with warmLow := true } } } := by
  have off : ¬ running (s.hw.modRst fun it => { it with warmLow := true }) = true := fun e => ne (eq_of_beq e)
  exact congrArg Host.Outcome.next (if_neg off)

theorem warmDue_of {h : Hw} {n : Nat} (c : h.rst.cmd = some n)
    (due : n / 4 + 64 ≤ clkC h ∨ ∃ l, h.rst.cmdLeft = some l ∧ l / 4 < clkC h) : warmDue h = true := by
  unfold warmDue
  rw [c]
  rcases due with e | ⟨l, hl, e⟩
  · simp [e]
  · simp [hl, e]

/-- The commanded reset asserts (R424). -/
theorem warmResetTakeEffect_resets {s : State} (run : s.hw.rst.mode = .run) (due : warmDue s.hw = true) :
    ∃ t, exec .warmResetTakeEffect s = .next t ∧ t.hw.cyc = s.hw.cyc ∧ t.hw.rst.own = some (now s.hw) ∧
      t.hw.rst.mode = (if s.hw.rst.once then .warm else .warmPor) ∧ ResetLeaves s.hw.rst.once s t := by
  have leaves := enterReset_leaves (warmKind s.hw) s { s.hw.rst with own := some (now s.hw) } rfl
  rw [warmKind_beq] at leaves
  refine ⟨enterReset (warmKind s.hw) { s with hw := s.hw.setRst { s.hw.rst with own := some (now s.hw) } }, ?_, enterReset_cyc (warmKind_ne_por s.hw) { s with hw := s.hw.setRst _ }, rfl, rfl, leaves⟩
  refine congrArg Host.Outcome.next (if_pos ?_)
  rw [running_of_mode run, due]; rfl

/-- Settles O10: every reset is an `enterReset`, whose parts stand in `enterReset_leaves`. -/
theorem resetsClearAndKeep : Obligations.ResetsClearAndKeep := by
  unfold Obligations.ResetsClearAndKeep
  refine ⟨porAssert_resets, fun s n => ⟨warmResetAssert_resets, warmResetAssert_in_reset, fun run cmd due =>
    warmResetTakeEffect_resets run (warmDue_of cmd due)⟩⟩

end Sys2Proof.Machine


/-! SUPPORT. What the register queue needs of the work that an access does: the count and what waits in the queue stay as they are,
whatever command of a page it is. -/
namespace Sys2Proof.Machine

/-- The count is the same in both, and so is what waits for the register queue and in it. -/
@[simp] abbrev Still (a b : Hw) : Prop :=
  b.cyc = a.cyc ∧ b.path.queue = a.path.queue ∧ b.path.mesh = a.path.mesh ∧ b.path.tpWait = a.path.tpWait

theorem Kept.cyc {a b : Hw} (k : Kept a b) : b.cyc = a.cyc := (congrArg Hw.cyc k : b.fixed.cyc = a.fixed.cyc)
theorem Kept.path {a b : Hw} (k : Kept a b) : b.path = a.path := (congrArg Hw.path k : b.fixed.path = a.fixed.path)
theorem Kept.still {a b : Hw} (k : Kept a b) : Still a b := by simp [k.cyc, k.path]

theorem Still.trans {a b c : Hw} (x : Still a b) (y : Still b c) : Still a c := by
  obtain ⟨x1, x2, x3, x4⟩ := x
  obtain ⟨y1, y2, y3, y4⟩ := y
  exact ⟨y1.trans x1, y2.trans x2, y3.trans x3, y4.trans x4⟩

theorem Still.self {h : Hw} : Still h h := ⟨rfl, rfl, rfl, rfl⟩

theorem ite_still {p : Prop} [Decidable p] {a x y : Hw} (kx : Still a x) (ky : Still a y) : Still a (if p then x else y) := by
  split
  · exact kx
  · exact ky

@[simp] theorem foldl_still {α : Type} {g : Hw → α → Hw} (each : ∀ h x, Still h (g h x)) (l : List α) (h : Hw) :
    Still h (l.foldl g h) := by
  induction l generalizing h with
  | nil => simp
  | cons x r ih => simp [ih, each]

/-- The end of a check that has computed `v`, where the word to match is `w` (R444). -/
def hmtShow (v w : Word) (h : Hw) : Hw :=
  let h := roPut (rg 6 0x48) v (h.modUnits (fun it => { it with hmt := none }))
  if v = w then put 6 0x44 1 h else err 6 0 (put 6 0x44 2 h)

theorem hmtEnd_idle {c : Cells Word} {h : Hw} (e : h.units.hmt = none) : hmtEnd c h = h := by
  unfold hmtEnd; rw [e]

theorem hmtEnd_early {c : Cells Word} {h : Hw} {t : Nat} (e : h.units.hmt = some t) (l : clkC h < t + 4162) :
    hmtEnd c h = h := by
  unfold hmtEnd; rw [e]; exact if_pos l

theorem hmtEnd_due {c : Cells Word} {h : Hw} {t : Nat} (e : h.units.hmt = some t) (l : t + 4162 ≤ clkC h) :
    hmtEnd c h = hmtShow (crc32 (coveredWords c)) (cfgGet c (rg 6 0x40)) h := by
  unfold hmtEnd
  rw [e]
  refine (if_neg (Nat.not_lt.mpr l)).trans ?_
  generalize crc32 (coveredWords c) = v
  generalize cfgGet c (rg 6 0x40) = w
  unfold hmtShow
  simp only [beq_iff_eq]

@[simp] theorem hmtShow_still (v w h) : Still h (hmtShow v w h) := by
  unfold hmtShow
  dsimp only
  split <;> simp

@[simp] theorem hmtEnd_still (c h) : Still h (hmtEnd c h) := by
  cases e : h.units.hmt with
  | none => simp [hmtEnd_idle e]
  | some t =>
    rcases Nat.lt_or_ge (clkC h) (t + 4162) with l | l
    · simp [hmtEnd_early e l]
    · rw [hmtEnd_due e l]
      exact hmtShow_still ..

@[simp] theorem hmtClose_still (c h) : Still h (hmtClose c h) := by
  unfold hmtClose
  dsimp only
  split <;> simp

@[simp] theorem hmtStart_still (c h) : Still h (hmtStart c h) := by simp [hmtStart]

@[simp] theorem windowStart_still (c h) : Still h (windowStart c h) := by
  unfold windowStart
  dsimp only
  repeat' split
  all_goals simp

@[simp] theorem windowMark_still (c h) : Still h (windowMark c h) := by simp [windowMark]

@[simp] theorem unitsKeep_still (c g h) : Still h (unitsKeep c g h) := ⟨rfl, rfl, rfl, rfl⟩

@[simp] theorem clearSticky_still (o d h) : Still h (clearSticky o d h) := ⟨rfl, rfl, rfl, rfl⟩

@[simp] theorem cmdTaken_still (p stat code h) : Still h (cmdTaken p stat code h) := by
  unfold cmdTaken
  split <;> simp

@[simp] theorem enterReady_still (h) : Still h (enterReady h) := ⟨rfl, rfl, rfl, rfl⟩

@[simp] theorem fillStart_still (c boot h) : Still h (fillStart c boot h) := ⟨rfl, rfl, rfl, rfl⟩

@[simp] theorem releaseTake_still (fill c h) : Still h (releaseTake fill c h) := by
  unfold releaseTake
  dsimp only
  repeat' split
  all_goals simp

@[simp] theorem warmTake_still (fill h) : Still h (warmTake fill h) := by
  unfold warmTake
  dsimp only
  split <;> simp

@[simp] theorem setVp_still (f h) : Still h (setVp f h) := ⟨rfl, rfl, rfl, rfl⟩

@[simp] theorem gavCause_still (c b h) : Still h (gavCause c b h) := by
  unfold gavCause
  dsimp only
  repeat' split
  all_goals simp

@[simp] theorem ackTo_still (seq h) : Still h (ackTo seq h) := by
  unfold ackTo
  split <;> simp

@[simp] theorem vpForget_still (seq h) : Still h (vpForget seq h) := by
  unfold vpForget
  split <;> simp

@[simp] theorem vpUnbegin_still (h) : Still h (vpUnbegin h) := by simp [vpUnbegin]

@[simp] theorem vpStop_still (st h) : Still h (vpStop st h) := by simp [vpStop]

@[simp] theorem runStart_still (h) : Still h (runStart h) := by simp [runStart]

@[simp] theorem report_still (kind place src cls wmask rid h iseq) :
    Still h (report kind place src cls wmask rid h iseq) := (report_kept rfl).still

@[simp] theorem vpLoss_still (c cls code h) : Still h (vpLoss c cls code h) := by
  unfold vpLoss
  dsimp only
  repeat' split
  all_goals simp

@[simp] theorem lossBefore_still (c h) : Still h (lossBefore c h) := by
  unfold lossBefore
  split <;> simp

@[simp] theorem vpRetrain_still (c h) : Still h (vpRetrain c h) := by
  unfold vpRetrain
  dsimp only
  split <;> simp

@[simp] theorem vpDisable_still (c h) : Still h (vpDisable c h) := by
  unfold vpDisable
  dsimp only
  split <;> simp

@[simp] theorem cmdRefused_still (p h) : Still h (cmdRefused p h) := ⟨rfl, rfl, rfl, rfl⟩

@[simp] theorem cmdRuns_still (p stat h) : Still h (cmdRuns p stat h) := ⟨rfl, rfl, rfl, rfl⟩

@[simp] theorem mntCutWay_still (w h) : Still h (mntCutWay w h) := by
  unfold mntCutWay
  split
  · split <;> simp
  · simp

@[simp] theorem albWb_still (who n h) : Still h (albWb who n h) := (albWb_kept rfl).still

@[simp] theorem jigEnd_still (early n h) : Still h (jigEnd early n h) := (jigEnd_kept rfl).still

@[simp] theorem drew_still (h) : Still h (drew h) := (drew_kept rfl).still

@[simp] theorem wayPush_still (w h) : Still h (wayPush w h) := by simp [wayPush]

@[simp] theorem setModeTake_still (w mode c h) : Still h (setModeTake w mode c h) := by
  unfold setModeTake
  dsimp only
  repeat' split
  all_goals simp

@[simp] theorem lockWay_still (w h) : Still h (lockWay w h) := by
  unfold lockWay
  split <;> simp

@[simp] theorem lockTake_still (w mode c h) : Still h (lockTake w mode c h) := by
  unfold lockTake
  dsimp only
  repeat' split
  all_goals simp

@[simp] theorem clearPre_still (w h) : Still h (clearPre w h) := ⟨rfl, rfl, rfl, rfl⟩

@[simp] theorem unlockTake_still (w mode c h) : Still h (unlockTake w mode c h) := by
  unfold unlockTake
  dsimp only
  repeat' split
  all_goals simp

@[simp] theorem mntTake_still (code w c h) : Still h (mntTake code w c h) := by
  unfold mntTake
  repeat' split
  all_goals simp

@[simp] theorem addWork_still (kind lines par f h) : Still h (addWork kind lines par f h) := ⟨rfl, rfl, rfl, rfl⟩

@[simp] theorem queTake_still (code q c h) : Still h (queTake code q c h) := by
  unfold queTake
  dsimp only
  repeat' split
  all_goals simp

@[simp] theorem selDefine_still (n c h) : Still h (selDefine n c h) := by
  unfold selDefine
  dsimp only
  repeat' split
  all_goals simp

@[simp] theorem selTake_still (code n c h) : Still h (selTake code n c h) := by
  unfold selTake
  dsimp only
  repeat' split
  all_goals simp

@[simp] theorem setChan_still (n k h) : Still h (setChan n k h) := (setChan_kept rfl).still

@[simp] theorem glpStart_still (n c h) : Still h (glpStart n c h) := by
  unfold glpStart
  extract_lets stat pa k rest
  exact ite_still (cmdTaken_still ..) (ite_still (cmdRefused_still ..) (ite_still (cmdTaken_still ..) (by simp)))

@[simp] theorem glpStop_still (n c h) : Still h (glpStop n c h) := by
  unfold glpStop
  dsimp only
  split <;> simp

@[simp] theorem glpClear_still (n c h) : Still h (glpClear n c h) := by
  unfold glpClear
  dsimp only
  split <;> simp

@[simp] theorem glpFill_still (n c h) : Still h (glpFill n c h) := by
  unfold glpFill
  repeat' split
  all_goals simp

@[simp] theorem setCtx_still (n x h) : Still h (setCtx n x h) := (setCtx_kept rfl).still

@[simp] theorem send_still (p vc m h) : Still h (send p vc m h) := (send_kept rfl).still

@[simp] theorem reelDefine_still (n c h) : Still h (reelDefine n c h) := by
  unfold reelDefine
  dsimp only
  repeat' split
  all_goals simp

@[simp] theorem engEvent_still (c reel event num code delivered label rid h) : Still h (engEvent c reel event num code delivered label rid h) := ⟨rfl, rfl, rfl, rfl⟩

@[simp] theorem reelEvent_still (c n event h) : Still h (reelEvent c n event h) := by
  unfold reelEvent
  dsimp only
  split <;> simp

@[simp] theorem leaseCheck_still (c n h) : Still h (leaseCheck c n h) := by
  unfold leaseCheck
  dsimp only
  split <;> simp

@[simp] theorem reelStart_still (n c h) : Still h (reelStart n c h) := by
  unfold reelStart
  dsimp only
  split <;> simp

@[simp] theorem ctxSettle_still (c n fin h) : Still h (ctxSettle c n fin h) := by
  unfold ctxSettle
  dsimp only
  repeat' split
  all_goals simp

@[simp] theorem ctxStop_still (c n h) : Still h (ctxStop c n h) := by
  unfold ctxStop
  dsimp only
  split <;> simp

@[simp] theorem reelStop_still (n c h) : Still h (reelStop n c h) := by
  unfold reelStop
  split <;> simp

@[simp] theorem ctxRenew_still (n b h) : Still h (ctxRenew n b h) := ⟨rfl, rfl, rfl, rfl⟩

@[simp] theorem reelRenew_still (n c h) : Still h (reelRenew n c h) := by
  unfold reelRenew
  split <;> simp

@[simp] theorem reelReadTake_still (n c h) : Still h (reelReadTake n c h) := by
  unfold reelReadTake
  dsimp only
  split <;> simp

@[simp] theorem reelRelease_still (n c h) : Still h (reelRelease n c h) := by
  unfold reelRelease
  dsimp only
  split <;> simp

@[simp] theorem clrCounters_still (h) : Still h (clrCounters h) := ⟨rfl, rfl, rfl, rfl⟩

@[simp] theorem scrubStart_still (w c h) : Still h (scrubStart w c h) := by
  unfold scrubStart
  repeat' split
  all_goals simp

@[simp] theorem scrubStop_still (w c h) : Still h (scrubStop w c h) := by
  unfold scrubStop
  split <;> simp

@[simp] theorem chkTake_still (code kind w c h) : Still h (chkTake code kind w c h) := by
  unfold chkTake
  dsimp only
  repeat' split
  all_goals simp

@[simp] theorem clrWay_still (w c h) : Still h (clrWay w c h) := ⟨rfl, rfl, rfl, rfl⟩

@[simp] theorem setMarch_still (m h) : Still h (setMarch m h) := ⟨rfl, rfl, rfl, rfl⟩

@[simp] theorem marchShow_still (b row h) : Still h (marchShow b row h) := ⟨rfl, rfl, rfl, rfl⟩

@[simp] theorem zeroBank_still (b h) : Still h (zeroBank b h) := ⟨rfl, rfl, rfl, rfl⟩

@[simp] theorem marchZero_still (m h) : Still h (marchZero m h) := by
  unfold marchZero
  split <;> simp

@[simp] theorem enqOp_still (op h) : Still h (enqOp op h) := (enqOp_kept rfl).still

@[simp] theorem marchAsk_still (m h) : Still h (marchAsk m h) := by simp [marchAsk]

@[simp] theorem marchRow_still (m h) : Still h (marchRow m h) := by
  unfold marchRow
  dsimp only
  repeat' split
  all_goals simp

@[simp] theorem marchStart_still (destroy boot banks spare h) : Still h (marchStart destroy boot banks spare h) := by
  unfold marchStart
  split <;> simp

@[simp] theorem marchRun_still (c h) : Still h (marchRun c h) := by
  unfold marchRun
  dsimp only
  repeat' split
  all_goals simp

@[simp] theorem marchStop_still (h) : Still h (marchStop h) := by
  unfold marchStop
  repeat' split
  all_goals simp

@[simp] theorem lrtRun_still (kind stat w set h) : Still h (lrtRun kind stat w set h) := ⟨rfl, rfl, rfl, rfl⟩

@[simp] theorem lrtMapTake_still (w set c h) : Still h (lrtMapTake w set c h) := by
  unfold lrtMapTake
  dsimp only
  repeat' split
  all_goals simp

@[simp] theorem lrtUnmapTake_still (w set c h) : Still h (lrtUnmapTake w set c h) := by
  unfold lrtUnmapTake
  dsimp only
  repeat' split
  all_goals simp

@[simp] theorem setLog_still (i e h) : Still h (setLog i e h) := ⟨rfl, rfl, rfl, rfl⟩

@[simp] theorem logPut_still (r h) : Still h (logPut r h) := by
  unfold logPut
  dsimp only
  repeat' split
  all_goals simp

@[simp] theorem logLate_still (e h) : Still h (logLate e h) := by
  unfold logLate
  split <;> simp

@[simp] theorem logDrop_still (i e h) : Still h (logDrop i e h) := by simp [logDrop]

@[simp] theorem logFreeTake_still (i count h) : Still h (logFreeTake i count h) := by
  unfold logFreeTake
  dsimp only
  repeat' split
  all_goals simp

@[simp] theorem logFreeAllTake_still (i h) : Still h (logFreeAllTake i h) := by simp [logFreeAllTake]

@[simp] theorem recoverTake_still (c h) : Still h (recoverTake c h) := by
  unfold recoverTake
  repeat' split
  all_goals simp

@[simp] theorem snapTake_still (h) : Still h (snapTake h) := ⟨rfl, rfl, rfl, rfl⟩

@[simp] theorem cmdUndefined_still (p d h) : Still h (cmdUndefined p d h) := ⟨rfl, rfl, rfl, rfl⟩

@[simp] theorem eccInj_still (d h) : Still h (eccInj d h) := ⟨rfl, rfl, rfl, rfl⟩

@[simp] theorem gavInj_still (d h) : Still h (gavInj d h) := by
  unfold gavInj
  split <;> simp

@[simp] theorem armWrite_still (d h) : Still h (armWrite d h) := ⟨rfl, rfl, rfl, rfl⟩

@[simp] theorem dropSnoops_still (x h) : Still h (dropSnoops x h) := ⟨rfl, rfl, rfl, rfl⟩

@[simp] theorem fenceCai_still (x h) : Still h (fenceCai x h) := by
  unfold fenceCai
  split <;> simp

@[simp] theorem fenceOp_still (c op x h) : Still h (fenceOp c op x h) := by
  unfold fenceOp
  dsimp only
  repeat' split
  all_goals simp

@[simp] theorem swPut_still (o v h) : Still h (swPut o v h) := by
  unfold swPut
  split <;> simp

@[simp] theorem groupWriteReg_still (c d h) : Still h (groupWriteReg c d h) := by
  unfold groupWriteReg
  dsimp only
  split <;> simp

@[simp] theorem fltPlace_still (f h) : Still h (fltPlace f h).1 := by
  unfold fltPlace
  dsimp only
  repeat' split
  all_goals simp

@[simp] theorem fltAnswer_still (iseq num h) : Still h (fltAnswer iseq num h) := ⟨rfl, rfl, rfl, rfl⟩

@[simp] theorem fltTaken_still (t h) : Still h (fltTaken t h) := by
  unfold fltTaken
  dsimp only
  split <;> simp

@[simp] theorem fltAgain_still (h) : Still h (fltAgain h) := by
  unfold fltAgain
  extract_lets d tail h1 h2
  have start : Still h h1 := ⟨rfl, rfl, rfl, rfl⟩
  refine (start.trans (foldl_still (fun g f => ?_) _ h1)).trans (fltTaken_still ..)
  have placed : Still g (if f.num = 0xFFF then (g, 0xFFF) else fltPlace f g).1 := by
    split
    · exact Still.self
    · exact fltPlace_still ..
  revert placed
  generalize (if f.num = 0xFFF then (g, 0xFFF) else fltPlace f g) = place
  exact fun placed => ite_still placed placed

@[simp] theorem fltHead_still (d h) : Still h (fltHead d h) := by
  unfold fltHead
  dsimp only
  repeat' split
  all_goals simp

@[simp] theorem smpHead_still (d h) : Still h (smpHead d h) := by
  unfold smpHead
  dsimp only
  split <;> simp

@[simp] theorem compatWrite_still (k high d h) : Still h (compatWrite k high d h) := ⟨rfl, rfl, rfl, rfl⟩

theorem pageCmd0_still {c p d h g} (e : pageCmd0 c p d h = some g) : Still h g := by
  unfold pageCmd0 at e
  split at e
  case h_8 | h_9 =>
    split at e
    · cases e; simp
    · cases e
  all_goals cases e
  all_goals simp

theorem pageCmd1_still {c p d h g} (e : pageCmd1 c p d h = some g) : Still h g := by
  unfold pageCmd1 at e
  split at e
  all_goals cases e
  all_goals simp

@[simp] theorem pageCmd_still (c p d h) : Still h (pageCmd c p d h) := by
  unfold pageCmd
  split
  · exact Still.self
  · cases e0 : pageCmd0 c p d h with
    | some g => exact pageCmd0_still e0
    | none =>
      cases e1 : pageCmd1 c p d h with
      | some g => exact pageCmd1_still e1
      | none => exact cmdUndefined_still ..

theorem ite_some_still {p : Prop} [Decidable p] {h x : Hw} {y : Option Hw} (kx : Still h x)
    (ky : ∀ g, y = some g → Still h g) : ∀ g, (if p then some x else y) = some g → Still h g := by
  split
  · rintro g ⟨⟩; exact kx
  · exact ky

theorem writeHw_still (c o d h) : ∀ g, writeHw c o d h = some g → Still h g := by
  have wrote : ∀ g, (compatAt o).map (fun k => compatWrite k.1 k.2 d h) = some g → Still h g := by
    intro g e
    obtain ⟨k, -, rfl⟩ := Option.map_eq_some_iff.mp e
    exact compatWrite_still ..
  unfold writeHw
  extract_lets p
  exact ite_some_still (clearSticky_still ..) <| ite_some_still (pageCmd_still ..) <| ite_some_still (eccInj_still ..) <|
    ite_some_still (gavInj_still ..) <| ite_some_still (armWrite_still ..) <| ite_some_still (fenceOp_still ..) <|
    ite_some_still (swPut_still ..) <| ite_some_still (swPut_still ..) <| ite_some_still (groupWriteReg_still ..) <|
    ite_some_still (fltHead_still ..) <| ite_some_still (smpHead_still ..) wrote

theorem tc0Write_still (d s) : Still s.hw (tc0Write d s).hw := by
  unfold tc0Write
  split <;> simp

theorem modeWrite_still (d s) : Still s.hw (modeWrite d s).hw := by
  unfold modeWrite
  split <;> exact Still.self

theorem regWrite_still (o d s) : Still s.hw (regWrite o d s).hw :=
  regWrite_cases (P := fun t => Still s.hw t.hw) .self (fun _ => hmtClose_still ..) .self (hmtStart_still ..) (tc0Write_still ..)
    (fun _ => windowMark_still ..) (fun _ => unitsKeep_still ..) (modeWrite_still ..) .self (fun h e => writeHw_still _ _ _ _ h e)
    (fun _ => .self)

theorem evtRead_still (h) : Still h (evtRead h).2 := by
  unfold evtRead
  split
  · exact Still.self
  · dsimp only
    split <;> simp

theorem capture_still (p o h) : Still h (capture p o h) := by
  unfold capture
  split
  · cases p <;> exact ⟨rfl, rfl, rfl, rfl⟩
  · exact Still.self

theorem regRead_still (p o s) : Still s.hw (regRead p o s).2.hw := by
  unfold regRead
  split
  · exact Still.self
  · dsimp only
    split
    · exact (hmtEnd_still ..).trans (evtRead_still _)
    · exact (hmtEnd_still ..).trans (capture_still ..)

theorem accessDo_still (a s) : Still s.hw (accessDo a s).2.2.hw := by
  unfold accessDo
  split
  · simp
  split
  · exact Still.self
  split
  · exact regWrite_still ..
  · exact regRead_still ..

theorem accessReply_still (a v code took h) : Still h (accessReply a v code took h) := by
  unfold accessReply
  cases a.carrier <;> cases took <;> exact ⟨rfl, rfl, rfl, rfl⟩

end Sys2Proof.Machine


/-! SUPPORT. One CLK_P cycle up to the register queue: what it leaves of the count, the register queue and the requests for it. -/
namespace Sys2Proof.Machine

/-- From `a` to `b` nothing reaches the register queue: the count and the register path are the same, and so are Gavotte and
SP.DECERR_CNT; no request for the queue has joined the admission buffer. -/
structure Quiet (a b : Hw) : Prop where
  cyc : b.cyc = a.cyc
  path : b.path = a.path
  gav : b.diag.gav = a.diag.gav
  decerr : roGet b 0x5070 = roGet a 0x5070
  adm : ∀ r ∈ b.core.adm, isCfg r.kind = true → r ∈ a.core.adm

theorem Quiet.self {h : Hw} : Quiet h h := ⟨rfl, rfl, rfl, rfl, fun _ m _ => m⟩

theorem Quiet.trans {a b c : Hw} (x : Quiet a b) (y : Quiet b c) : Quiet a c where
  cyc := y.cyc.trans x.cyc
  path := y.path.trans x.path
  gav := y.gav.trans x.gav
  decerr := y.decerr.trans x.decerr
  adm := fun r m k => x.adm r (y.adm r m k) k

theorem ite_quiet {p : Prop} [Decidable p] {a x y : Hw} (kx : Quiet a x) (ky : Quiet a y) : Quiet a (if p then x else y) := by
  split
  · exact kx
  · exact ky

theorem foldl_quiet {α : Type} {g : Hw → α → Hw} (each : ∀ h x, Quiet h (g h x)) (l : List α) (h : Hw) : Quiet h (l.foldl g h) := by
  induction l generalizing h with
  | nil => exact .self
  | cons x r ih => exact (each h x).trans (ih (g h x))

/-- What is the same in every part that the transactions may change is the same in every register below page 8. -/
theorem Kept.roGet {a b : Hw} (k : Kept a b) {o : Nat} (q : o < 0x8000) : roGet b o = roGet a o := by
  have e : b.ro.filter (fun p => keptReg p.1) = a.ro.filter (fun p => keptReg p.1) := congrArg Hw.ro k
  have fa := cFind_filter a.ro keptReg o
  have fb := cFind_filter b.ro keptReg o
  rw [keptReg, decide_eq_true q, if_pos rfl] at fa fb
  unfold Machine.roGet cGet
  rw [← fa, ← fb, e]

/-- What keeps everything that the transactions keep, and the admission buffer, reaches no register queue. -/
theorem Kept.quiet {a b : Hw} (k : Kept a b) (e : b.core.adm = a.core.adm) : Quiet a b where
  cyc := k.cyc
  path := k.path
  gav := (congrArg (fun h : Hw => h.diag.gav) k : b.fixed.diag.gav = a.fixed.diag.gav)
  decerr := k.roGet (by decide)
  adm := fun r m _ => e ▸ m

theorem roPut_quiet {o : Nat} (ne : 0x5070 ≠ o) (v : Word) (h : Hw) : Quiet h (roPut o v h) :=
  { Quiet.self (h := h) with decerr := (roGet_roPut ..).trans (if_neg ne) }

theorem sticky_quiet {o : Nat} (ne : 0x5070 ≠ o) (m : Word) (h : Hw) : Quiet h (sticky o m h) :=
  { Quiet.self (h := h) with decerr := (roGet_sticky ..).trans (if_neg ne) }

theorem modPorts_quiet (f : Ports → Ports) (h : Hw) : Quiet h (h.modPorts f) := ⟨rfl, rfl, rfl, rfl, fun _ m _ => m⟩
theorem setPorts_quiet (x : Ports) (h : Hw) : Quiet h (h.setPorts x) := ⟨rfl, rfl, rfl, rfl, fun _ m _ => m⟩
theorem modPerf_quiet (f : Perf → Perf) (h : Hw) : Quiet h (h.modPerf f) := ⟨rfl, rfl, rfl, rfl, fun _ m _ => m⟩
theorem modRst_quiet (f : Rst → Rst) (h : Hw) : Quiet h (h.modRst f) := ⟨rfl, rfl, rfl, rfl, fun _ m _ => m⟩
theorem modXp_quiet (f : Xp → Xp) (h : Hw) : Quiet h (h.modXp f) := ⟨rfl, rfl, rfl, rfl, fun _ m _ => m⟩
theorem modHome_quiet (f : Home → Home) (h : Hw) : Quiet h (h.modHome f) := ⟨rfl, rfl, rfl, rfl, fun _ m _ => m⟩
theorem modReel_quiet (f : Reel → Reel) (h : Hw) : Quiet h (h.modReel f) := ⟨rfl, rfl, rfl, rfl, fun _ m _ => m⟩
theorem setGlp_quiet (x : Glp) (h : Hw) : Quiet h (h.setGlp x) := ⟨rfl, rfl, rfl, rfl, fun _ m _ => m⟩

theorem modCore_quiet (f : Core → Core) (h : Hw) (q : ∀ r ∈ (f h.core).adm, isCfg r.kind = true → r ∈ h.core.adm) :
    Quiet h (h.modCore f) := ⟨rfl, rfl, rfl, rfl, q⟩

theorem send_quiet (p : Port) (vc : Nat) (m : OutMsg) (h : Hw) : Quiet h (send p vc m h) := by
  unfold send; exact modPorts_quiet ..

theorem ev_quiet (e n : Nat) (h : Hw) : Quiet h (ev e n h) := (ev_kept rfl).quiet (by rw [ev_core])

/-! ### Streams and counters -/

theorem reelEvent_quiet (c : Cells Word) (n event : Nat) (h : Hw) : Quiet h (reelEvent c n event h) := by
  unfold reelEvent
  exact ite_quiet (send_quiet ..) .self

theorem setCtx_quiet (n : Nat) (x : Ctx) (h : Hw) : Quiet h (setCtx n x h) := modReel_quiet ..

theorem leaseCheck_quiet (c : Cells Word) (n : Nat) (h : Hw) : Quiet h (leaseCheck c n h) := by
  unfold leaseCheck
  exact ite_quiet (((setCtx_quiet ..).trans (ev_quiet ..)).trans (reelEvent_quiet ..)) .self

theorem leasesEnd_quiet (c : Cells Word) (h : Hw) : Quiet h (leasesEnd c h) := by
  unfold leasesEnd
  exact ite_quiet .self (foldl_quiet (fun h n => leaseCheck_quiet c n h) ..)

theorem countTime_quiet (c : Cells Word) (h : Hw) : Quiet h (countTime c h) := by
  unfold countTime
  exact (foldl_quiet (fun h (e : Nat × Nat) => ev_quiet e.1 e.2 h) ..).trans (roPut_quiet (o := rg 14 0x74) (by decide) ..)

theorem compatStep_quiet (k : Nat) (h : Hw) : Quiet h (compatStep k h) := by
  unfold compatStep
  have added := modPerf_quiet (fun it => { it with pc := cPut 0 it.pc k (cGet 0 h.perf.pc k + 1) }) h
  exact ite_quiet (added.trans (sticky_quiet (o := rg 24 0xC0) (by decide) ..)) added

theorem compatEnd_quiet (c : Cells Word) (h : Hw) : Quiet h (compatEnd c h) := by
  unfold compatEnd
  exact (foldl_quiet (fun h k => compatStep_quiet k h) ..).trans (modPerf_quiet ..)

/-! ### Ports -/

theorem xingMove_quiet (h : Hw) : Quiet h (xingMove h) := by
  unfold xingMove
  refine foldl_quiet (fun h p => ?_) ..
  split
  · exact .self
  · exact ite_quiet (setPorts_quiet ..) (setPorts_quiet ..)

theorem creditPulse_quiet (h : Hw) : Quiet h (creditPulse h) := by
  unfold creditPulse; exact modPorts_quiet ..

theorem creditIn_quiet (h : Hw) : Quiet h (creditIn h) := by
  unfold creditIn; exact modPorts_quiet ..

/-- A FENCE that enters the fence table leaves the admission buffer. -/
theorem fenceDrain_quiet (h : Hw) : Quiet h (fenceDrain h) := by
  unfold fenceDrain
  split
  · rename_i r _
    unfold fenceEnter
    split
    · rename_i e
      split at e
      · cases e
        exact ⟨rfl, rfl, rfl, rfl, fun _ m _ => (List.mem_filter.mp m).1⟩
      · cases e
    · exact .self
  · exact .self

theorem dirUpdate_adm (e : Ent) (h : Hw) : (dirUpdate e h).core.adm = h.core.adm := by
  unfold dirUpdate
  dsimp only
  repeat' split
  all_goals simp [setSf]

theorem dropRsv_quiet (e : Ent) (h : Hw) : Quiet h (dropRsv e h) := by
  unfold dropRsv
  split
  · split
    · exact modHome_quiet ..
    · exact .self
  · exact .self

theorem sentComp_quiet (n : Nat) (code : BitVec 3) (h : Hw) : Quiet h (sentComp n code h) := by
  unfold sentComp
  exact (modCore_quiet _ h fun _ m _ => m).trans (ev_quiet ..)

theorem noteSent_quiet (m : OutMsg) (h : Hw) : Quiet h (noteSent m h) := by
  unfold noteSent
  split
  · refine ite_quiet .self (Quiet.trans ?_ (sentComp_quiet ..))
    split
    · exact ite_quiet ((dirUpdate_kept rfl).quiet (dirUpdate_adm ..)) (dropRsv_quiet ..)
    · exact .self
  · exact sentComp_quiet ..
  · exact sentComp_quiet ..
  · exact sentComp_quiet ..
  all_goals exact .self

theorem stamp_quiet (p iseq : Nat) (h : Hw) : Quiet h (stamp p iseq h) := by
  unfold stamp stampAt; exact modPerf_quiet ..

theorem stampComp_quiet (iseq : Nat) (code : BitVec 3) (h : Hw) : Quiet h (stampComp iseq code h) := by
  unfold stampComp; exact (modPerf_quiet _ h).trans (stamp_quiet ..)

theorem headDeparts_quiet (m : OutMsg) (h : Hw) : Quiet h (headDeparts m h) := by
  unfold headDeparts
  extract_lets t multi h1 h2 h3
  have q1 : Quiet h h1 := ite_quiet (ev_quiet ..) .self
  have q2 : Quiet h h2 := q1.trans (ev_quiet ..)
  have q3 : Quiet h h3 := ite_quiet (q2.trans (ev_quiet ..)) q2
  refine ite_quiet (q1.trans (stampComp_quiet ..)) (ite_quiet ?_ q1)
  split
  · exact ite_quiet (q3.trans (stamp_quiet ..)) q3
  · exact q3

theorem queDoorbell_quiet (c : Cells Word) (e : Ent) (h : Hw) : Quiet h (queDoorbell c e h) := by
  unfold queDoorbell
  exact ite_quiet (send_quiet ..) .self

theorem entDone_quiet (c : Cells Word) (i : Nat) (h : Hw) : Quiet h (entDone c i h) := by
  unfold entDone
  split
  · exact .self
  · extract_lets h1
    have q1 : Quiet h h1 := modCore_quiet _ h fun _ m _ => m
    split
    · exact q1.trans (queDoorbell_quiet ..)
    · exact q1.trans (queDoorbell_quiet ..)
    · exact q1

theorem sampleEnd_quiet (n : Nat) (lost : Bool) (h : Hw) : Quiet h (sampleEnd n lost h) := by
  refine (sampleEnd_kept rfl).quiet ?_
  unfold sampleEnd
  split <;> rfl

theorem noteDone_quiet (c : Cells Word) (m : OutMsg) (h : Hw) : Quiet h (noteDone c m h) := by
  unfold noteDone
  split
  · exact entDone_quiet ..
  · exact sampleEnd_quiet ..
  · exact ((modCore_quiet _ h fun _ m _ => m).trans (sampleEnd_quiet ..)).trans (fenceDrain_quiet _)
  · exact (modRst_quiet _ h).trans (sampleEnd_quiet ..)
  all_goals exact .self

theorem departs_quiet (c : Cells Word) (p : Port) (vc : Nat) (m : OutMsg) (h : Hw) : Quiet h (departs c p vc m h) := by
  unfold departs
  extract_lets h1 h2
  have q1 : Quiet h h1 := ev_quiet ..
  have q2 : Quiet h h2 := ite_quiet ((q1.trans (headDeparts_quiet ..)).trans (noteSent_quiet ..)) q1
  exact ite_quiet (q2.trans (noteDone_quiet ..)) q2

theorem mpDepart_quiet (c : Cells Word) (h : Hw) : Quiet h (mpDepart c h) := by
  unfold mpDepart
  split
  · exact modPorts_quiet ..
  · exact ite_quiet (modPorts_quiet ..) ((modPorts_quiet _ h).trans (departs_quiet ..))

theorem xpPresent_quiet (h : Hw) : Quiet h (xpPresent h) := by
  unfold xpPresent
  extract_lets h1 h2
  have q1 : Quiet h h1 := modXp_quiet ..
  have q2 : Quiet h h2 := by
    unfold h2
    split
    · exact q1.trans (modXp_quiet ..)
    · exact q1
  split
  · exact q2.trans (modXp_quiet ..)
  · exact ite_quiet q2 (q2.trans (modXp_quiet ..))
  · exact q2

/-! ### Reads of Reel -/

/-- A request of an engine is none for the register queue. -/
theorem isCfg_engKind (n : Nat) (t : Target) : isCfg (engKind n t) = false := by
  unfold engKind
  repeat' split
  all_goals rfl

theorem engIssue_quiet (c : Cells Word) (eng : Eng) (x : Hdr) (pay : List PWord) (par : Nat) (h : Hw) :
    Quiet h (engIssue c eng x pay par h).1 := by
  unfold engIssue
  extract_lets pa t g tc r loc tag rq _ gl far
  have loc_quiet : Quiet h (loc ()).1 := by
    unfold loc
    split
    · exact .self
    split
    · exact .self
    · refine ⟨rfl, rfl, rfl, rfl, fun x m k => ?_⟩
      rcases List.mem_append.mp m with m | m
      · exact m
      · rw [List.mem_singleton.mp m, isCfg_engKind] at k
        cases k
  have far_quiet : ∀ d, Quiet h (far d).1 := fun d => (setGlp_quiet _ h).trans (send_quiet ..)
  have elsewhere : Quiet h (match farHome c pa with
      | some d => if d = h.rst.id.toNat then (h, Issue.code 3) else far d
      | none => (h, Issue.code 3)).1 := by
    split
    · split
      · exact .self
      · exact far_quiet _
    · exact .self
  clear_value loc far t
  cases t
  case pin | home => exact loc_quiet
  case bad | nohome => exact elsewhere
  all_goals exact .self

theorem engIssue_eq_quiet {c : Cells Word} {eng : Eng} {x : Hdr} {pay : List PWord} {par : Nat} {h g : Hw} {i : Issue}
    (e : engIssue c eng x pay par h = (g, i)) : Quiet h g := by
  have issued := engIssue_quiet c eng x pay par h
  rw [e] at issued
  exact issued

theorem reelResult_quiet (n line : Nat) (code : BitVec 3) (ws : List PWord) (h : Hw) : Quiet h (reelResult n line code ws h) := by
  unfold reelResult
  dsimp only
  split
  · exact .self
  · exact (modReel_quiet _ h).trans (setCtx_quiet ..)

theorem lineAsked_quiet (n line : Nat) (h : Hw) : Quiet h (lineAsked n line h) := by
  unfold lineAsked; exact setCtx_quiet ..

/-- The definition is put in as a function: of the application the kernel would evaluate `engIssue`. -/
theorem reelRead_quiet (c : Cells Word) (n line : Nat) (h : Hw) : Quiet h (reelRead c n line h) := by
  obtain ⟨f, unfolded⟩ : ∃ f, f = reelRead := ⟨_, rfl⟩
  rw [← unfolded]
  delta reelRead at unfolded
  subst unfolded
  dsimp only
  split
  · rename_i e
    exact (engIssue_eq_quiet e).trans (lineAsked_quiet ..)
  · exact .self
  · rename_i e
    exact ite_quiet (engIssue_eq_quiet e) (((engIssue_eq_quiet e).trans (lineAsked_quiet ..)).trans (reelResult_quiet ..))

theorem reelFeed_quiet (c : Cells Word) (h : Hw) : Quiet h (reelFeed c h) := by
  unfold reelFeed
  exact ite_quiet .self (foldl_quiet (fun h (p : Nat × Nat) => reelRead_quiet c p.1 p.2 h) ..)

end Sys2Proof.Machine


/-! SUPPORT. One CLK_P cycle: the count, and what enters and leaves the register queue (R7, R23, R377). -/
namespace Sys2Proof.Machine

theorem cycleOn_quiet {a b : Hw} (k : Quiet a b) : Quiet (cycleOn a) (cycleOn b) where
  cyc := congrArg (· + 1) k.cyc
  path := k.path
  gav := k.gav
  decerr := k.decerr
  adm := k.adm

/-- Up to the register queue a cycle advances the count and reaches nothing else that the queue depends on. -/
theorem cycleHw_quiet (c : Cells Word) (h : Hw) : Quiet (cycleOn h) (cycleHw c h) := by
  have counted := ((leasesEnd_quiet c h).trans (countTime_quiet c _)).trans (compatEnd_quiet c _)
  have crossed := cycleOn_quiet ((counted.trans (xingMove_quiet _)).trans (creditPulse_quiet _))
  have left := ((crossed.trans (fenceDrain_quiet _)).trans (creditIn_quiet _)).trans (mpDepart_quiet c _)
  exact (left.trans (xpPresent_quiet _)).trans (reelFeed_quiet c _)

theorem cycleHw_cyc (c : Cells Word) (h : Hw) : (cycleHw c h).cyc = h.cyc + 1 := (cycleHw_quiet c h).cyc

theorem cycleHw_path (c : Cells Word) (h : Hw) : (cycleHw c h).path = h.path := (cycleHw_quiet c h).path

theorem now_cycleHw (c : Cells Word) {h : Hw} (l : now h + 1 < 2 ^ 64) : now (cycleHw c h) = now h + 1 := by
  unfold now at l ⊢
  rw [cycleHw_cyc, BitVec.toNat_add]
  exact Nat.mod_eq_of_lt l

/-! ### Accesses enter the queue -/

theorem foldl_spEnter (l : List Access) (h : Hw) :
    l.foldl (fun h a => spEnter a h) h =
      h.modPath (fun it => { it with queue := it.queue ++ l.map (fun a => { a with at_ := clkC h }) }) := by
  induction l generalizing h with
  | nil => simp [Hw.modPath]
  | cons a r ih =>
    rw [List.foldl_cons, ih]
    simp [spEnter, Hw.modPath, clkC, now]

/-- The queue once the accesses of TP that wait have entered it, in CLK_C cycle `t` (R430). -/
def afterTp (p : RegPath) (t : Nat) : List Access :=
  p.queue ++ (p.tpWait.take (16 - p.queue.length)).map (fun a => { a with at_ := t })

/-- The queue once the mesh's accesses have entered it too (R23). -/
def afterMesh (p : RegPath) (t : Nat) : List Access :=
  afterTp p t ++ p.mesh.take (16 - (afterTp p t).length)

theorem queueFill_cyc (h : Hw) : (queueFill h).cyc = h.cyc := by
  unfold queueFill
  dsimp only
  rw [foldl_spEnter]
  rfl

/-- With no register access in the admission buffer, those of TP and then those of the mesh enter the queue, while there is room. -/
theorem queueFill_eq {h : Hw} (q : ∀ r ∈ h.core.adm, isCfg r.kind = false) :
    queueFill h = h.setPath { h.path with
      queue := afterMesh h.path (clkC h), tpWait := h.path.tpWait.drop (16 - h.path.queue.length)
      mesh := h.path.mesh.drop (16 - (afterTp h.path (clkC h)).length) } := by
  have none_waits : h.core.adm.filter (fun r => isCfg r.kind) = [] :=
    List.filter_eq_nil_iff.mpr fun r m => by simp [q r m]
  have all_stay : h.core.adm.filter (fun _ => true) = h.core.adm := List.filter_eq_self.mpr fun _ _ => rfl
  unfold queueFill
  dsimp only
  rw [foldl_spEnter]
  simp only [Hw.modPath, Hw.setPath, Hw.modCore, none_waits, List.take_nil, List.any_nil, Bool.not_false, all_stay, List.map_nil,
    List.append_nil, afterMesh, afterTp]

/-! ### An access leaves it and executes -/

theorem settled_still (s : State) : Still s.hw (settled s).hw := Kept.still (settle_kept rfl)

theorem accessDone_still (a : Access) (s : State) : Still s.hw (accessDone a s).hw :=
  ((accessDo_still a s).trans (accessReply_still ..)).trans (settled_still _)

theorem accessTaken_cyc (a : Access) (s : State) : (accessTaken a s).hw.cyc = s.hw.cyc := by
  unfold accessTaken; simp

theorem accessTaken_path (a : Access) (s : State) :
    (accessTaken a s).hw.path = { s.hw.path with queue := dropFirst (fun x => x == a) s.hw.path.queue } := by
  unfold accessTaken; simp

theorem queueExec_cyc (s : State) : (queueExec s).hw.cyc = s.hw.cyc := by
  cases h : accessNext s.hw with
  | none => rw [queueExec_none h]
  | some a => rw [queueExec_some h, (accessDone_still ..).1, accessTaken_cyc]

/-- An executed access leaves the queue; the others stay. -/
theorem queueExec_queue {s : State} {a : Access} (h : accessNext s.hw = some a) :
    (queueExec s).hw.path.queue = dropFirst (fun x => x == a) s.hw.path.queue := by
  rw [queueExec_some h, (accessDone_still ..).2.1, accessTaken_path]

theorem queueExec_waiting (s : State) :
    (queueExec s).hw.path.mesh = s.hw.path.mesh ∧ (queueExec s).hw.path.tpWait = s.hw.path.tpWait := by
  cases h : accessNext s.hw with
  | none => rw [queueExec_none h]; exact ⟨rfl, rfl⟩
  | some a =>
    obtain ⟨-, -, mesh, tp⟩ := accessDone_still a (accessTaken a s)
    rw [queueExec_some h, mesh, tp, accessTaken_path]
    exact ⟨rfl, rfl⟩

/-- Out of the failed hold the oldest access leaves the queue (R23). -/
theorem queueExec_oldest {s : State} (ok : s.hw.diag.gav.failed = false) :
    (queueExec s).hw.path.queue = s.hw.path.queue.drop 1 := by
  have next : accessNext s.hw = s.hw.path.queue.head? := by
    unfold accessNext; rw [ok]; rfl
  cases q : s.hw.path.queue with
  | nil => rw [queueExec_none (next.trans (by rw [q]; rfl)), q]; rfl
  | cons a rest =>
    rw [queueExec_queue (next.trans (by rw [q]; rfl)), q]
    simp [dropFirst]

/-- In the failed hold no access of the mesh executes (R343). -/
theorem queueExec_failed {s : State} (failed : s.hw.diag.gav.failed = true)
    (mesh : ∀ a ∈ s.hw.path.queue, a.carrier ≠ .sp ∧ a.carrier ≠ .tp) : queueExec s = s := by
  apply queueExec_none
  unfold accessNext
  rw [failed]
  refine List.find?_eq_none.mpr fun a m => ?_
  obtain ⟨sp, tp⟩ := mesh a m
  cases k : a.carrier with
  | sp => exact absurd k sp
  | tp => exact absurd k tp
  | mesh p x n tc => simp

theorem tc0Write_pending (d : Word) (s : State) : (tc0Write d s).pending = s.pending := by
  unfold tc0Write; split <;> rfl

theorem modeWrite_pending (d : Word) (s : State) : (modeWrite d s).pending = s.pending := by
  unfold modeWrite; split <;> rfl

theorem regWrite_pending (o : Nat) (d : Word) (s : State) : (regWrite o d s).pending = s.pending :=
  regWrite_cases (P := fun t => t.pending = s.pending) rfl (fun _ => rfl) rfl rfl (tc0Write_pending d s) (fun _ => rfl) (fun _ => rfl)
    (modeWrite_pending d s) rfl (fun _ _ => rfl) (fun _ => rfl)

theorem regRead_pending (p : Path) (o : Nat) (s : State) : (regRead p o s).2.pending = s.pending := by
  unfold regRead
  split
  · rfl
  · dsimp only; split <;> rfl

theorem accessDo_pending (a : Access) (s : State) : (accessDo a s).2.2.pending = s.pending := by
  unfold accessDo
  split
  · rfl
  split
  · rfl
  split
  · exact regWrite_pending ..
  · exact regRead_pending ..

theorem queueExec_pending (s : State) : (queueExec s).pending = s.pending := by
  cases h : accessNext s.hw with
  | none => rw [queueExec_none h]
  | some a => rw [queueExec_some h]; exact accessDo_pending a (accessTaken a s)

/-! ### The cycle -/

theorem tickRun_cyc (s : State) : (tickRun s).hw.cyc = s.hw.cyc + 1 := by
  by_cases e : now (cycleHw s.cfg s.hw) % 4 = 0
  · rw [tickRun_edge e, (settled_still _).1, queueExec_cyc, queueFill_cyc, cycleHw_cyc]
  · rw [tickRun_between e, (settled_still _).1, cycleHw_cyc]

@[simp] theorem settled_pending (s : State) : (settled s).pending = s.pending := rfl

theorem tickRun_pending (s : State) : (tickRun s).pending = s.pending := by
  by_cases e : now (cycleHw s.cfg s.hw) % 4 = 0
  · rw [tickRun_edge e, settled_pending]; exact queueExec_pending { s with hw := queueFill (cycleHw s.cfg s.hw) }
  · rw [tickRun_between e, settled_pending]

theorem step_of_idle {s : State} (idle : s.pending = []) : step s = .next (tick s) := by
  unfold step; rw [idle]

theorem tick_of_run {s : State} (run : s.hw.rst.mode = .run) : tick s = tickRun s := by
  unfold tick; rw [run]

theorem tick_of_por {s : State} (por : s.hw.rst.mode = .por) : tick s = s := by
  unfold tick; rw [por]

theorem tick_of_warm {s : State} (warm : s.hw.rst.mode = .warm ∨ s.hw.rst.mode = .warmPor) :
    tick s = { s with hw := cycleOn s.hw } := by
  unfold tick
  rcases warm with e | e <;> rw [e]

theorem tick_pending (s : State) : (tick s).pending = s.pending := by
  unfold tick
  split
  · exact tickRun_pending s
  all_goals rfl

/-- Settles O2: the modes of reset are the cases of `tick`. -/
theorem emptyQueueIsOneCycle : Obligations.EmptyQueueIsOneCycle := by
  unfold Obligations.EmptyQueueIsOneCycle
  intro s idle
  refine ⟨tick s, step_of_idle idle, (tick_pending s).trans idle, fun run => ?_, tick_of_por, tick_of_warm⟩
  rw [tick_of_run run]
  exact tickRun_cyc s

end Sys2Proof.Machine


/-! SUPPORT. The register path: SP's requests and responses, and the access that a CLK_C edge executes (R8, R23, R377, R424). -/
namespace Sys2Proof.Machine

/-! ### SP's requests and responses -/

theorem spRequest_ready {w : Bool} {addr data : Word} {h : Hw} (q : h.path.queue.length < 16) (o : h.path.spOut.length < 4) :
    spRequest w addr data h = { h with path := { h.path with
      queue := h.path.queue ++ [{ spAccess .sp w addr data with at_ := clkC h }], spOut := h.path.spOut ++ [none] } } := by
  have ready : spReady h = true := by simp [spReady, q, o]
  unfold spRequest
  rw [ready]
  rfl

theorem spRequest_full {w : Bool} {addr data : Word} {h : Hw} (full : 16 ≤ h.path.queue.length ∨ 4 ≤ h.path.spOut.length) :
    spRequest w addr data h = h := by
  have busy : spReady h = false := by
    simp only [spReady, Bool.and_eq_false_iff, decide_eq_false_iff_not]
    omega
  unfold spRequest
  rw [busy]
  rfl

theorem spResponse_open {r : Word × BitVec 3} {rest : List (Option (Word × BitVec 3))} {h : Hw} (o : h.path.spOut = some r :: rest)
    (cmd : h.rst.cmd = none) : spResponse h = { h with path := { h.path with spOut := rest, spPins := some r } } := by
  unfold spResponse
  simp only [o, cmd]
  rfl

/-- After WARM_RESET one of the responses that may still leave does; the last that carries the command's completion ends it (R424). -/
theorem spResponse_last {r : Word × BitVec 3} {rest : List (Option (Word × BitVec 3))} {n : Nat} {h : Hw}
    (o : h.path.spOut = some r :: rest) (cmd : h.rst.cmd ≠ none) (may : h.path.spMay = some (n + 1)) :
    spResponse h = { h with
      path := { h.path with spOut := rest, spPins := some r, spMay := some n }
      rst := if n = 0 ∧ h.path.spCarries = true then { h.rst with cmdLeft := some (now h) } else h.rst } := by
  have taken := Option.isNone_eq_false_iff.mpr (Option.isSome_iff_ne_none.mpr cmd)
  unfold spResponse
  simp only [o, taken, may, Bool.and_eq_true, decide_eq_true_eq]
  rfl

theorem spResponse_held {r : Word × BitVec 3} {rest : List (Option (Word × BitVec 3))} {h : Hw} (o : h.path.spOut = some r :: rest)
    (cmd : h.rst.cmd ≠ none) (may : h.path.spMay = none ∨ h.path.spMay = some 0) : spResponse h = h := by
  have taken := Option.isNone_eq_false_iff.mpr (Option.isSome_iff_ne_none.mpr cmd)
  unfold spResponse
  rcases may with e | e <;> simp only [o, taken, e] <;> rfl

/-- While the oldest access has not executed no response leaves. -/
theorem spResponse_waits {h : Hw} (o : h.path.spOut.head? = none ∨ h.path.spOut.head? = some none) : spResponse h = h := by
  unfold spResponse
  split
  · rename_i e
    rw [e] at o
    simp at o
  · rfl

/-! ### A cycle with no register access in the admission buffer -/

theorem mode_of_running {h : Hw} (run : running h = true) : h.rst.mode = .run := by
  simpa [running] using run

/-- The slice as the register queue is full for the access that executes at the end of the cycle. -/
def filled (s : State) : State := { s with hw := queueFill (cycleHw s.cfg s.hw) }

theorem filled_cfg (s : State) : (filled s).cfg = s.cfg := by
  unfold filled; rfl

section
variable {s : State} (run : running s.hw = true) (idle : s.pending = []) (count : now s.hw + 1 < 2 ^ 64)
  (clear : ∀ r ∈ s.hw.core.adm, isCfg r.kind = false)

include run idle in
theorem step_of_running : step s = .next (tickRun s) := by
  rw [step_of_idle idle, tick_of_run (mode_of_running run)]

include count in
theorem tickRun_path_between (e : (now s.hw + 1) % 4 ≠ 0) : (tickRun s).hw.path = s.hw.path := by
  rw [← now_cycleHw s.cfg count] at e
  rw [tickRun_between e, ← cycleHw_path s.cfg s.hw]
  exact (settle_further s.cfg (cycleHw s.cfg s.hw)).path

include count in
theorem tickRun_at_edge (e : (now s.hw + 1) % 4 = 0) : tickRun s = settled (queueExec (filled s)) := by
  rw [← now_cycleHw s.cfg count] at e
  exact tickRun_edge e

include clear in
theorem filled_hw : (filled s).hw = (cycleHw s.cfg s.hw).setPath { (cycleHw s.cfg s.hw).path with
    queue := afterMesh (cycleHw s.cfg s.hw).path (clkC (cycleHw s.cfg s.hw))
    tpWait := (cycleHw s.cfg s.hw).path.tpWait.drop (16 - (cycleHw s.cfg s.hw).path.queue.length)
    mesh := (cycleHw s.cfg s.hw).path.mesh.drop
      (16 - (afterTp (cycleHw s.cfg s.hw).path (clkC (cycleHw s.cfg s.hw))).length) } := by
  refine queueFill_eq fun r m => ?_
  cases k : isCfg r.kind with
  | false => rfl
  | true => exact (clear r ((cycleHw_quiet s.cfg s.hw).adm r m k)).symm.trans k |>.symm

include count clear in
theorem filled_path : (filled s).hw.path = { s.hw.path with
    queue := afterMesh s.hw.path ((now s.hw + 1) / 4), tpWait := s.hw.path.tpWait.drop (16 - s.hw.path.queue.length)
    mesh := s.hw.path.mesh.drop (16 - (afterTp s.hw.path ((now s.hw + 1) / 4)).length) } := by
  rw [filled_hw clear, Hw.setPath_path, cycleHw_path, clkC, now_cycleHw s.cfg count]

include clear in
theorem filled_gav : (filled s).hw.diag.gav = s.hw.diag.gav := by
  rw [filled_hw clear, Hw.setPath_diag]
  exact (cycleHw_quiet s.cfg s.hw).gav

include clear in
theorem filled_decerr : roGet (filled s).hw 0x5070 = roGet s.hw 0x5070 := by
  rw [filled_hw clear]
  exact (cycleHw_quiet s.cfg s.hw).decerr

end

/-! ### A malformed address (R377) -/

theorem accessDo_bad {a : Access} (bad : a.bad = true) (s : State) :
    accessDo a s = (0, 3, { s with hw := err 5 0 (cnt 5 0x70 1 s.hw) }) := by
  unfold accessDo; exact if_pos bad

/-- What an executed access of SP with a malformed address leaves. -/
def spBadDone (h : Hw) : Hw := (err 5 0 (cnt 5 0x70 1 h)).modPath (fun it => { it with spOut := fillFirst (0, 3) it.spOut })

theorem accessDone_bad {a : Access} (bad : a.bad = true) (sp : a.carrier = .sp) (s : State) :
    accessDone a s = settled { s with hw := spBadDone s.hw } := by
  have same : (err 5 0 (cnt 5 0x70 1 s.hw)).rst.cmd = s.hw.rst.cmd := rfl
  unfold accessDone
  simp only [accessDo_bad bad, same, Bool.not_and_self]
  unfold accessReply
  rw [sp]
  rfl

theorem spBadDone_decerr (h : Hw) : roGet (spBadDone h) 0x5070 = satAdd (roGet h 0x5070) 1 :=
  ((roGet_err 5 0 0x5070 (cnt 5 0x70 1 h)).trans (if_neg (by decide))).trans ((roGet_cnt 5 0x70 1 0x5070 h).trans (if_pos rfl))

theorem spBadDone_flag (h : Hw) : bit (roGet (spBadDone h) 0x5010) 0 = true := bit_err 5 0 (cnt 5 0x70 1 h) (by decide)

theorem spBadDone_spOut (h : Hw) : (spBadDone h).path.spOut = fillFirst (0, 3) h.path.spOut := rfl

theorem settled_regs (s : State) {o : Nat} (q : o < 0x8000) : roGet (settled s).hw o = roGet s.hw o :=
  (settle_further s.cfg s.hw).regs o q

theorem settled_path (s : State) : (settled s).hw.path = s.hw.path := (settle_further s.cfg s.hw).path

theorem accessTaken_decerr (a : Access) (s : State) : roGet (accessTaken a s).hw 0x5070 = roGet s.hw 0x5070 := by
  unfold accessTaken
  exact (ev_quiet ..).decerr

/-- The queue's oldest access, of SP and with a malformed address, is answered DECERR, counted and flagged (R377). -/
theorem queueExec_bad {s : State} {a : Access} (next : accessNext s.hw = some a) (bad : a.bad = true) (sp : a.carrier = .sp) :
    (queueExec s).hw.path.spOut = fillFirst (0, 3) s.hw.path.spOut ∧
      roGet (queueExec s).hw 0x5070 = satAdd (roGet s.hw 0x5070) 1 ∧
      bit (roGet (queueExec s).hw 0x5010) 0 = true ∧ (queueExec s).cfg = s.cfg := by
  rw [queueExec_some next, accessDone_bad bad sp, settled_path, settled_regs _ (by decide), settled_regs _ (by decide), spBadDone_decerr,
    spBadDone_spOut, accessTaken_decerr, accessTaken_path]
  exact ⟨rfl, rfl, spBadDone_flag _, rfl⟩

theorem accessNext_oldest {h : Hw} (ok : h.diag.gav.failed = false) : accessNext h = h.path.queue.head? := by
  unfold accessNext; rw [ok]; rfl

end Sys2Proof.Machine


/-! SUPPORT. What writes and reads of registers leave (R10 to R14, R443, R444, R483, R487, R488). -/
namespace Sys2Proof.Machine

/-! ### The access that executes at a CLK_C edge -/

section
variable {s : State} (run : running s.hw = true) (idle : s.pending = []) (count : now s.hw + 1 < 2 ^ 64)
  (clear : ∀ r ∈ s.hw.core.adm, isCfg r.kind = false)

include count clear in
/-- At a CLK_C edge accesses enter the queue, and the oldest leaves it (R23, R343, R377). -/
theorem tickRun_queue (e : (now s.hw + 1) % 4 = 0) :
    let t := tickRun s
    let q := afterMesh s.hw.path ((now s.hw + 1) / 4)
    t.hw.path.tpWait = s.hw.path.tpWait.drop (16 - s.hw.path.queue.length) ∧
    t.hw.path.mesh = s.hw.path.mesh.drop (16 - (afterTp s.hw.path ((now s.hw + 1) / 4)).length) ∧
    (s.hw.diag.gav.failed = false → t.hw.path.queue = q.drop 1) ∧
    (s.hw.diag.gav.failed = true → (∀ a ∈ q, a.carrier ≠ .sp ∧ a.carrier ≠ .tp) → t.hw.path.queue = q) := by
  dsimp only
  have path := filled_path count clear
  have gav := filled_gav clear
  obtain ⟨mesh, tp⟩ := queueExec_waiting (filled s)
  rw [tickRun_at_edge count e, settled_path, tp, mesh, path]
  refine ⟨rfl, rfl, fun ok => ?_, fun failed others => ?_⟩
  · rw [← gav] at ok
    rw [queueExec_oldest ok, path]
  · rw [← gav] at failed
    rw [queueExec_failed failed (by rw [path]; exact others), path]

include count clear in
theorem tickRun_bad (e : (now s.hw + 1) % 4 = 0) {a : Access} {rest : List Access} (ok : s.hw.diag.gav.failed = false)
    (oldest : afterMesh s.hw.path ((now s.hw + 1) / 4) = a :: rest) (sp : a.carrier = .sp) (bad : a.bad = true) :
    (tickRun s).hw.path.spOut = fillFirst (0, 3) s.hw.path.spOut ∧
      roGet (tickRun s).hw 0x5070 = satAdd (roGet s.hw 0x5070) 1 ∧
      bit (roGet (tickRun s).hw 0x5010) 0 = true ∧ (tickRun s).cfg = s.cfg := by
  have path := filled_path count clear
  have next : accessNext (filled s).hw = some a := by
    rw [accessNext_oldest (by rw [filled_gav clear]; exact ok), path, oldest]
    rfl
  have done := queueExec_bad next bad sp
  rw [path, filled_decerr clear] at done
  obtain ⟨out, counted, flag, cfg⟩ := done
  rw [tickRun_at_edge count e, settled_path, settled_regs _ (by decide), settled_regs _ (by decide), settled_cfg]
  exact ⟨out, counted, flag, cfg.trans (filled_cfg s)⟩

end

/-! ### Writes of software-written registers -/

/-- Register `o` takes `d` in its RW bits, and in its RWL bits while LOCK is 0; the others keep their values (R11). -/
def Takes (a : Cells Word) (o : Nat) (d : Word) (b : Cells Word) : Prop :=
  let m := if locked a then (regRow o).rw else (regRow o).rw ||| (regRow o).rwl
  cfgGet b o = (cfgGet a o &&& ~~~ m) ||| (d &&& m) ∧ ∀ k, k ≠ o → cfgGet b k = cfgGet a k

theorem cfgPut_takes (c : Cells Word) (o : Nat) (d : Word) : Takes c o d (cfgPut c o d) := by
  constructor
  · rw [cfgGet_cfgPut, if_pos rfl]
  · intro k ne
    rw [cfgGet_cfgPut, if_neg ne]

theorem exec_registerWrite (o : Nat) (d : Word) (s : State) : exec (.registerWrite o d) s = .next (actReg (regWrite o d) s) := rfl

section
variable {s : State} (run : running s.hw = true) {o : Nat} {d : Word}

include run in
/-- A register write whose effect is known completes with it. -/
theorem afterCfg_registerWrite {c : Cells Word} {h : Hw} {P : Cells Word → Hw → Prop}
    (e : regWrite o d s = { cfg := c, hw := h, pending := s.pending }) (p : P c h) : AfterCfg (.registerWrite o d) s P :=
  after_actReg run (exec_registerWrite o d s) (by rw [e]) (by rw [e]; exact p)

include run in
theorem after_registerWrite {h : Hw} {P : Hw → Prop} (e : regWrite o d s = { s with hw := h }) (p : P h) :
    After (.registerWrite o d) s P :=
  after_actReg_hw run (exec_registerWrite o d s) (by rw [e]) (by rw [e]) (by rw [e]; exact p)

end

theorem regWrite_none {o : Nat} (ok : offOk o = false) (d : Word) (s : State) : regWrite o d s = s := by
  unfold regWrite
  rw [ok]
  rfl

/-- The registers that a write reaches by an equation of its own. -/
abbrev writtenApart (o : Nat) : Prop := o ∈ [0x58, 0x6040, 0x10040, 0x10044, 0x18040, 0x19044] ∨ (0x10800 ≤ o ∧ o < 0x11000 ∧ o % 8 = 4)

/-- Of every other register a write is a write of the slice's own part, or it takes the data. -/
theorem regWrite_plain {o : Nat} (ok : offOk o = true) (cov : isCovered o = false) (apart : ¬ writtenApart o) (d : Word) (s : State) :
    regWrite o d s = (writeHw s.cfg o d s.hw).elim { s with cfg := cfgPut s.cfg o d } (fun h => { s with hw := h }) := by
  simp only [writtenApart, List.mem_cons, List.not_mem_nil, or_false, not_or] at apart
  obtain ⟨⟨ctrl, csum, tc0, log, mode, seed⟩, units⟩ := apart
  unfold regWrite
  rw [ok, cov]
  refine (if_neg Bool.false_ne_true).trans ((if_neg Bool.false_ne_true).trans ?_)
  refine (if_neg ctrl).trans ((if_neg csum).trans ((if_neg tc0).trans ((if_neg log).trans ?_)))
  refine (if_neg units).trans ((if_neg mode).trans ((if_neg seed).trans ?_))
  generalize writeHw s.cfg o d s.hw = w
  cases w <;> rfl

theorem not_isCovered_of_lt {o : Nat} (a : 0x10000 ≤ o) (b : o < 0x28000) : isCovered o = false := by
  have apart : ¬ (0x28000 ≤ o ∧ o < 0x2C000) ∧ o ≠ rg 6 0x4C ∧ ¬ (rg 6 0x100 ≤ o ∧ o < rg 6 0x200) := by
    unfold rg
    omega
  simp [isCovered, apart]

theorem regWrite_log2w (ok : offOk 0x10044 = true) (d : Word) (s : State) :
    regWrite 0x10044 d s = { s with cfg := cfgPut s.cfg 0x10044 d, hw := windowMark s.cfg s.hw } := by
  unfold regWrite
  rw [ok, not_isCovered_of_lt (by decide) (by decide)]
  rfl

theorem regWrite_units {o : Nat} (ok : offOk o = true) (units : 0x10800 ≤ o ∧ o < 0x11000 ∧ o % 8 = 4) (d : Word) (s : State) :
    regWrite o d s = { s with cfg := cfgPut s.cfg o d, hw := unitsKeep s.cfg ((o - 0x10800) / 8) s.hw } := by
  obtain ⟨low, high, word⟩ := units
  unfold regWrite
  rw [ok, not_isCovered_of_lt (by omega) (by omega)]
  simp only [rg]
  simp [low, high, word, show o ≠ 0x58 by omega, show o ≠ 0x6040 by omega, show o ≠ 0x10040 by omega, show o ≠ 0x10044 by omega]

theorem windowStart_qos (c : Cells Word) (h : Hw) : windowStart c h = { h with qos := (windowStart c h).qos } := by
  unfold windowStart
  dsimp only
  repeat' split
  all_goals rfl

theorem windowMark_qos (c : Cells Word) (h : Hw) : windowMark c h = { h with qos := (windowMark c h).qos } := by
  unfold windowMark
  rw [windowStart_qos]
  rfl

theorem windowMark_boundary (c : Cells Word) (h : Hw) : (windowMark c h).qos.boundary = now h := rfl

theorem unitsKeep_qos (c : Cells Word) (g : Nat) (h : Hw) :
    unitsKeep c g h = { h with qos := { h.qos with ucyc := clkM h, uold := (unitsKeep c g h).qos.uold } } := rfl

theorem unitsKeep_kept (c : Cells Word) (g : Nat) (h : Hw) : cFind (unitsKeep c g h).qos.uold g = some (unitsSeen c h g) := by
  unfold unitsKeep
  exact cFind_cIns_same ..

/-! ### Sticky bits -/

theorem roGet_clearSticky (o : Nat) (d : Word) (h : Hw) :
    roGet (clearSticky o d h) o = roGet h o &&& ~~~ (d &&& w1cMask o &&& ~~~ wroteNow h o) :=
  (roGet_roPut ..).trans (if_pos rfl)

theorem clearSticky_regs (o : Nat) (d : Word) (h : Hw) : SameRegs [o] h (clearSticky o d h) :=
  SameRegs.refl.roPut _ (List.mem_singleton.mpr rfl)

theorem clearSticky_only (o : Nat) (d : Word) (h : Hw) : clearSticky o d h = { h with ro := (clearSticky o d h).ro } := rfl

/-! ### Reads of a low word -/

theorem capture_wide {p : Path} {o : Nat} {x : BitVec 64} {h : Hw} (w : wideAt h o = some x) : capture p o h = setCap p (o, highOf x) h := by
  unfold capture; rw [w]

theorem capture_none {p : Path} {o : Nat} {h : Hw} (w : wideAt h o = none) : capture p o h = h := by
  unfold capture; rw [w]

theorem capOfPath_setCap (p : Path) (v : Nat × Word) (h : Hw) : capOfPath (setCap p v h) p = some v := by
  cases p <;> rfl

theorem capOfPath_setCap_ne {p q : Path} (ne : q ≠ p) (v : Nat × Word) (h : Hw) : capOfPath (setCap p v h) q = capOfPath h q := by
  cases p <;> cases q
  case sp.sp | mp.mp | vp.vp => exact absurd rfl ne
  all_goals rfl

theorem setCap_path (p : Path) (v : Nat × Word) (h : Hw) : setCap p v h = { h with path := { h.path with
    capSp := (setCap p v h).path.capSp, capMp := (setCap p v h).path.capMp, capVp := (setCap p v h).path.capVp } } := by
  cases p <;> rfl

end Sys2Proof.Machine


/-! SUPPORT. Writes of PG_CMD (R483), and the checksum gate (R443 to R445). -/
namespace Sys2Proof.Machine

/-! ### A write of PG_CMD is its command -/

theorem pgCmd_offset {q : Nat} (has : pageHasCmd q = true) :
    offOk (rg q 0x1C) = true ∧ isCovered (rg q 0x1C) = false ∧ ¬ writtenApart (rg q 0x1C) ∧ w1cMask (rg q 0x1C) = 0 ∧
      (rg q 0x1C / 0x1000 < 26 ∧ rg q 0x1C % 0x1000 = 0x1C) ∧ rg q 0x1C / 0x1000 = q := by
  have pages : ∀ q ∈ [0, 3, 7, 9, 11, 13, 14, 15, 16, 17, 18, 19, 20, 22, 24],
      offOk (rg q 0x1C) = true ∧ isCovered (rg q 0x1C) = false ∧ ¬ writtenApart (rg q 0x1C) ∧ w1cMask (rg q 0x1C) = 0 ∧
        (rg q 0x1C / 0x1000 < 26 ∧ rg q 0x1C % 0x1000 = 0x1C) ∧ rg q 0x1C / 0x1000 = q := by decide
  exact pages q (List.contains_iff_mem.mp has)

theorem writeHw_pgCmd {q : Nat} (has : pageHasCmd q = true) (c : Cells Word) (d : Word) (h : Hw) :
    writeHw c (rg q 0x1C) d h = some (pageCmd c q d h) := by
  obtain ⟨-, -, -, plain, cmd, page⟩ := pgCmd_offset has
  unfold writeHw
  rw [plain]
  refine (if_neg (fun ne => ne rfl)).trans ((if_pos cmd).trans ?_)
  rw [page]

theorem regWrite_pgCmd {q : Nat} (has : pageHasCmd q = true) (d : Word) (s : State) :
    regWrite (rg q 0x1C) d s = { s with hw := pageCmd s.cfg q d s.hw } := by
  obtain ⟨ok, cov, apart, -⟩ := pgCmd_offset has
  rw [regWrite_plain ok cov apart, writeHw_pgCmd has, Option.elim_some]

theorem pageCmd_low {q : Nat} {c : Cells Word} {d : Word} {h g : Hw} (has : pageHasCmd q = true) (e : pageCmd0 c q d h = some g) :
    pageCmd c q d h = g := by
  unfold pageCmd; rw [has, e]; rfl

theorem pageCmd_high {q : Nat} {c : Cells Word} {d : Word} {h g : Hw} (has : pageHasCmd q = true) (e0 : pageCmd0 c q d h = none)
    (e : pageCmd1 c q d h = some g) : pageCmd c q d h = g := by
  unfold pageCmd; rw [has, e0, e]; rfl

theorem pageCmd_undefined {q : Nat} {c : Cells Word} {d : Word} {h : Hw} (has : pageHasCmd q = true) (e0 : pageCmd0 c q d h = none)
    (e : pageCmd1 c q d h = none) : pageCmd c q d h = cmdUndefined q d h := by
  unfold pageCmd; rw [has, e0, e]; rfl

/-- A write of PG_CMD whose command is `f` is a direct command that does `f`. -/
theorem actReg_pgCmd {q : Nat} {d : Word} {f : Cells Word → Hw → Hw} {s : State} (has : pageHasCmd q = true)
    (cmd : pageCmd s.cfg q d s.hw = f s.cfg s.hw) : actReg (regWrite (rg q 0x1C) d) s = act f s := by
  unfold actReg act
  rw [regWrite_pgCmd has, cmd]
  rfl

theorem fld_eq_extract {w : Nat} (x : BitVec w) (lo n : Nat) (pos : 0 < n) : fld x (lo + n - 1) lo = (x.extractLsb' lo n).toNat := by
  unfold fld bitsN
  rw [BitVec.extractLsb'_toNat, show lo + n - 1 + 1 - lo = n by omega]

section
variable {s : State} {d : Word}

theorem pgCmd_vpRetrain (code : fld d 7 0 = 1) : exec (.registerWrite 0x301C d) s = exec .vpRetrain s := by
  have cmd : pageCmd s.cfg 3 d s.hw = vpRetrain s.cfg s.hw := pageCmd_low rfl (by simp only [pageCmd0, code])
  exact congrArg Host.Outcome.next (actReg_pgCmd (q := 3) rfl cmd)

theorem pgCmd_vpDisable (code : fld d 7 0 = 2) : exec (.registerWrite 0x301C d) s = exec .vpDisable s := by
  have cmd : pageCmd s.cfg 3 d s.hw = vpDisable s.cfg s.hw := pageCmd_low rfl (by simp only [pageCmd0, code])
  exact congrArg Host.Outcome.next (actReg_pgCmd (q := 3) rfl cmd)

theorem pgCmd_setMode (code : fld d 7 0 = 1) :
    exec (.registerWrite 0x701C d) s = exec (.setMode (d.extractLsb' 8 4) (d.extractLsb' 12 2)) s := by
  have cmd : pageCmd s.cfg 7 d s.hw = setModeTake (d.extractLsb' 8 4).toNat (d.extractLsb' 12 2).toNat s.cfg s.hw := by
    rw [← fld_eq_extract d 8 4 (by decide), ← fld_eq_extract d 12 2 (by decide)]
    exact pageCmd_low rfl (by simp only [pageCmd0, code])
  exact congrArg Host.Outcome.next (actReg_pgCmd (q := 7) rfl cmd)

theorem pgCmd_clrCounters (code : fld d 7 0 = 1) : exec (.registerWrite 0x1001C d) s = exec .clrCounters s := by
  have cmd : pageCmd s.cfg 16 d s.hw = clrCounters s.hw := pageCmd_high rfl rfl (by simp only [pageCmd1, code])
  exact congrArg Host.Outcome.next (actReg_pgCmd (q := 16) (f := fun _ h => clrCounters h) rfl cmd)

theorem pgCmd_marchStop (code : fld d 7 0 = 2) : exec (.registerWrite 0x1201C d) s = exec .marchStop s := by
  have cmd : pageCmd s.cfg 18 d s.hw = marchStop s.hw := pageCmd_high rfl rfl (by simp only [pageCmd1, code])
  exact congrArg Host.Outcome.next (actReg_pgCmd (q := 18) (f := fun _ h => marchStop h) rfl cmd)

theorem pgCmd_logFree (code : fld d 7 0 = 1) :
    exec (.registerWrite 0x1401C d) s = exec (.logFree (d.extractLsb' 8 6) (d.extractLsb' 16 16)) s := by
  have cmd : pageCmd s.cfg 20 d s.hw = logFreeTake (d.extractLsb' 8 6).toNat (d.extractLsb' 16 16).toNat s.hw := by
    rw [← fld_eq_extract d 8 6 (by decide), ← fld_eq_extract d 16 16 (by decide)]
    exact pageCmd_high rfl rfl (by simp only [pageCmd1, code])
  exact congrArg Host.Outcome.next (actReg_pgCmd (q := 20)
    (f := fun _ h => logFreeTake (d.extractLsb' 8 6).toNat (d.extractLsb' 16 16).toNat h) rfl cmd)

theorem pgCmd_recover (code : fld d 7 0 = 1) : exec (.registerWrite 0x1601C d) s = exec .recover s := by
  have cmd : pageCmd s.cfg 22 d s.hw = recoverTake s.cfg s.hw := pageCmd_high rfl rfl (by simp only [pageCmd1, code])
  exact congrArg Host.Outcome.next (actReg_pgCmd (q := 22) rfl cmd)

theorem pgCmd_pmuSnap (code : fld d 7 0 = 1) : exec (.registerWrite 0x1801C d) s = exec .pmuSnap s := by
  have cmd : pageCmd s.cfg 24 d s.hw = snapTake s.hw := pageCmd_high rfl rfl (by simp only [pageCmd1, code])
  exact congrArg Host.Outcome.next (actReg_pgCmd (q := 24) (f := fun _ h => snapTake h) rfl cmd)

end

/-! ### The checksum gate -/

theorem hmtShow_regs (v w : Word) (h : Hw) : SameRegs [0x6044, 0x6048, 0x6010] h (hmtShow v w h) := by
  have shown : SameRegs [0x6044, 0x6048, 0x6010] h (roPut (rg 6 0x48) v (h.modUnits (fun it => { it with hmt := none }))) :=
    SameRegs.roPut (SameRegs.of_ro rfl) v (by decide)
  unfold hmtShow
  split
  · exact shown.put (by decide)
  · exact (shown.put (by decide)).err (by decide)

theorem hmtShow_only (v w : Word) (h : Hw) : hmtShow v w h = { h with
    ro := (hmtShow v w h).ro, hwSet := (hmtShow v w h).hwSet, units := { h.units with hmt := none } } := by
  unfold hmtShow
  split <;> rfl

theorem hmtShow_value (v w : Word) (h : Hw) : roGet (hmtShow v w h) 0x6048 = v := by
  unfold hmtShow
  split <;> simp [roGet_err, roGet_put, roGet_roPut, rg]

theorem hmtShow_stat (v w : Word) (h : Hw) : roGet (hmtShow v w h) 0x6044 = if v = w then 1 else 2 := by
  unfold hmtShow
  split <;> simp [roGet_err, roGet_put, rg]

/-- A check that matches sets no flag. -/
theorem hmtShow_match_regs (v : Word) (h : Hw) : SameRegs [0x6044, 0x6048] h (hmtShow v v h) := by
  have shown : SameRegs [0x6044, 0x6048] h (roPut (rg 6 0x48) v (h.modUnits (fun it => { it with hmt := none }))) :=
    SameRegs.roPut (SameRegs.of_ro rfl) v (by decide)
  unfold hmtShow
  rw [if_pos rfl]
  exact shown.put (by decide)

theorem hmtShow_mismatch {v w : Word} (ne : v ≠ w) (h : Hw) : bit (roGet (hmtShow v w h) 0x6010) 0 = true := by
  unfold hmtShow
  rw [if_neg ne]
  exact bit_err 6 0 _ (by decide)

/-- With no check running, or one whose time has not come, asking for its end changes nothing (R444). -/
theorem hmtEnd_waits {c : Cells Word} {h : Hw} (w : ∀ t, h.units.hmt = some t → clkC h < t + 4162) : hmtEnd c h = h := by
  cases e : h.units.hmt with
  | none => exact hmtEnd_idle e
  | some t => exact hmtEnd_early e (w t e)

theorem hmtEnd_cases (c : Cells Word) (h : Hw) : hmtEnd c h = h ∨ ∃ v w, hmtEnd c h = hmtShow v w h := by
  cases e : h.units.hmt with
  | none => exact .inl (hmtEnd_idle e)
  | some t =>
    rcases Nat.lt_or_ge (clkC h) (t + 4162) with l | l
    · exact .inl (hmtEnd_early e l)
    · exact .inr ⟨_, _, hmtEnd_due e l⟩

theorem hmtEnd_regs (c : Cells Word) (h : Hw) : SameRegs [0x6044, 0x6048, 0x6010] h (hmtEnd c h) := by
  rcases hmtEnd_cases c h with e | ⟨v, w, e⟩ <;> rw [e]
  · exact .refl
  · exact hmtShow_regs v w h

theorem hmtShow_units (v w : Word) (h : Hw) : (hmtShow v w h).units = { h.units with hmt := none } := by
  rw [hmtShow_only]

/-- The end of a check reaches the gate's registers and the running check only. -/
theorem hmtEnd_only (c : Cells Word) (h : Hw) : ∃ m, hmtEnd c h = { h with
    ro := (hmtEnd c h).ro, hwSet := (hmtEnd c h).hwSet, units := { h.units with hmt := m } } := by
  rcases hmtEnd_cases c h with e | ⟨v, w, e⟩ <;> rw [e]
  · exact ⟨h.units.hmt, rfl⟩
  · exact ⟨none, hmtShow_only v w h⟩

/-! ### A write of MAP.HMT_CSUM -/

theorem hmtStart_stat (c : Cells Word) (h : Hw) : roGet (hmtStart c h) 0x6044 = 0x80000000 :=
  (roGet_roSet ..).trans (if_pos rfl)

theorem hmtStart_regs {l : List Nat} {c : Cells Word} {h : Hw} (k : SameRegs l h (hmtEnd c h)) (m : 0x6044 ∈ l) :
    SameRegs l h (hmtStart c h) := by
  unfold hmtStart
  exact (k.trans (SameRegs.of_ro rfl)).roSet m

theorem hmtStart_only (c : Cells Word) (h : Hw) : hmtStart c h = { h with
    ro := (hmtStart c h).ro, hwSet := (hmtStart c h).hwSet, units := { h.units with hmt := some (clkC h) } } := by
  obtain ⟨m, e⟩ := hmtEnd_only c h
  unfold hmtStart
  generalize hmtEnd c h = g at e
  rw [e]
  rfl

/-! ### A write of a covered word closes the gate -/

theorem hmtClose_shut {c : Cells Word} {h : Hw} (e : (hmtEnd c h).units.hmt = none) :
    hmtClose c h = roSet (rg 6 0x44) (roGet (hmtEnd c h) (rg 6 0x44) &&& 0xFFFFFFFE) (hmtEnd c h) := by
  unfold hmtClose
  generalize hmtEnd c h = g at e
  dsimp only
  rw [e]
  rfl

theorem hmtClose_ends {c : Cells Word} {h : Hw} {t : Nat} (e : (hmtEnd c h).units.hmt = some t) :
    hmtClose c h = roSet (rg 6 0x44) 4 ((hmtEnd c h).modUnits (fun it => { it with hmt := none })) := by
  unfold hmtClose
  generalize hmtEnd c h = g at e
  dsimp only
  rw [e]
  rfl

theorem hmtClose_only (c : Cells Word) (h : Hw) : hmtClose c h = { h with
    ro := (hmtClose c h).ro, hwSet := (hmtClose c h).hwSet, units := { h.units with hmt := none } } := by
  obtain ⟨m, only⟩ := hmtEnd_only c h
  cases e : (hmtEnd c h).units.hmt with
  | none =>
    rw [hmtClose_shut e]
    generalize hmtEnd c h = g at only e
    rw [only] at e ⊢
    cases m with
    | none => rfl
    | some t => cases e
  | some t =>
    rw [hmtClose_ends e]
    generalize hmtEnd c h = g at only e
    rw [only]
    rfl

/-- With no check running the gate closes and nothing else changes (R443). -/
theorem hmtClose_idle {c : Cells Word} {h : Hw} (e : h.units.hmt = none) :
    roGet (hmtClose c h) 0x6044 = roGet h 0x6044 &&& 0xFFFFFFFE ∧ SameRegs [0x6044] h (hmtClose c h) := by
  have idle : hmtEnd c h = h := hmtEnd_idle e
  rw [hmtClose_shut (by rw [idle]; exact e), idle]
  exact ⟨(roGet_roSet ..).trans (if_pos rfl), SameRegs.refl.roSet (by decide)⟩

/-- A check that runs ends (R444). -/
theorem hmtClose_early {c : Cells Word} {h : Hw} {t : Nat} (e : h.units.hmt = some t) (l : clkC h < t + 4162) :
    roGet (hmtClose c h) 0x6044 = 4 ∧ SameRegs [0x6044] h (hmtClose c h) := by
  have runs : hmtEnd c h = h := hmtEnd_early e l
  rw [hmtClose_ends (by rw [runs]; exact e), runs]
  exact ⟨(roGet_roSet ..).trans (if_pos rfl), (SameRegs.of_ro rfl).roSet (by decide)⟩

/-- A check that is due shows its result, and then the gate closes (R443, R444). -/
theorem hmtClose_due {c : Cells Word} {h : Hw} {t : Nat} (e : h.units.hmt = some t) (l : t + 4162 ≤ clkC h) :
    roGet (hmtClose c h) 0x6048 = crc32 (coveredWords c) ∧
      roGet (hmtClose c h) 0x6044 = (if crc32 (coveredWords c) = cfgGet c 0x6040 then 0 else 2) ∧
      (crc32 (coveredWords c) ≠ cfgGet c 0x6040 → bit (roGet (hmtClose c h) 0x6010) 0 = true) ∧
      SameRegs [0x6044, 0x6048, 0x6010] h (hmtClose c h) := by
  have due := hmtEnd_due (c := c) e l
  generalize crc32 (coveredWords c) = v at *
  have word : cfgGet c (rg 6 0x40) = cfgGet c 0x6040 := rfl
  rw [word] at due
  generalize cfgGet c 0x6040 = w at *
  rw [hmtClose_shut (by rw [due, hmtShow_units]), due]
  have stat := hmtShow_stat v w h
  refine ⟨?_, ?_, fun ne => ?_, (hmtShow_regs v w h).roSet (by decide)⟩
  · rw [roGet_roSet, if_neg (by decide), hmtShow_value]
  · refine (roGet_roSet ..).trans ((if_pos rfl).trans ((congrArg (· &&& 0xFFFFFFFE) stat).trans ?_))
    split <;> rfl
  · rw [roGet_roSet, if_neg (by decide)]
    exact hmtShow_mismatch ne h

end Sys2Proof.Machine


/-! SUPPORT. O58 from the parts above. -/
namespace Sys2Proof.Machine

section
variable {s : State} (run : running s.hw = true)

include run in
theorem after_stays {i : Instr} {f : Cells Word → Hw → Hw} (e : exec i s = .next (act f s)) (same : f s.cfg s.hw = s.hw) :
    After i s (fun h => h = s.hw) := after_act run e same

include run in
theorem registerWrite_other {o : Nat} {d : Word} (ok : offOk o = true) (cov : isCovered o = false)
    (apart : ¬ writtenApart o) (plain : writeHw s.cfg o d s.hw = none) :
    AfterCfg (.registerWrite o d) s (fun c h => Takes s.cfg o d c ∧ h = s.hw) :=
  afterCfg_registerWrite run (by rw [regWrite_plain ok cov apart, plain, Option.elim_none]) ⟨cfgPut_takes .., rfl⟩

include run in
theorem registerWrite_units {o : Nat} {d : Word} (ok : offOk o = true) (units : 0x10800 ≤ o ∧ o < 0x11000 ∧ o % 8 = 4) :
    AfterCfg (.registerWrite o d) s (fun c h => Takes s.cfg o d c ∧
      h = { s.hw with qos := { s.hw.qos with ucyc := clkM s.hw, uold := h.qos.uold } } ∧
      cFind h.qos.uold ((o - 0x10800) / 8) = some (unitsSeen s.cfg s.hw ((o - 0x10800) / 8))) :=
  afterCfg_registerWrite run (regWrite_units ok units d s) ⟨cfgPut_takes .., unitsKeep_qos .., unitsKeep_kept ..⟩

include run in
theorem registerWrite_log2w {d : Word} (ok : offOk 0x10044 = true) :
    AfterCfg (.registerWrite 0x10044 d) s (fun c h => Takes s.cfg 0x10044 d c ∧ h.qos.boundary = now s.hw ∧
      h = { s.hw with qos := h.qos }) :=
  afterCfg_registerWrite run (regWrite_log2w ok d s) ⟨cfgPut_takes .., windowMark_boundary .., windowMark_qos ..⟩

include run in
theorem w1cWrite_clears {o : Nat} {d : Word} (mask : w1cMask o ≠ 0) :
    After (.w1cWrite o d) s (fun h => roGet h o = roGet s.hw o &&& ~~~ (d &&& w1cMask o &&& ~~~ wroteNow s.hw o) ∧
      SameRegs [o] s.hw h ∧ h = { s.hw with ro := h.ro }) := by
  refine after_act (f := fun _ h => if w1cMask o = 0 then h else clearSticky o d h) run rfl ?_
  rw [if_neg mask]
  exact ⟨roGet_clearSticky .., clearSticky_regs o d s.hw, clearSticky_only ..⟩

include run in
theorem w1cWrite_none {o : Nat} {d : Word} (mask : w1cMask o = 0) : After (.w1cWrite o d) s (fun h => h = s.hw) :=
  after_stays (f := fun _ h => if w1cMask o = 0 then h else clearSticky o d h) run rfl (if_pos mask)

theorem coveredWordWrite_none {o : Nat} {d : Word} (cov : isCovered o = false) : exec (.coveredWordWrite o d) s = .next s :=
  congrArg Host.Outcome.next (if_neg (by rw [cov]; exact Bool.false_ne_true))

include run in
theorem coveredWordWrite_closes {o : Nat} {d : Word} (cov : isCovered o = true) {P : Cells Word → Hw → Prop}
    (p : P (cfgPut s.cfg o d) (hmtClose s.cfg s.hw)) : AfterCfg (.coveredWordWrite o d) s P :=
  after_actReg (f := coveredWrite o d) run (congrArg Host.Outcome.next (if_pos cov)) rfl p

include run in
theorem lowWordRead_captures {p : Path} {o : Nat} {x : BitVec 64} (w : wideAt s.hw o = some x) :
    After (.lowWordRead p o) s (fun h => capOfPath h p = some (o, (x >>> 32).setWidth 32) ∧
      (∀ q, q ≠ p → capOfPath h q = capOfPath s.hw q) ∧
      h = { s.hw with path := { s.hw.path with capSp := h.path.capSp, capMp := h.path.capMp, capVp := h.path.capVp } }) := by
  refine after_act (f := fun _ h => capture p o h) run rfl ?_
  rw [capture_wide w]
  exact ⟨capOfPath_setCap .., fun q ne => capOfPath_setCap_ne ne .., setCap_path ..⟩

include run in
theorem pgCmd_decerr {q : Nat} {d : Word} (has : pageHasCmd q = true) (e0 : pageCmd0 s.cfg q d s.hw = none)
    (e1 : pageCmd1 s.cfg q d s.hw = none) : After (.registerWrite (rg q 0x1C) d) s (fun h =>
      CmdTook q (if q = 7 then fld d 13 12 * 2 ^ 14 + fld d 11 8 * 2 ^ 8 + fld d 7 0 else (d &&& cmdFields q).toNat) 3 s.hw h ∧
      SameRegs (cmdRegs q) s.hw h ∧ RegsOnly s.hw h) := by
  refine after_registerWrite run (regWrite_pgCmd has d s) ?_
  rw [pageCmd_undefined has e0 e1]
  exact ⟨cmdTaken_took .., cmdTaken_regs q _ _ s.hw, cmdTaken_only ..⟩

include run in
theorem slcCtrlWrite_locks (d : Word) : AfterCfg (.slcCtrlWrite d) s (fun c h => cfgGet c 0x58 = (cfgGet s.cfg 0x58 ||| d) &&& 1 ∧
    (∀ k, k ≠ 0x58 → cfgGet c k = cfgGet s.cfg k) ∧ h = s.hw) := by
  refine after_actReg (f := fun s => { s with cfg := cfgPutCtrl s.cfg d }) run rfl rfl ⟨?_, fun k ne => ?_, rfl⟩
  · exact (cfgGet_cfgPutCtrl ..).trans (if_pos rfl)
  · exact (cfgGet_cfgPutCtrl ..).trans (if_neg ne)

/-- HMT_CSUM takes every bit, LOCK or not. -/
theorem takes_csum {a b : Cells Word} {d : Word} (t : Takes a 0x6040 d b) : cfgGet b 0x6040 = d := by
  have rw_all : (regRow 0x6040).rw = BitVec.allOnes 32 := by decide
  have rwl_none : (regRow 0x6040).rwl = 0#32 := by decide
  have masked := t.1
  rw [rw_all, rwl_none, BitVec.or_zero, ite_self, BitVec.not_allOnes, BitVec.and_zero, BitVec.zero_or, BitVec.and_allOnes] at masked
  exact masked

include run in
theorem hmtCsumWrite_starts (d : Word) : AfterCfg (.hmtCsumWrite d) s (fun c h => cfgGet c 0x6040 = d ∧
    (∀ k, k ≠ 0x6040 → cfgGet c k = cfgGet s.cfg k) ∧ roGet h 0x6044 = 0x80000000 ∧ SameRegs [0x6044, 0x6048, 0x6010] s.hw h ∧
    ((∀ t, s.hw.units.hmt = some t → clkC s.hw < t + 4162) → SameRegs [0x6044] s.hw h) ∧
    h = { s.hw with ro := h.ro, hwSet := h.hwSet, units := { s.hw.units with hmt := some (clkC s.hw) } }) := by
  have takes := cfgPut_takes s.cfg 0x6040 d
  refine after_actReg (f := csumWrite d) run rfl rfl
    ⟨takes_csum takes, takes.2, hmtStart_stat .., hmtStart_regs (hmtEnd_regs s.cfg s.hw) (by decide), fun waits => ?_, hmtStart_only ..⟩
  exact hmtStart_regs (by rw [hmtEnd_waits waits]; exact .refl) (by decide)

include run in
theorem hmtCheckDone_shows {t : Nat} (e : s.hw.units.hmt = some t) (l : t + 4162 ≤ clkC s.hw) {P : Hw → Prop}
    (p : P (hmtShow (crc32 (coveredWords s.cfg)) (cfgGet s.cfg 0x6040) s.hw)) : After .hmtCheckDone s P :=
  after_act (f := hmtEnd) run rfl ((hmtEnd_due e l).symm ▸ p)

end

/-- Settles O58: each clause is what the model's operation for it leaves, and `step` is taken apart at the register queue. -/
theorem registersAreAccessed : Obligations.RegistersAreAccessed := by
  unfold Obligations.RegistersAreAccessed
  intro s run p stays
  refine ⟨fun write addr data => ⟨fun q o => ?_, fun full => ?_⟩, fun r rest o => ⟨fun cmd => ?_, fun n cmd may => ?_, fun cmd may => ?_⟩,
    fun o => ?_, fun idle count clear => ?_, fun o d => ?_, fun d => ?_, fun d => ?_, fun waits => ?_, fun t e l => ?_⟩
  · exact after_act (f := fun _ h => spRequest write addr data h) run rfl
      ⟨{ spAccess .sp write addr data with at_ := clkC s.hw }, rfl, rfl, rfl, rfl, rfl, (Bool.decide_or ..).symm, spRequest_ready q o⟩
  · exact after_stays (f := fun _ h => spRequest write addr data h) run rfl (spRequest_full full)
  · exact after_act (f := fun _ h => spResponse h) run rfl (spResponse_open o cmd)
  · exact after_act (f := fun _ h => spResponse h) run rfl (spResponse_last o cmd may)
  · exact after_stays (f := fun _ h => spResponse h) run rfl (spResponse_held o cmd may)
  · exact after_stays (f := fun _ h => spResponse h) run rfl (spResponse_waits o)
  · have next := step_of_running run idle
    refine ⟨fun between => ⟨_, next, tickRun_path_between count between⟩, fun edge => ?_⟩
    obtain ⟨tp, mesh, ok, failed⟩ := tickRun_queue count clear edge
    exact ⟨_, next, tp, mesh, ok, failed, fun a rest ok oldest sp bad => tickRun_bad count clear edge ok oldest sp bad⟩
  · refine ⟨fun ok cov apart units plain => ?_, fun ok units => registerWrite_units run ok units, fun ok e => ?_, fun none => ?_,
      fun mask => w1cWrite_clears run mask, fun mask => w1cWrite_none run mask, fun cov => coveredWordWrite_none cov, fun cov => ?_,
      fun path x w => lowWordRead_captures run w, fun path w => ?_⟩
    · exact registerWrite_other run ok cov (not_or.mpr ⟨apart, units⟩) plain
    · subst e
      exact registerWrite_log2w run ok
    · exact after_registerWrite (h := s.hw) run (regWrite_none none d s) rfl
    · exact coveredWordWrite_closes run cov ⟨cfgPut_takes .., hmtClose_idle, fun t => hmtClose_early, fun t => hmtClose_due, hmtClose_only ..⟩
    · exact after_stays (f := fun _ h => capture path o h) run rfl (capture_none w)
  · exact ⟨pgCmd_vpRetrain, pgCmd_vpDisable, pgCmd_clrCounters, pgCmd_marchStop, pgCmd_recover, pgCmd_pmuSnap, pgCmd_logFree,
      pgCmd_setMode, fun q has e0 e1 => pgCmd_decerr run has e0 e1⟩
  · exact ⟨slcCtrlWrite_locks run d, hmtCsumWrite_starts run d⟩
  · exact after_stays (f := hmtEnd) run rfl (hmtEnd_waits waits)
  · intro v ends
    refine ⟨fun same => hmtCheckDone_shows run e l ?_, fun differ => hmtCheckDone_shows run e l ?_⟩
    · rw [← same]
      exact ⟨⟨hmtShow_value .., hmtShow_only ..⟩, (hmtShow_stat ..).trans (if_pos rfl), hmtShow_match_regs v s.hw⟩
    · exact ⟨⟨hmtShow_value .., hmtShow_only ..⟩, (hmtShow_stat ..).trans (if_neg differ), hmtShow_mismatch differ s.hw, hmtShow_regs v _ s.hw⟩

end Sys2Proof.Machine
